-- ==== Sys2Proof/Word.lean ====
section
/-! DEFINITION. The words of the FG-2: 32-bit registers (R11), bytes, 64-byte descriptors (R367) and 40-byte parcel headers (R274). -/
namespace Sys2Proof

/-- A register word: registers are 32 bits wide (R11). -/
abbrev Word := BitVec 32

/-- One byte of an addressed space. -/
abbrev Byte := BitVec 8

/-- A 64-byte descriptor image, byte 0 in the least significant bits (R363, R367). -/
abbrev Desc := BitVec 512

/-- A 40-byte Prolaig parcel header, byte 0 in the least significant bits (R274, R335). -/
abbrev ParcelHdr := BitVec 320

end Sys2Proof
end

