-- ==== Sys2Proof/Syntax.lean ====
section
/-! DEFINITION. The commands of the block: one constructor per row of the operation and event table, with the operands that the surroundings or the self-timed fabric bring to it. -/
namespace Sys2Proof

/-- Who sends a register access: the host over PCI Express or a controller on the management port (R451). -/
inductive Src where
  | host | port
  deriving DecidableEq, Repr

/-- The registers of a function's configuration space that the spec describes (R356, R357): vendor and device ID, class code, Device Control. -/
inductive ConfigReg where
  | identity | classCode | deviceControl
  deriving DecidableEq, Repr

/-- Which register space an access names (R356, R362, R396); a register of configuration space is named and not placed, so an access there carries no offset. -/
inductive Space where
  | bar0
  | bar2 (fn : Fin 16)
  | config (fn : Fin 16) (reg : ConfigReg)
  deriving DecidableEq, Repr

/-- A fault that shows itself while a descriptor's work reads or computes (R323, R325, R457): a residue failure, an uncorrectable or a corrected error of basin SRAM; or, as a REPLAY reads them, retained ledger contents of a step that are lost (R352). -/
inductive UnitFault where
  | none
  | residue (array row col : Nat)   -- logical array, physical row, column
  | sramUe (addr : Nat)
  | sramCe (addr : Nat)
  | ledgerUe (step : Nat)
  deriving DecidableEq, Repr

/-- A ring whose descriptor reads basin SRAM or the ledger as the command acts, and the fault that the reads show. -/
structure RingRead where
  ring : Fin 8
  fault : UnitFault
  deriving DecidableEq, Repr

/-- What the lane finds in the word that it reads (R162, R163). -/
inductive LaneFault where
  | none | corrected | uncorrectable | residue
  deriving DecidableEq, Repr

/-- The class of a lane fault (R284). -/
inductive LaneClass where
  | electrical | optical
  deriving DecidableEq, Repr

/-- A crossing class (R434); the index is the sluice or module. -/
inductive Crossing where
  | sluiceTx (n : Fin 24) | sluiceRx (n : Fin 24) | transom (m : Fin 16) | pcie | mgmt | reset | jtag
  deriving DecidableEq, Repr

/-- A Prolaig parcel: its header bytes, its payload, and the CRC-32C that follows them (R274). -/
structure Parcel where
  hdr : ParcelHdr
  payload : List Byte
  crc : Word
  deriving DecidableEq, Repr

/-- The 642 bytes of a flit, byte 0 in the low bits (R267, R268). -/
abbrev Flit := BitVec 5136

/-- The oldest parcel of a virtual lane in a receive buffer, and what the crossings and the buffer have done to it: bytes of it and the bits that turned over (R278). -/
structure Arrival where
  vl : Fin 4
  upsets : List (Nat × Byte)
  deriving DecidableEq, Repr

/-- One codeword as the decoder of R267 leaves it: the physical lane that brought it, CW_TAG, the flit of its message, and the symbols that it corrected; more than 15 is a codeword that cannot be corrected, which delivers no flit. -/
structure Codeword where
  lane : Fin 9
  tag : Fin 16
  flit : Flit
  corrected : Nat
  deriving DecidableEq, Repr

/-- What one optical engine answers to a STATUS read: no answer, or its fault words (R287). -/
structure EngineStatus where
  port : Fin 24
  answered : Bool
  txFault : Nat        -- bit per wavelength
  lowPower : Nat       -- bit per wavelength
  deriving DecidableEq, Repr

/-- What a self-test, the fuses of FG2-P and the sideband bus show during power-up (R114, R167, R444, R472). -/
structure BootEnv where
  powerSerial : Nat                    -- the die-set serial that FG2-P reports
  mgtClk : Bool                        -- MGT_CLK present at the release
  hot : Bool                           -- some sensor at or above 110 °C (R426)
  railsUp : Bool                       -- VIN stays in range through the ramp (R490)
  enabled : Nat                        -- enabled basins
  spareBasins : Nat
  basinMap : List Word                 -- BSN_MAP_n values
  bankMap : List Word                  -- CST_BANK_MAP_n values
  engines : List (Nat × Nat)           -- sluice, I3C dynamic address of each engine found
  wipeMismatch : List (Nat × Nat)      -- class, units that failed read-back twice
  coreReady : Bool                     -- the core is ready by the time the host's first configuration request can arrive (R444, step 7)
  deriving DecidableEq, Repr

/-- Telemetry of one POWER_SAMPLE (R417, R423, R424): power in 0.1 W, the 48 junction sensors as PWR_TEMP codes, voltage and current as PWR_INPUT codes, VCORE current in A, working phases, and whether FG2-P reports an output overcurrent or a temperature over 125 °C of its own. -/
structure PowerMeas where
  die : Nat
  input : Nat
  sensors : List Nat
  vin : Nat
  iin : Nat
  amps : Nat
  phases : Nat
  overcurrent : Bool
  stageHot : Bool
  deriving DecidableEq, Repr

/-- A request of the device to the host that fails (R394). -/
inductive HostFailure where
  | fetch (fn : Fin 16) (ring : Fin 8)
  | completion (fn : Fin 16) (ring : Fin 8)
  | data (fn : Fin 16) (ring : Fin 8) (seq : Nat) (addr : Nat)
  | store (fn : Fin 16) (hosted : Bool)
  | message (fn : Fin 16)
  | event (fn : Fin 16)
  deriving DecidableEq, Repr

/-- A compute-die transaction on the Transom (R445): a read of bytes, or a write, at a window address. -/
structure Transaction where
  addr : Nat
  len : Nat
  data : Option (List Byte)
  deriving DecidableEq, Repr

/-- The commands. A descriptor row carries the function, the ring and the 64 bytes that the device read (R366); an event row carries what identifies the event. -/
inductive Instr where
  | nop (fn : Fin 16) (ring : Fin 8) (d : Desc)
  | fence (fn : Fin 16) (ring : Fin 8) (d : Desc)
  | fenceTimeout (fn : Fin 16) (ring : Fin 8)
  | planLoad (fn : Fin 16) (ring : Fin 8) (d : Desc)
  | stepOpen (fn : Fin 16) (ring : Fin 8) (d : Desc)
  | stepSeal (fn : Fin 16) (ring : Fin 8) (d : Desc)
  | copy (fn : Fin 16) (ring : Fin 8) (d : Desc) (fault : UnitFault)
  | gemm (fn : Fin 16) (ring : Fin 8) (d : Desc)
  | gemmPacked (fn : Fin 16) (ring : Fin 8) (d : Desc)
  | conv (fn : Fin 16) (ring : Fin 8) (d : Desc)
  | cascadeSlice (fn : Fin 16) (ring : RingRead) (d : Desc)
  | cascadeMultiply (fn : Fin 16) (ring : Fin 8) (d : Desc)
  | strictGemm (fn : Fin 16) (ring : Fin 8) (d : Desc) (fault : UnitFault)
  | cstOpen (fn : Fin 16) (ring : Fin 8) (d : Desc)
  | cstAdd (fn : Fin 16) (ring : RingRead) (d : Desc)
  | cstRead (fn : Fin 16) (ring : Fin 8) (d : Desc)
  | cstClose (fn : Fin 16) (ring : Fin 8) (d : Desc)
  | reduce (fn : Fin 16) (ring : Fin 8) (d : Desc)
  | allreduce (fn : Fin 16) (ring : Fin 8) (d : Desc)
  | reduceScatter (fn : Fin 16) (ring : Fin 8) (d : Desc)
  | broadcast (fn : Fin 16) (ring : Fin 8) (d : Desc)
  | allgather (fn : Fin 16) (ring : Fin 8) (d : Desc)
  | barrier (fn : Fin 16) (ring : Fin 8) (d : Desc)
  | statsReduce (fn : Fin 16) (ring : Fin 8) (d : Desc)
  | ledgerRelease (fn : Fin 16) (ring : Fin 8) (d : Desc)
  | mirrorSync (fn : Fin 16) (ring : Fin 8) (d : Desc)
  | mirrorSyncTimeout (fn : Fin 16)
  | replay (fn : Fin 16) (ring : RingRead) (d : Desc)
  | shardRestore (fn : Fin 16) (ring : Fin 8) (d : Desc)
  | shardRestoreTimeout (fn : Fin 16)
  | epochAdvance (fn : Fin 16) (ring : Fin 8) (d : Desc)
  | portJoin (fn : Fin 16) (ring : Fin 8) (d : Desc)
  | portJoinTimeout (port : Fin 24)
  | portLeave (fn : Fin 16) (ring : Fin 8) (d : Desc)
  | portLeaveDrained (port : Fin 24)
  | descriptorRetire (fn : Fin 16) (ring : Fin 8)
  | arrayUnitBegin (fn : Fin 16) (ring : Fin 8) (basin : Fin 128) (fault : UnitFault)
  | sumpRowDrain (basin : Fin 128)
  | cisternLaneOp (basin : Fin 128) (bank : Fin 64) (pick : Nat) (fault : LaneFault)
  | scrubOp (word : Nat) (fault : LaneFault)
  | stepGateOpen (fn : Fin 16)
  | partitionIdle (fn : Fin 16)
  | stepSealed (fn : Fin 16)
  | collectiveBegin (fn : Fin 16) (ring : RingRead)
  | upSegmentSend (fn : Fin 16) (plane : Fin 8)
  | collectiveTimeout (fn : Fin 16) (plane : Fin 8)
  | parcelReceived (port : Fin 24) (p : Arrival)
  | mirrorDetached (fn : Fin 16)
  | flitReceived (port : Fin 24) (f : Codeword)
  | nakReceived (port : Fin 24) (ack : Nat)
  | ackTimeout (port : Fin 24)
  | stateFlitReceived (port : Fin 24) (f : Codeword)
  | laneFailed (port : Fin 24) (lane : Fin 9) (cls : LaneClass)
  | laneDegraded (port : Fin 24) (lane : Fin 9)
  | laneCmdEffective (port : Fin 24) (transmit : Bool)
  | trainingWindow (port : Fin 24)
  | partnerDetected (port : Fin 24)
  | trainingComplete (port : Fin 24) (f : Flit)
  | trainingTimeout (port : Fin 24)
  | quarantineEnd (port : Fin 24)
  | beaconTick
  | beaconSample (port : Fin 24)
  | optPoll (answers : List EngineStatus)
  | optIntAssert (sweepDue : Bool) (answers : List EngineStatus)
  | optStuck
  | shutterQuiesced (fn : Fin 16)
  | wipeComplete (fn : Fin 16) (mismatch : List (Nat × Nat))
  | shutterOpen (fn : Fin 16)
  | functionLevelReset (fn : Fin 16)
  | fnReset (fn : Fin 16) (value : Word)
  | doorbell (fn : Fin 16) (ring : Fin 8) (pageOff size : Nat) (value : Word)
  | ringEnable (fn : Fin 16) (ring : Fin 8) (value : Word)
  | resume (fn : Fin 16) (ring : Fin 8) (value : Word)
  | evtRingEnable (fn : Fin 16) (value : Word)
  | evtHeadWrite (fn : Fin 16) (value : Word)
  | irqModerationTimer (fn : Fin 16) (ring : Fin 8)
  | msixUnmask (fn : Fin 16) (vector : Fin 128)
  | commit (value : Word)
  | stagedRegisterWrite (off size : Nat) (value : BitVec 64)
  | registerWrite (src : Src) (space : Space) (off size : Nat) (value : BitVec 64)
  | rasLogPop (value : Word)
  | mbxNop (src : Src) (cmd : Word)
  | mbxAbort (src : Src) (cmd : Word)
  | snapInfo (src : Src) (cmd : Word)
  | snapRead (src : Src) (cmd : Word)
  | snapRequest (src : Src) (cmd : Word)
  | ageLog (src : Src) (cmd : Word)
  | faultRecord (src : Src) (cmd : Word)
  | fwUpdate (src : Src) (cmd : Word)
  | fwActivate (src : Src) (cmd : Word)
  | lcsToken (src : Src) (cmd : Word)
  | mbxDataWrite (src : Src) (value : Word)
  | mbxDataRead (src : Src)
  | porstAssert
  | porstRelease (env : BootEnv)
  | perstAssert
  | perstDeassert (env : BootEnv)
  | hostConfigRequest
  | hostLinkDown
  | hostRequestFailure (k : HostFailure)
  | vfEnableClear
  | d3hotToD0 (fn : Fin 16)
  | transomTransaction (t : Transaction)
  | transomRetrain (module : Fin 16) (answered : Bool)
  | cdcStall (x : Crossing)
  | crossingRelease (x : Crossing)
  | crossingDrained (x : Crossing)
  | haltInChange (level : Bool) (coalesced : Nat)
  | tapReset
  | thermalEmergency (tj : Nat)
  | emergencyStep (tj : Nat)
  | emergencyEnd (tj : Nat)
  | thermtrip
  | powerSample (m : PowerMeas)
  | sentinelMeasure (readings : List (Nat × Nat))
  | phaseFault (phases : Nat)
  | vcoreUndervoltage
  | inputFault
  | vinLow (vin : Nat)
  | vddio18Fall
  | registerRead (src : Src) (space : Space) (off size : Nat)
  | vfEnableSet
  | d0ToD3hot (fn : Fin 16)
  | hostLinkUp
  | transomModuleTrained (module : Fin 16)
  | optIntDeassert
  | firmwareStop
  deriving DecidableEq, Repr

end Sys2Proof
end

