-- ==== Sys2Proof/Decode.lean ====
section
/-! DEFINITION. The commands that words of the operation table spell: the table gives no row any bits, so no word spells a command. -/
namespace Sys2Proof

/-- Every row of the table lists no fields, so a word of any width spells none of them. -/
def decodeTableWord (_nbits _w : Nat) : Option Instr := none

end Sys2Proof
end

