-- ==== Sys2Proof/Machine/Bits.lean ====
section
/-! DEFINITION. Bit-field, sign-extension and byte-order helpers (R10, R11): every multi-byte field of the manual is little-endian. -/
namespace Sys2Proof.Machine

/-- The field of `width` bits that starts at bit `lsb` of byte `byte` of a little-endian image. -/
def fld {w : Nat} (x : BitVec w) (byte lsb width : Nat) : Nat :=
  (x.toNat >>> (8 * byte + lsb)) % 2 ^ width

/-- One bit of a little-endian image. -/
def fbit {w : Nat} (x : BitVec w) (byte lsb : Nat) : Bool := fld x byte lsb 1 == 1

/-- Bits [msb:lsb] of a natural number, right-aligned. -/
def bits (x msb lsb : Nat) : Nat := (x >>> lsb) % 2 ^ (msb + 1 - lsb)

/-- A `width`-bit field read as two's complement. -/
def signed (width x : Nat) : Int :=
  if x % 2 ^ width < 2 ^ (width - 1) then ((x % 2 ^ width : Nat) : Int)
  else ((x % 2 ^ width : Nat) : Int) - ((2 ^ width : Nat) : Int)

/-- Little-endian bytes of a number, `k` of them. -/
def toLE : Nat → Nat → List Byte
  | 0, _ => []
  | k + 1, x => BitVec.ofNat 8 x :: toLE k (x / 256)

/-- The number that a little-endian byte string spells. -/
def ofLE : List Byte → Nat
  | [] => 0
  | b :: bs => b.toNat + 256 * ofLE bs

/-- Fields placed in an image: each entry gives (byte, lsb, width, value). -/
def packFields (w : Nat) (fs : List (Nat × Nat × Nat × Nat)) : BitVec w :=
  BitVec.ofNat w (fs.foldl (fun acc f => acc ||| ((f.2.2.2 % 2 ^ f.2.2.1) <<< (8 * f.1 + f.2.1))) 0)

/-- The mask that covers the fields (byte, lsb, width) of a layout. -/
def layoutMask (fs : List (Nat × Nat × Nat)) : Nat :=
  fs.foldl (fun acc f => acc ||| ((2 ^ f.2.2 - 1) <<< (8 * f.1 + f.2.1))) 0

/-- No bit outside the fields of a layout is set: "Bytes not listed in a layout are reserved and must be zero". -/
def onlyFields {w : Nat} (x : BitVec w) (fs : List (Nat × Nat × Nat)) : Bool :=
  x.toNat &&& layoutMask fs == x.toNat

/-- The lowest byte that holds a set bit outside the layout (0xFF where none does). -/
def firstReserved {w : Nat} (x : BitVec w) (fs : List (Nat × Nat × Nat)) : Nat :=
  match (List.range (w / 8)).find? (fun b => (x.toNat ^^^ (x.toNat &&& layoutMask fs)) >>> (8 * b) % 256 != 0) with
  | some b => b
  | none => 0xFF

/-- Two ranges [a, a+m) and [b, b+n) share a point. -/
def overlap (a m b n : Nat) : Bool := decide (a < b + n) && decide (b < a + m)

/-- Ceiling division. -/
def ceilDiv (a b : Nat) : Nat := (a + b - 1) / b

end Sys2Proof.Machine
end

