-- ==== Sys2Proof/Machine/Digest.lean ====
section
/-! DEFINITION. The device's pure digests: the Philox 4×32-10 generator (R244 to R246), CRC-64 of the numerics fingerprint (R407) and CRC-32C of parcels and wipe signatures (R274, R467), and CRC-32 of flits (R270). -/
namespace Sys2Proof.Machine

/-- One round function of Philox on (c0, c1, c2, c3) under (k0, k1) (R244). -/
def philoxRound (k0 k1 : Nat) (c : Nat × Nat × Nat × Nat) : Nat × Nat × Nat × Nat :=
  let p0 := 0xD2511F53 * c.1
  let p1 := 0xCD9E8D57 * c.2.2.1
  ((p1 / 2 ^ 32) ^^^ c.2.1 ^^^ k0, p1 % 2 ^ 32, (p0 / 2 ^ 32) ^^^ c.2.2.2 ^^^ k1, p0 % 2 ^ 32)

/-- `n` further rounds; the key advances before each round but the first. -/
def philoxRounds : Nat → Nat → Nat → Nat × Nat × Nat × Nat → Nat × Nat × Nat × Nat
  | 0, _, _, c => c
  | n + 1, k0, k1, c =>
    philoxRounds n ((k0 + 0x9E3779B9) % 2 ^ 32) ((k1 + 0xBB67AE85) % 2 ^ 32) (philoxRound k0 k1 c)

/-- The generator: ten rounds (R244). -/
def philox (k0 k1 c0 c1 c2 c3 : Nat) : Nat × Nat × Nat × Nat := philoxRounds 10 k0 k1 (c0, c1, c2, c3)

/-- Classes of the generator's users (R246). -/
def classRound : Nat := 0
def classCodec : Nat := 1
def classPlan : Nat := 2

/-- The random word of element `i` of stream `st`, class `cl`, step `n`, under the 128-bit root seed (R245). -/
def genWord (seed n st cl i : Nat) : Nat :=
  let j := i / 4
  let w := philox (bits seed 31 0) (bits seed 63 32) (bits j 31 0)
    (bits j 45 32 + (cl % 4) * 2 ^ 14 + (st % 2 ^ 16) * 2 ^ 16)
    ((n % 2 ^ 32) ^^^ bits seed 95 64) (bits seed 127 96)
  match i % 4 with
  | 0 => w.1
  | 1 => w.2.1
  | 2 => w.2.2.1
  | _ => w.2.2.2

/-- One bit of a reflected CRC. -/
def crcShift (poly c : Nat) : Nat := if c % 2 = 1 then (c / 2) ^^^ poly else c / 2

/-- One byte into a reflected CRC. -/
def crcByte (poly c : Nat) (b : Byte) : Nat :=
  (List.range 8).foldl (fun c _ => crcShift poly c) (c ^^^ b.toNat)

/-- CRC-64 of R407: polynomial 0x42F0_E1EB_A9EA_3693, all ones in, reflected, all ones out. -/
def crc64 (bs : List Byte) : Nat :=
  bs.foldl (crcByte 0xC96C5795D7870F42) (2 ^ 64 - 1) ^^^ (2 ^ 64 - 1)

/-- CRC-32C of R274 and R467: all ones in, reflected, all ones out. -/
def crc32c (bs : List Byte) : Nat :=
  bs.foldl (crcByte 0x82F63B78) (2 ^ 32 - 1) ^^^ (2 ^ 32 - 1)

/-- CRC-32 with the IEEE 802.3 polynomial (R270): all ones in, reflected, all ones out, as that standard has it. -/
def crc32 (bs : List Byte) : Nat :=
  bs.foldl (crcByte 0xEDB88320) (2 ^ 32 - 1) ^^^ (2 ^ 32 - 1)

end Sys2Proof.Machine
end

