-- ==== Sys2Proof/Machine/Number.lean ====
section
/-! DEFINITION. Exact values, the number formats and every rounding of "Number Formats and Conversions" (R40 to R72), and the IEEE operations that the arrays, the cistern, the strict lanes and the merge unit share. -/
namespace Sys2Proof.Machine

/-- An exact value: what a code of any format decodes to. `fin neg num den` is ±num/den with den ≥ 1; a zero keeps its sign (R46). -/
inductive Val where
  | nan
  | inf (neg : Bool)
  | fin (neg : Bool) (num den : Nat)
  deriving DecidableEq, Repr

/-- How an inexact magnitude goes to a grid: RNE, SR with its 32-bit word (R64, R65), or the directed roundings that the manual's pseudocode names (floor of a magnitude, and the least grid point not below). -/
inductive Rnd where
  | rne
  | sr (u : Nat)
  | down
  | up
  deriving DecidableEq, Repr

/-- ±m × 2^e as an exact value. -/
def Val.dyadic (neg : Bool) (m : Nat) (e : Int) : Val :=
  if 0 ≤ e then .fin neg (m * 2 ^ e.toNat) 1 else .fin neg m (2 ^ (-e).toNat)

/-- The value of an integer. -/
def Val.ofInt (i : Int) : Val := .fin (decide (i < 0)) i.natAbs 1

def Val.isNan : Val → Bool
  | .nan => true
  | _ => false

def Val.isInf : Val → Bool
  | .inf _ => true
  | _ => false

/-- Finite and nonzero. -/
def Val.isNonzero : Val → Bool
  | .fin _ n _ => n != 0
  | _ => false

def Val.isZero : Val → Bool
  | .fin _ n _ => n == 0
  | _ => false

/-- The sign bit (a NaN carries none, R45). -/
def Val.sign : Val → Bool
  | .nan => false
  | .inf s => s
  | .fin s _ _ => s

/-- Does n/d reach 2^t? -/
def reachesPow (n d : Nat) (t : Int) : Bool :=
  if 0 ≤ t then decide (d * 2 ^ t.toNat ≤ n) else decide (d ≤ n * 2 ^ (-t).toNat)

/-- ex of R78 for the magnitude n/d: the integer e with 2^(e−1) ≤ n/d < 2^e. -/
def exRat (n d : Nat) : Int :=
  if reachesPow n d ((Nat.log2 n : Int) - (Nat.log2 d : Int)) then (Nat.log2 n : Int) - (Nat.log2 d : Int) + 1
  else (Nat.log2 n : Int) - (Nat.log2 d : Int)

/-- n/d divided by 2^q, as a pair. -/
def scalePow (n d : Nat) (q : Int) : Nat × Nat :=
  if 0 ≤ q then (n, d * 2 ^ q.toNat) else (n * 2 ^ (-q).toNat, d)

/-- a/b rounded to an integer under the mode; SR compares u + d with 2^32 in 33 bits (R65). -/
def roundNat (mode : Rnd) (a b : Nat) : Nat :=
  match mode with
  | .rne => if 2 * (a % b) > b ∨ (2 * (a % b) = b ∧ a / b % 2 = 1) then a / b + 1 else a / b
  | .sr u => if a % b ≠ 0 ∧ u % 2 ^ 32 + (a % b) * 2 ^ 32 / b ≥ 2 ^ 32 then a / b + 1 else a / b
  | .down => a / b
  | .up => if a % b = 0 then a / b else a / b + 1

/-- n/d rounded to a multiple of 2^q, in units of 2^q. -/
def roundAt (mode : Rnd) (n d : Nat) (q : Int) : Nat :=
  roundNat mode (scalePow n d q).1 (scalePow n d q).2

/-- The quantum exponent at n/d of a grid of precision p whose smallest quantum is 2^qmin. -/
def quantum (p : Nat) (qmin : Int) (n d : Nat) : Int := max (exRat n d - p) qmin

/-- The magnitude code of n/d on the grid of precision p and smallest quantum 2^qmin, without an upper end: consecutive codes are consecutive grid points, so the exponent field and the fraction come out together. -/
def roundCode (p : Nat) (qmin : Int) (mode : Rnd) (n d : Nat) : Nat :=
  if n = 0 then 0
  else (quantum p qmin n d - qmin).toNat * 2 ^ (p - 1) + roundAt mode n d (quantum p qmin n d)

/-- The value of a magnitude code of such a grid. -/
def codeVal (p : Nat) (qmin : Int) (neg : Bool) (mag : Nat) : Val :=
  if mag < 2 ^ (p - 1) then Val.dyadic neg mag qmin
  else Val.dyadic neg (2 ^ (p - 1) + mag % 2 ^ (p - 1)) (qmin + ((mag / 2 ^ (p - 1) : Nat) : Int) - 1)

/-! ## The IEEE formats (R43) -/

/-- A binary interchange format: precision in significant bits and exponent width. -/
structure Ieee where
  p : Nat
  ebits : Nat
  deriving DecidableEq, Repr

def fp64 : Ieee := ⟨53, 11⟩
def fp32 : Ieee := ⟨24, 8⟩
def bf16 : Ieee := ⟨8, 8⟩
def fp16 : Ieee := ⟨11, 5⟩

def Ieee.width (f : Ieee) : Nat := f.ebits + f.p
def Ieee.bias (f : Ieee) : Nat := 2 ^ (f.ebits - 1) - 1
/-- Exponent of the smallest subnormal. -/
def Ieee.qmin (f : Ieee) : Int := 2 - (f.bias : Int) - (f.p : Int)
/-- Exponent of the smallest normal magnitude. -/
def Ieee.emin (f : Ieee) : Int := 1 - (f.bias : Int)
def Ieee.infCode (f : Ieee) : Nat := (2 ^ f.ebits - 1) * 2 ^ (f.p - 1)
/-- Canonical NaN, sign clear (R43, R45). -/
def Ieee.nanCode (f : Ieee) : Nat := f.infCode + 2 ^ (f.p - 2)
def Ieee.signBit (f : Ieee) (neg : Bool) : Nat := if neg then 2 ^ (f.width - 1) else 0

/-- The exact value of a code. -/
def Ieee.decode (f : Ieee) (c : Nat) : Val :=
  if c % 2 ^ (f.width - 1) > f.infCode then .nan
  else if c % 2 ^ (f.width - 1) = f.infCode then .inf (decide (c / 2 ^ (f.width - 1) % 2 = 1))
  else codeVal f.p f.qmin (decide (c / 2 ^ (f.width - 1) % 2 = 1)) (c % 2 ^ (f.width - 1))

/-- A NaN whose quiet bit is clear (R186). -/
def Ieee.isSignalling (f : Ieee) (c : Nat) : Bool :=
  decide (c % 2 ^ (f.width - 1) > f.infCode) && decide (c / 2 ^ (f.p - 2) % 2 = 0)

/-- Magnitude code of n/d with gradual underflow and R51's overflow: RNE overflows to infinity; under SR a magnitude beyond the largest finite value becomes infinity from half an ulp above it, and the largest finite value below that. -/
def Ieee.encodeMag (f : Ieee) (mode : Rnd) (n d : Nat) : Nat :=
  match mode with
  | .sr u =>
    if roundCode f.p f.qmin .down n d ≥ f.infCode - 1 then
      if roundCode f.p f.qmin .rne n d ≥ f.infCode then f.infCode else f.infCode - 1
    else roundCode f.p f.qmin (.sr u) n d
  | m => min (roundCode f.p f.qmin m n d) f.infCode

/-- A value rounded once into the format, subnormals being values (R45, R46, R51). -/
def Ieee.encode (f : Ieee) (mode : Rnd) : Val → Nat
  | .nan => f.nanCode
  | .inf s => f.signBit s + f.infCode
  | .fin s n d => f.signBit s + f.encodeMag mode n d

/-- R49: a result of the array output. `before` is CFG_NUMERICS.SUBN: 0 rounds as if the exponent range were unbounded and then flushes, 1 flushes on the exact magnitude. -/
def Ieee.encodeFlush (f : Ieee) (before : Bool) (mode : Rnd) : Val → Nat
  | .fin s n d =>
    if n = 0 then f.signBit s
    else if exRat n d ≤ f.emin then
      if !before && exRat n d == f.emin && roundAt mode n d (exRat n d - f.p) == 2 ^ f.p then
        f.signBit s + 2 ^ (f.p - 1)
      else f.signBit s
    else f.signBit s + f.encodeMag mode n d
  | v => f.encode mode v

/-- R48, array input: a subnormal operand is zero with its sign kept. -/
def Ieee.flushInput (f : Ieee) (c : Nat) : Nat :=
  if c % 2 ^ (f.width - 1) < 2 ^ (f.p - 1) then c / 2 ^ (f.width - 1) % 2 * 2 ^ (f.width - 1) else c

/-! ## Exact arithmetic (R46, R47) -/

/-- The exact sum of two finite values; an exact zero is +0 unless both addends are −0 (R46). -/
def addFin (s1 : Bool) (n1 d1 : Nat) (s2 : Bool) (n2 d2 : Nat) : Val :=
  if n1 = 0 ∧ n2 = 0 then .fin (s1 && s2) 0 1
  else if s1 = s2 then .fin s1 (n1 * d2 + n2 * d1) (d1 * d2)
  else if n1 * d2 = n2 * d1 then .fin false 0 1
  else if n1 * d2 > n2 * d1 then .fin s1 (n1 * d2 - n2 * d1) (d1 * d2)
  else .fin s2 (n2 * d1 - n1 * d2) (d1 * d2)

/-- IEEE sum before rounding; infinities of opposite sign give NaN. -/
def Val.add : Val → Val → Val
  | .nan, _ => .nan
  | _, .nan => .nan
  | .inf s, .inf t => if s = t then .inf s else .nan
  | .inf s, _ => .inf s
  | _, .inf t => .inf t
  | .fin s1 n1 d1, .fin s2 n2 d2 => addFin s1 n1 d1 s2 n2 d2

def Val.neg : Val → Val
  | .nan => .nan
  | .inf s => .inf (!s)
  | .fin s n d => .fin (!s) n d

/-- IEEE product before rounding: sign is the exclusive OR, zero times infinity is NaN (R46, R79). -/
def Val.mul : Val → Val → Val
  | .nan, _ => .nan
  | _, .nan => .nan
  | .inf s, .inf t => .inf (s != t)
  | .inf s, .fin t n _ => if n = 0 then .nan else .inf (s != t)
  | .fin s n _, .inf t => if n = 0 then .nan else .inf (s != t)
  | .fin s n1 d1, .fin t n2 d2 => .fin (s != t) (n1 * n2) (d1 * d2)

/-- a < b on non-NaN values, with −0 equal to +0. -/
def Val.lt : Val → Val → Bool
  | .nan, _ => false
  | _, .nan => false
  | .inf s, .inf t => s && !t
  | .inf s, .fin .. => s
  | .fin .., .inf t => !t
  | .fin s1 n1 d1, .fin s2 n2 d2 =>
    if n1 = 0 ∧ n2 = 0 then false
    else if s1 && !s2 then true
    else if !s1 && s2 then false
    else if s1 then decide (n2 * d1 < n1 * d2) else decide (n1 * d2 < n2 * d1)

/-- IEEE 754-2019 maximum (R47). -/
def Val.maximum (a b : Val) : Val :=
  if a.isNan || b.isNan then .nan
  else if a.lt b then b
  else if b.lt a then a
  else if a.sign then b else a

/-- IEEE 754-2019 minimum (R47). -/
def Val.minimum (a b : Val) : Val :=
  if a.isNan || b.isNan then .nan
  else if a.lt b then a
  else if b.lt a then b
  else if a.sign then a else b

/-- |a| as a finite pair; (0, 1) where not finite. -/
def Val.mag : Val → Nat × Nat
  | .fin _ n d => (n, d)
  | _ => (0, 1)

/-- The larger magnitude of two pairs. -/
def maxMag (a b : Nat × Nat) : Nat × Nat := if a.1 * b.2 < b.1 * a.2 then b else a

/-- FP32 addition under RNE, subnormals being values: the merge unit's addition (R197). -/
def fp32AddRne (a b : Nat) : Nat := fp32.encode .rne ((fp32.decode a).add (fp32.decode b))

/-- FP32 addition of the chunk accumulator (R82): rounded once, then R49 and R51. -/
def accAdd (before : Bool) (a b : Nat) : Nat :=
  fp32.encodeFlush before .rne ((fp32.decode a).add (fp32.decode b))

/-! ## Bopoyr and Microscaling elements (R52 to R56, R67) -/

/-- A small element format: mantissa width, exponent of its smallest nonzero magnitude, width in bits, and the code of the largest finite magnitude. -/
structure Mini where
  wm : Nat
  ks : Int
  nbits : Nat
  maxCode : Nat
  deriving DecidableEq, Repr

def bp8 : Mini := ⟨3, -9, 8, 0x7F⟩
def bp6 : Mini := ⟨2, -4, 6, 0x1F⟩
def bp4 : Mini := ⟨1, -1, 4, 0x7⟩
/-- OCP E4M3: as BP8, but 0x7F and 0xFF are NaN and the largest magnitude is 448 (R67). -/
def e4m3 : Mini := ⟨3, -9, 8, 0x7E⟩

def Mini.mag (f : Mini) (c : Nat) : Nat := c % 2 ^ (f.nbits - 1)
def Mini.neg (f : Mini) (c : Nat) : Bool := decide (c / 2 ^ (f.nbits - 1) % 2 = 1)
def Mini.signCode (f : Mini) (neg : Bool) : Nat := if neg then 2 ^ (f.nbits - 1) else 0

/-- The value of a code on the format's grid. -/
def Mini.decode (f : Mini) (c : Nat) : Val := codeVal (f.wm + 1) f.ks (f.neg c) (f.mag c)

/-- The element's integer in the integer view of R55, signed. -/
def Mini.integer (f : Mini) (c : Nat) : Int :=
  let m : Nat :=
    if f.mag c < 2 ^ f.wm then f.mag c
    else (2 ^ f.wm + f.mag c % 2 ^ f.wm) * 2 ^ (f.mag c / 2 ^ f.wm - 1)
  if f.neg c then -(m : Int) else (m : Int)

/-- emax of R61: the largest magnitude. -/
def Mini.emax (f : Mini) : Nat × Nat := (codeVal (f.wm + 1) f.ks false f.maxCode).mag

/-- round_elem of R61: onto the grid, saturating at the largest magnitude; zero keeps the sign. -/
def Mini.encode (f : Mini) (mode : Rnd) : Val → Nat
  | .nan => 0
  | .inf s => f.signCode s + f.maxCode
  | .fin s n d =>
    f.signCode s +
      (if roundCode (f.wm + 1) f.ks .down n d ≥ f.maxCode then f.maxCode
       else roundCode (f.wm + 1) f.ks mode n d)

/-! ## Fine scales (R57) -/

/-- The value of a fine-scale code below 0xFF: E5M3 with bias 15. -/
def fineVal (c : Nat) : Val := codeVal 4 (-17) false c

/-- The least fine-scale code in 0x01..0xFE whose value is not below n/d (n > 0), or 0xFE above the range (R61). -/
def fineFor (n d : Nat) : Nat := min (max (roundCode 4 (-17) .up n d) 1) 0xFE

/-! ## Format codes (R40) -/

/-- The formats of the 4-bit FMT field. -/
inductive Fmt where
  | fp32 | bf16 | fp16 | fp64 | int8 | bp8 | bp6 | bp4 | mx8_32 | mx6_32 | mx4_32 | mx8_16 | mx6_16 | mx4_16
  deriving DecidableEq, Repr

def Fmt.ofCode : Nat → Option Fmt
  | 0x0 => some .fp32 | 0x1 => some .bf16 | 0x2 => some .fp16 | 0x3 => some .fp64 | 0x4 => some .int8
  | 0x5 => some .bp8 | 0x6 => some .bp6 | 0x7 => some .bp4 | 0x8 => some .mx8_32 | 0x9 => some .mx6_32
  | 0xA => some .mx4_32 | 0xB => some .mx8_16 | 0xC => some .mx6_16 | 0xD => some .mx4_16 | _ => none

def Fmt.code : Fmt → Nat
  | .fp32 => 0 | .bf16 => 1 | .fp16 => 2 | .fp64 => 3 | .int8 => 4 | .bp8 => 5 | .bp6 => 6 | .bp4 => 7
  | .mx8_32 => 8 | .mx6_32 => 9 | .mx4_32 => 10 | .mx8_16 => 11 | .mx6_16 => 12 | .mx4_16 => 13

/-- The IEEE format behind a code, where it is one. -/
def Fmt.ieee : Fmt → Option Ieee
  | .fp32 => some Machine.fp32 | .bf16 => some Machine.bf16 | .fp16 => some Machine.fp16 | .fp64 => some Machine.fp64
  | _ => none

/-- The element format of a block format. -/
def Fmt.mini : Fmt → Option Mini
  | .bp8 => some Machine.bp8 | .bp6 => some Machine.bp6 | .bp4 => some Machine.bp4
  | .mx8_32 => some e4m3 | .mx8_16 => some e4m3
  | .mx6_32 => some Machine.bp6 | .mx6_16 => some Machine.bp6 | .mx4_32 => some Machine.bp4 | .mx4_16 => some Machine.bp4
  | _ => none

def Fmt.isBopoyr : Fmt → Bool
  | .bp8 | .bp6 | .bp4 => true
  | _ => false

def Fmt.isMx : Fmt → Bool
  | .mx8_32 | .mx6_32 | .mx4_32 | .mx8_16 | .mx6_16 | .mx4_16 => true
  | _ => false

def Fmt.isBlock (f : Fmt) : Bool := f.isBopoyr || f.isMx

/-- Elements in one block (R56, R67); 1 for a format without blocks. -/
def Fmt.blockSize : Fmt → Nat
  | .mx8_32 | .mx6_32 | .mx4_32 => 32
  | .bp8 | .bp6 | .bp4 | .mx8_16 | .mx6_16 | .mx4_16 => 16
  | _ => 1

/-- Bits of one stored element. -/
def Fmt.elemBits : Fmt → Nat
  | .fp64 => 64 | .fp32 => 32 | .bf16 => 16 | .fp16 => 16 | .int8 => 8
  | .bp8 | .mx8_32 | .mx8_16 => 8
  | .bp6 | .mx6_32 | .mx6_16 => 6
  | .bp4 | .mx4_32 | .mx4_16 => 4

/-- The packing unit of R120 in bytes. -/
def Fmt.packUnit : Fmt → Nat
  | .fp64 => 8 | .fp32 => 4 | .bf16 => 2 | .fp16 => 2
  | .bp6 | .mx6_32 | .mx6_16 => 3
  | _ => 1

/-- The positive, finite, normal FP32 coarse scale that R58 demands. -/
def coarseOk (c : Nat) : Bool := decide (2 ^ 23 ≤ c) && decide (c < fp32.infCode)

/-! ## Strict lanes: fused multiply-add with flags (R185, R186) -/

def flagInvalid : Nat := 0x01
def flagOverflow : Nat := 0x04
def flagUnderflow : Nat := 0x08
def flagInexact : Nat := 0x10

/-- Do two exact finite values denote the same number? -/
def Val.same : Val → Val → Bool
  | .fin s1 n1 d1, .fin s2 n2 d2 => decide (n1 * d2 = n2 * d1) && (n1 == 0 || s1 == s2)
  | a, b => decide (a = b)

/-- The exception flags of rounding a finite exact value into a format: tininess is detected after rounding, and underflow needs an inexact result. -/
def roundFlags (f : Ieee) (v : Val) : Nat :=
  match v with
  | .fin _ n d =>
    if n = 0 then 0
    else
      let c := f.encodeMag .rne n d
      if c ≥ f.infCode then flagOverflow ||| flagInexact
      else if (codeVal f.p f.qmin false c).same (.fin false n d) then 0
      else if exRat n d < f.emin ∨ (exRat n d = f.emin ∧ roundAt .rne n d (exRat n d - f.p) ≠ 2 ^ f.p) then
        flagUnderflow ||| flagInexact
      else flagInexact
  | _ => 0

/-- One fusedMultiplyAdd on codes under roundTiesToEven: the result code and the exception flags. -/
def fmaFlags (f : Ieee) (a b c : Nat) : Nat × Nat :=
  let va := f.decode a
  let vb := f.decode b
  let prod := va.mul vb
  let sum := prod.add (f.decode c)
  let invalid : Bool :=
    f.isSignalling a || f.isSignalling b || f.isSignalling c
      || (prod.isNan && !va.isNan && !vb.isNan)
      || (sum.isNan && !prod.isNan && !(f.decode c).isNan)
  (f.encode .rne sum, (if invalid then flagInvalid else 0) ||| roundFlags f sum)

end Sys2Proof.Machine
end

