-- ==== Sys2Proof/Config.lean ====
section
/-! DEFINITION. What an implementation fixes and the manual does not state: constants without a body, so that a proof can use no value of them. -/
namespace Sys2Proof.Config

/-- A value that the manual leaves open (undefined contents, fresh random bits, a time that this model does not count). The n-th draw of a run; `State.draws` counts the draws. -/
opaque freeValue : Nat → Nat

/-- SHA-384 (R461, R464): the manual names the function and does not define it. -/
opaque sha384 : List Byte → List Byte

/-- ECDSA P-384 verification of a signature over a digest under a public key (R460, R464). -/
opaque ecdsaVerify : (key digest sig : List Byte) → Bool

/-- Erelaut's public keys for firmware and for life-cycle tokens; their hashes are fused (R461, R463). -/
opaque firmwareKey : List Byte
opaque lifecycleKey : List Byte

/-- The junction temperature (°C) that the manager predicts at a VCORE code, from the measured temperature code, the measured power and the predicted power in 0.1 W (R421): the manual gives the ratio that the prediction uses for power and no thermal model. -/
opaque predictedTemp : (tj : List Nat) → (power predicted : Nat) → Nat

/-- The two delay sentinels nearest to a logical basin, and the logical basin nearest to a sentinel (R428, R429, R459): the manual gives no positions. -/
opaque nearSentinels : (basin : Nat) → Nat × Nat
opaque sentinelBasin : (sentinel : Nat) → Nat

/-- How far, in 0.01 % and at most 200, a basin whose taps have a ceiling above the VCORE in force runs below the table ("at most 2 % below the table", R419): of the code in force and the ceiling. -/
opaque aboveSlack : (code ceiling : Nat) → Fin 201

/-- How far, in 0.01 %, a basin that runs a spare row is slower ("about 2 %", R39): of the logical basin. -/
opaque spareSlack : (basin : Nat) → Fin 10001

/-- Whether a quantity between two steps of its register's grid is reported as the upper one (R433 gives the units and no rounding): numerator and denominator. -/
opaque reportUp : (num den : Nat) → Bool

/-- Erelaut's assigned PCI Express vendor ID (R356). -/
opaque vendorId : BitVec 16

/-- Whether a rank that is not this device's own child is absent from its domain (R202): the plane table does not say it. -/
opaque remoteAbsent : (domain epoch rank : Nat) → Bool

/-- The SECDED check bits of a stored word (R136); the manual gives its length and not its matrix. -/
opaque secded : (width data : Nat) → Nat

end Sys2Proof.Config
end

