-- ==== Sys2Proof/Machine/State.lean ====
section
/-! DEFINITION. The state of the block as plain data, the reasons a step can stop, and the state right after reset: PORST_N asserted, every register at its reset value, no command waiting. -/
namespace Sys2Proof.Machine

/-- Why a step stops with a fault. -/
inductive Fault where
  /-- Raised by a descriptor row whose 64 bytes carry the opcode of another row: such a command names no operation of the table. Safe. -/
  | commandMismatch (opcode : Nat)
  deriving DecidableEq, Repr

/-- Why a step has no meaning. -/
inductive Refusal where
  /-- Raised by an arm of `exec` that has no meaning yet. Safe. -/
  | notModelled (mnemonic : String)
  deriving DecidableEq, Repr

/-- A register image: offset and word of every register that differs from its reset value. -/
abbrev RegMap := List (Nat × Word)

/-! ### Cistern and arrays -/

/-- One cistern word (R136): DATA, SPEC (bit 0 NAN, 1 PINF, 2 NINF), the residue RES and ECC, kept as the difference from the check bits of the other three: zero is a valid word. -/
structure CWord where
  data : BitVec 128
  spec : BitVec 3
  res : BitVec 7
  ecc : BitVec 9
  deriving DecidableEq, Repr

/-- Who a lane operation or a drain belongs to: function, ring, sequence number. -/
structure Tag where
  fn : Nat
  ring : Nat
  seq : Nat
  deriving DecidableEq, Repr

/-- What a lane operation does to its word (R140, R148). -/
inductive LaneKind where
  /-- an add of DATA and SPEC -/
  | add (data : BitVec 128) (spec : BitVec 3)
  /-- a zeroing write -/
  | zero
  /-- a readout read of a CST_READ, handle word `elem` of its range; `clear` then zeroes the word -/
  | read (elem : Nat) (clear : Bool)
  deriving DecidableEq, Repr

structure LaneOp where
  tag : Tag
  word : Nat
  kind : LaneKind
  deriving DecidableEq, Repr

/-- A unit (a round of GEMM_PACKED, a slice pair of a MULTIPLY unit) whose chunk partials drain row by row (R94). The first drain of a basin empties its sump tile; one behind it waits in the chunk registers. -/
structure Drain where
  tag : Tag
  /-- the descriptor's 64 bytes -/
  d : Desc
  /-- seed and step number recorded at the STEP_OPEN (R249), and the ring's open step -/
  seed : BitVec 128
  step : Option Nat
  unit : Nat
  /-- array rows drained so far -/
  next : Nat
  deriving DecidableEq, Repr

/-- What the weight registers of an array hold (R75): the active tile and the shadow tile, element codes and fine scales. -/
structure Weights where
  active : List Nat
  activeFine : List Nat
  shadow : List Nat
  shadowFine : List Nat
  deriving DecidableEq, Repr

/-- Weight registers that no load has filled: no tile. -/
def Weights.none : Weights := { active := [], activeFine := [], shadow := [], shadowFine := [] }

/-- An OPEN sump tile (R96): basins, rows, the fields that an ACCUMULATE has to repeat, and the end of the open chunk. -/
structure Tile where
  ring : Nat
  first : Nat
  count : Nat
  row : Nat
  height : Nat
  sig : List Nat
  kEnd : Nat
  deriving DecidableEq, Repr

/-! ### Rings and flights -/

/-- A cistern handle (R153). -/
structure Handle where
  num : Nat
  fn : Nat
  ring : Nat
  base : Nat
  count : Nat
  wexp : Int
  crnd : Bool
  stripe : Bool
  carry : Bool
  step : Nat      -- the step that opened it
  /-- a CST_CLOSE has issued that has not taken effect (R155, R158) -/
  closing : Bool
  deriving DecidableEq, Repr

/-- Where a descriptor in flight stands (R371). -/
inductive Phase where
  | waiting      -- issued; its work has not begun
  | gate         -- applied at the partition's next Step Gate
  | running      -- its work has begun
  | done         -- its work has ended
  deriving DecidableEq, Repr

/-- The NaN that NTRAP reports: output row, column, chunk, source and problem (R104, R105). -/
structure Trap where
  m : Nat
  n : Nat
  j : Nat
  src : Nat
  prob : Nat
  deriving DecidableEq, Repr

/-- One segment of an open collective (R211): its index, vector, first element, length, shard and plane, and how far it has come. -/
structure Seg where
  idx : Nat
  vec : Nat
  first : Nat
  len : Nat
  shard : Nat
  plane : Nat
  /-- bit per child slot whose segment has been merged -/
  merged : Nat
  /-- SUM_ORDERED: codes at hand per slot -/
  childData : List (Nat × List Nat)
  /-- an encoded QUANT payload at hand (R306, R316) -/
  quant : List Byte
  upSent : Bool
  /-- down-phase values in place and forwarded -/
  got : Bool
  deriving DecidableEq, Repr

/-- An open collective (R210): CSEQ on each of its planes, its segments, and the ports that have carried a TIMEOUT parcel. -/
structure Coll where
  cseqs : List (Nat × Nat)
  segs : List Seg
  timeoutEdges : List Nat
  /-- its own contribution has entered, and residuals have been written (R319) -/
  entered : Bool
  deriving DecidableEq, Repr

/-- A descriptor in flight on a ring. -/
structure Flight where
  seq : Nat
  d : Desc
  /-- the ring's open step at issue -/
  step : Option Nat
  phase : Phase
  status : Nat
  detail : BitVec 160
  /-- units begun per basin -/
  begun : List (Nat × Nat)
  trap : Option Trap
  coll : Option Coll
  /-- the fault that its reads or its lanes show (R323, R325) -/
  fault : UnitFault
  /-- the handles that it names, as they stood in ring order at issue (R155) -/
  hands : List Handle
  /-- row maxima so far, as FP32 codes (R103) -/
  rowMax : List (Nat × Nat)
  deriving DecidableEq, Repr

/-- Why a ring issues nothing (R373). -/
inductive Stop where
  | none | halted | fetchFault | completionFault
  deriving DecidableEq, Repr

/-- The last completion that a ring has written: its slot, the bytes there before and the completion, its IRQ bit, and HEAD and the retired numbers above it before the write. A failure of the write takes it back (R373, R394). -/
structure LastDone where
  addr : Nat
  old : List Byte
  bytes : List Byte
  irq : Bool
  head : Nat
  written : List Nat
  deriving DecidableEq, Repr

/-- One command ring and its completion ring (R363, R364). -/
structure Ring where
  base : BitVec 64
  cbase : BitVec 64
  /-- a _LO word written whose HI has not been written (R11) -/
  baseLo : Option Word
  cbaseLo : Option Word
  ctl : Word
  mod : Word
  head : Nat
  tail : Nat
  /-- sequence number of the next descriptor to issue -/
  issue : Nat
  stop : Stop
  /-- in ring order -/
  flights : List Flight
  /-- STEP_SEALs retired whose completion is owed: sequence number, step and IRQ (R33) -/
  owed : List (Nat × Nat × Bool)
  /-- sequence numbers above HEAD whose completion has been written -/
  written : List Nat
  /-- completions that could not be written, oldest first: slot address, bytes, and the descriptor's IRQ bit (R373) -/
  failed : List (Nat × List Byte × Bool)
  last : Option LastDone
  lastStep : Nat
  openStep : Option Nat
  /-- completions since the last message (R388) -/
  unsignalled : Nat
  /-- descriptors retired, for snapshots -/
  retired : Nat
  deriving DecidableEq, Repr

/-- The event ring (R386). -/
structure EvtRing where
  base : BitVec 64
  baseLo : Option Word
  ctl : Word
  head : Nat
  prod : Nat
  dropped : Nat
  /-- an event message not yet acknowledged by a write to FN_EVT_HEAD (R388) -/
  unacked : Bool
  /-- the slot that the last entry went to and the bytes there before (R394) -/
  last : Option (Nat × List Byte)
  deriving DecidableEq, Repr

/-- Device Control of a function (R356, R357): Enable Relaxed Ordering, Max_Payload_Size (128 × 2^code bytes) and Max_Read_Request_Size (128 × 2^code bytes). -/
structure DevCtl where
  relaxed : Bool
  payload : Fin 3
  readRequest : Fin 6
  deriving DecidableEq, Repr

/-- A function's BAR2 registers and rings (R362). -/
structure Fn where
  rings : Vector Ring 8
  evt : EvtRing
  lastError : Word
  errorValue : Word
  errorCount : Nat
  wipeSig : Word
  /-- MSI-X table words, four a vector, and the pending bits -/
  msix : List (Nat × Word)
  pba : Nat
  d3hot : Bool
  devctl : DevCtl
  deriving DecidableEq, Repr

/-! ### Partitions -/

/-- Shutter states (R22). -/
inductive Shutter where
  | open_ | closing | closed | wiping | opening
  deriving DecidableEq, Repr

/-- Reasons of the last closure (R22). -/
inductive Reason where
  | none | functionReset | faultFence | sparing
  deriving DecidableEq, Repr

/-- A loaded plan (R382): the sections as the image gives them. -/
structure Plan where
  active : Nat
  test : Bool
  tensors : List (BitVec 512)
  taps : List (List Byte)
  planes : BitVec 2304
  mirror : BitVec 768
  gens : List (BitVec 128)
  own : List (BitVec 64)
  manifest : List (BitVec 128)
  deriving DecidableEq, Repr

/-- A mirror record: the post-images of step n (R333, R334). -/
structure Record where
  step : Nat
  handles : List Handle
  words : List (Nat × CWord)
  granules : List (Nat × List Byte)   -- image granule index, 8,192 bytes
  complete : Bool
  deriving DecidableEq, Repr

/-- How a step stands (R33, R34, R327). -/
inductive Fate where
  | open_ | sealed | failed | aborted
  deriving DecidableEq, Repr

/-- The settings of a configuration generation that a step's computation reads (R237, R404): CFG_NUMERICS, BSN_ARRAY_MODE, and the CTL and STREAM words of the codec profiles. -/
structure Settings where
  numerics : Word
  arrayMode : Word
  codec : List Word
  streams : List Word
  deriving DecidableEq, Repr

/-- A step that the ledger retains (R328, R249). -/
structure StepRec where
  n : Nat
  seed : BitVec 128
  gen : Word
  /-- the settings of generation `gen`, which a replay runs under (R255) -/
  settings : Settings
  /-- executions begun: the original and its replays (R322) -/
  runs : Nat
  /-- cistern words that lane operations of the step have touched (R163) -/
  touched : List Nat
  /-- rings that have issued STEP_SEAL n -/
  seals : Nat
  retired : Bool
  fate : Fate
  /-- check bits of R381 that failed: 0 residue, 1 parcels, 2 mirror, 3 descriptors -/
  failBits : Nat
  localDone : Bool
  acked : Bool
  /-- ledger contents at STEP_OPEN: carried handles, their words, residual tensor bytes, bytes of the share -/
  handles : List Handle
  words : List (Nat × CWord)
  resid : List (Nat × Byte)
  bytes : Nat
  /-- granule numbers written by the step (dirty tracking, R334) -/
  dirty : List Nat
  deriving DecidableEq, Repr

/-- The record of a plane (R493) with what R220 and R224 keep for it. -/
structure PlaneRec where
  /-- next CSEQ per step: (step, count) -/
  nextCseq : Option (Nat × Nat)
  /-- (STEP, CSEQ) of the last collective retired since the record was cleared -/
  lastDone : Option (Nat × Nat)
  /-- a STALE parcel's epoch above the partition's, and its port (R220) -/
  fencedBy : Option (Nat × Nat)
  /-- an ABORT for a collective that has not begun: step, CSEQ, and the port that brought it (R224) -/
  abortNext : Option (Nat × Nat × Nat)
  /-- epoch, step, CSEQ and port of parcels that have been noted EDGE_MISMATCH, and of those that a STALE parcel has answered -/
  edgeNoted : List (Nat × Nat × Nat × Nat)
  staleSent : List (Nat × Nat × Nat × Nat)
  deriving DecidableEq, Repr

/-- What waits at the gate beside the rings' G descriptors (R16): data-plane substitutions and retirements in queue order. -/
inductive GateReq where
  | spareRow (basin array row : Nat)
  | spareBasin (basin : Nat)
  | retireBank (basin bank : Nat)
  deriving DecidableEq, Repr

/-- Mirror states (R355). -/
inductive MirrorSt where
  | none | syncing | synced | detached | restoring | lost
  deriving DecidableEq, Repr

/-- The owner's side of the mirror and the local store's records (R333 to R338). -/
structure Mirror where
  st : MirrorSt
  base : Nat
  acked : Nat
  /-- records of the local store after the base -/
  records : List Record
  /-- the descriptor that a MIRROR_SYNC or a SHARD_RESTORE completes -/
  job : Option Tag
  /-- the last step of the running MIRROR_SYNC, and whether its base has been acknowledged -/
  target : Nat
  baseAcked : Bool
  /-- the state and the unacknowledged records before a MIRROR_SYNC or a SHARD_RESTORE: a REFUSE changes nothing (R337, R344, R350) -/
  stBefore : MirrorSt
  awaitBefore : List Nat
  /-- restore in progress: target step, image so far, VOUCH_STEP -/
  restoreTo : Nat
  restore : Record
  /-- restore parcels received, and the COUNT of the END -/
  restoreGot : Nat
  restoreEnd : Option Nat
  vouch : Nat
  /-- STEP_OPEN is rejected until a MIRROR_SYNC completes (R337) -/
  syncNeeded : Bool
  /-- STEP_OPEN is rejected until the next PLAN_LOAD (R348) -/
  shardLost : Bool
  /-- records whose END has been sent and whose ACK is due -/
  awaiting : List Nat
  /-- granules with an error logged under R323, and granules of basins substituted by SPARING: image granule indices -/
  damaged : List Nat
  deriving DecidableEq, Repr

/-- A record or a base transfer that arrives: its step, the distinct parcels so far, and the COUNT of its END (R334 to R336). -/
structure Xfer where
  step : Nat
  isBase : Bool
  got : List Parcel
  endCount : Option Nat
  deriving DecidableEq, Repr

/-- The hosting side: the store kept for HOSTED_RANK (R336). -/
structure Hosted where
  accepted : Bool
  /-- the last HELLO with BASE was accepted: a refused one leaves the store as it was (R337) -/
  baseOk : Bool
  rank : Nat
  size : Nat
  base : Option Record
  baseStep : Nat
  records : List Record
  /-- transfers under way, oldest first; a complete record may wait here for a RELEASE -/
  xfers : List Xfer
  /-- the last SEALED value reported by the hosted rank -/
  sealed : Nat
  deriving DecidableEq, Repr

/-- One partition (R25, R360). -/
structure Part where
  shutter : Shutter
  reason : Reason
  /-- a substitution that the closure has to make before it ends (R28, R494) -/
  closureSpares : List GateReq
  /-- no spare was left for a fault that reached a function reset: the Shutter ends CLOSED for FAULT_FENCE (R494, R468) -/
  fenceAfter : Bool
  /-- REASON FUNCTION_RESET wipes the union of old and new basins (R361): ranges of first and count -/
  wipeRange : List (Nat × Nat)
  /-- partition-scoped values in force (R404) -/
  numerics : Word
  arrayMode : Word
  cstRetire : Word
  /-- the latest commit is not applied yet -/
  cfgPending : Bool
  gen : Word
  /-- the settings that the open step runs under (R255) -/
  asRun : Option Settings
  /-- CLV_PLANES_n.JOINED: a bit per plane, as it stood at the last Step Gate, PLAN_LOAD or function reset (R231) -/
  joined : Nat
  fp : BitVec 64
  /-- CFG_NUM_FP_n_HI as a read of LO captured it (R412) -/
  fpHi : Option Word
  plan : Option Plan
  epoch : Nat
  /-- the open step: its number is the last of `steps` while it is open -/
  openStep : Option Nat
  opened : Nat
  openedValid : Bool
  sealed : Nat
  sealedValid : Bool
  steps : List StepRec
  /-- holding for a failed or aborted step (R339) -/
  recovery : Bool
  /-- first and last replayed step of the last REPLAY (R341) -/
  replayed : Option (Nat × Nat)
  reqs : List GateReq
  snapPending : Bool
  handles : List Handle
  tiles : List Tile
  planes : Vector PlaneRec 8
  mirror : Mirror
  hosted : Hosted
  /-- counters 0 to 31 of a snapshot (R457), beats per logical basin, snapshot sequence and skips -/
  counters : Vector Nat 32
  beats : List (Nat × Nat)
  snapSeq : Nat
  skipped : Nat
  /-- traps of the open step: ring, SEQ and completion detail; whether its TRAP_REPORT has been written (R106) -/
  traps : List (Nat × Nat × Nat)
  trapReported : Bool
  deriving DecidableEq, Repr

/-! ### Sluices -/

/-- Port states (R288). -/
inductive PortSt where
  | dark | seeking | training | trained | joined | leaving | quarantined
  deriving DecidableEq, Repr

/-- A LANE_CMD in progress (R272, R285), with its effective CWCOUNT[31:0]. -/
structure LaneCmd where
  add : Bool
  lane : Nat
  phys : Nat
  wl : Nat
  slot : Nat
  deriving DecidableEq, Repr

/-- One direction of a port: physical lane and wavelength of each logical lane (0xF inactive), failures, the pending lane command and swap. -/
structure Dir where
  lanes : Vector Nat 8
  wls : Vector Nat 8
  /-- physical lane and wavelength that each logical lane has, or had when it left the rotation (R298) -/
  homeLanes : Vector Nat 8
  homeWls : Vector Nat 8
  badLanes : Nat
  badWls : Nat
  laneSpared : Bool
  wlSpared : Bool
  cmds : List LaneCmd
  width : Nat
  deriving DecidableEq, Repr

/-- What the two ends of a link tell each other in STATE flits (R272), decoded; `fault` is logical lane, class and fault count, `verified` the highest PSEQ of each virtual lane, `pfail` virtual lane and PSEQ. -/
structure StateBody where
  cwcount : Nat
  beacon : Nat
  owned : Bool
  hasPlan : Bool
  joinReq : Bool
  leave : Bool
  trained : Bool
  domain : Nat
  rank : Nat
  port : Nat
  rxActive : Nat
  fault : Option (Nat × LaneClass × Nat)
  laneCmd : Option LaneCmd
  verified : List Nat
  pfail : Option (Nat × Nat)
  deriving DecidableEq, Repr

/-- A flit that a port sends (R270): its kind and what every flit carries. -/
inductive FlitKind where
  | idle
  | data (fseq pstart : Nat) (body : List Byte)
  | state (b : StateBody)
  deriving DecidableEq, Repr

/-- A flit on the line: the codeword slot (CWCOUNT) and the logical lane that carry it, ACK, NAK and the credits of two virtual lanes. -/
structure Sent where
  slot : Nat
  lane : Nat
  kind : FlitKind
  ack : Nat
  nak : Bool
  credA : Nat × Nat
  credB : Nat × Nat
  deriving DecidableEq, Repr

/-- A DATA flit that the retry buffer keeps (R282). -/
structure DataFlit where
  fseq : Nat
  pstart : Nat
  body : List Byte
  deriving DecidableEq, Repr

/-- A parcel that waits for its turn: header without PSEQ, payload, and the partition and step that send it (R274, R280). -/
structure Draft where
  hdr : ParcelHdr
  payload : List Byte
  part : Nat
  step : Nat
  deriving DecidableEq, Repr

/-- The fields of a STATE flit whose change sends an extra one (R273): FLAGS, FAULT, LANE_CMD and PFAIL. -/
structure StateNews where
  flags : Nat
  fault : Option (Nat × LaneClass × Nat)
  laneCmd : Option LaneCmd
  pfail : Option (Nat × Nat)
  deriving DecidableEq, Repr

/-- One sluice. -/
structure Port where
  st : PortSt
  addr : Nat
  present : Bool
  engineMiss : Nat
  dark : Bool
  /-- commands written to the port's engine over the sideband bus, oldest first: code and bytes (R287) -/
  engine : List (List Nat)
  owner : Option Nat
  /-- DOMAIN_ID and RANK of the owner's plane table (R272) -/
  ident : Option (Nat × Nat)
  tx : Dir
  rx : Dir
  partnerRank : Nat
  partnerPort : Nat
  partnerDom : Nat
  partnerPlan : Bool
  partnerOwned : Bool
  partnerTrained : Bool
  partnerJoin : Bool
  partnerBeacon : Nat
  sampledBeacon : Nat
  stateSeen : Bool
  misses : Nat
  suspect : Bool
  valid : Bool
  joinReq : Bool
  leave : Bool
  /-- rejoin without a descriptor once trained (R290): the partner's DOMAIN_ID, RANK and PORT before DOWN -/
  rejoin : Option (Nat × Nat × Nat)
  flaps : Nat
  quarLeft : Nat
  beacon : Nat
  /-- the transmit direction: codeword slot and the next logical lane of its rotation, flits sent (oldest first), ACK and NAK as last sent, and the STATE fields as last sent (R268, R271, R273) -/
  slot : Nat
  turn : Nat
  line : List Sent
  told : Nat × Bool
  news : StateNews
  /-- CWCOUNT of the receive direction, as the last STATE flit gave it -/
  rxSlot : Nat
  /-- bytes of started parcels that no flit carries yet, and bytes received of a parcel that is not whole yet (R271) -/
  txRest : List Byte
  rxRest : List Byte
  /-- whole parcels in the receive buffers, in order of arrival (R276, R278) -/
  rxbuf : List Parcel
  /-- per receive lane: codewords with 12 or more corrected symbols in the current 1 ms window (R284) -/
  weak : Vector Nat 9
  /-- link-level retry (R281, R282) -/
  nextFseq : Nat
  retry : List DataFlit
  resends : Nat
  lastNak : Option Nat
  expected : Nat
  nak : Bool
  lostFlits : Nat
  /-- parcels: credits held, parcels waiting for credits, PSEQ counters, VERIFIED reported and received, PFAIL, FAULT -/
  credits : Vector Nat 4
  owedCredits : Vector Nat 4
  waiting : List Draft
  pseqTx : Vector Nat 4
  pseqRx : Vector Nat 4
  verifiedRx : Vector Nat 4
  unverified : List (Nat × Nat × Nat × Nat)   -- virtual lane, PSEQ, partition, step
  pfail : Option (Nat × Nat)
  fault : Option (Nat × LaneClass)
  faultCount : Nat
  /-- fault count of the partner's last FAULT report that has been acted on -/
  partnerFaults : Nat
  held : List Parcel
  /-- credits of each virtual lane that its training fixed (R276, R298) -/
  vlbuf : Word
  counters : Vector Nat 16
  /-- a 10 ms training pattern burst is under way (R289) -/
  burst : Bool
  deriving DecidableEq, Repr

/-! ### Device -/

/-- The staged configuration (R398 to R403). -/
structure Cfg where
  staged : RegMap
  bad : List (Nat × BitVec 64)
  committed : RegMap
  force : RegMap
  tagLocked : Bool
  /-- a commit has taken an LDG_FDOMAIN write; its application locks the tag (R11) -/
  tagDue : Bool
  seq : Nat
  clampLog : List (Nat × Nat × Nat × Nat × Nat)    -- OFFSET, LSB, KIND, WRITTEN, APPLIED
  clampOverflow : Bool
  clampSeq : Nat
  deriving DecidableEq, Repr

/-- One 10 µs sample of the window (R423): engine-die and input power in 0.1 W, and the hottest sensor as a PWR_TEMP code. -/
structure PSample where
  die : Nat
  input : Nat
  tj : Nat
  deriving DecidableEq, Repr

/-- The power and ageing manager (R415 to R433). -/
structure Power where
  /-- VCORE in force, and VCORE in force at the last POWER_SAMPLE, as PWR_VCORE codes -/
  code : Nat
  measCode : Nat
  target : Nat
  limit : Nat
  ageChoice : Bool
  plFault : Bool
  phases : Nat
  /-- VSRAM in force in steps of 2.5 mV above 0.55 V, and the set-point frames sent to FG2-P: true = VSRAM, its code (R415, R417) -/
  vsram : Nat
  frames : List (Bool × Nat)
  /-- samples of the last PWR_CAP.WINDOW_MS, newest first (R421, R423) -/
  window : List PSample
  tjMax : Nat
  tjMean : Nat
  vin : Nat
  iin : Nat
  amps : Nat
  emergency : Bool
  /-- per logical basin: drift covered by the taps in force (0.01 %), ceiling code of the taps, and tap re-plans that wait: basin, drift, ceiling -/
  covered : List (Nat × Nat)
  ceiling : List (Nat × Nat)
  replan : List (Nat × Nat × Nat)
  /-- ageing offset in force, and the one that the next planned change brings, in codes (R420, R429) -/
  offset : Nat
  nextOffset : Nat
  /-- growth of each sentinel (0.01 %), and TIME of the last sweep -/
  sentinels : List (Nat × Nat)
  sweepTime : Nat
  /-- engine-die energy in µJ -/
  microJ : Nat
  counters : Vector Nat 16
  deriving DecidableEq, Repr

/-- Mailbox states (R470). -/
inductive MbxSt where
  | idle | busy | write | read | done | error
  deriving DecidableEq, Repr

/-- The mailbox (R453, R454). -/
structure Mbx where
  cmd : Word
  arg : Word
  st : MbxSt
  source : Bool
  result : Nat
  words : Nat
  buf : List Word
  error : Word
  alert : Bool
  deriving DecidableEq, Repr

/-- Life cycle and firmware store (R460 to R465). -/
structure Lcs where
  state : Nat
  ownerSet : Bool
  ownerHash : List Byte
  ownerKey : List Byte
  nonce : BitVec 128
  svnMin : Nat
  /-- active bank, running bank, banks (words; empty = marked empty), version of the running image, recovery mode -/
  active : Bool
  running : Bool
  bankA : List Word
  bankB : List Word
  version : Nat
  otherValid : Bool
  recovery : Bool
  fwUp : Bool
  wipeSig : Word
  serial : BitVec 64
  records : List (BitVec 256)
  /-- an accepted LCS_TOKEN waits for its function resets (R465), and units that failed read-back in their wipes: class, units -/
  tokenBusy : Bool
  tokenMiss : List (Nat × Nat)
  deriving DecidableEq, Repr

/-- One snapshot slot (R457): VALID and the image's words. -/
structure Slot where
  valid : Bool
  seq : Nat
  words : List Word
  inUse : Bool
  deriving DecidableEq, Repr

/-- Physical mapping and failure counts of the spare and repair controller (R107 to R110, R322, R323, R163). -/
structure Spares where
  enabled : Nat
  spareBasins : Nat
  basinMap : List (Nat × Word)
  bankMap : List (Nat × Word)
  /-- (basin, physical array) running its spare row; (basin, logical array, physical array) -/
  rowMap : List (Nat × Nat × Nat)      -- basin, array, row replaced
  arrayMap : List (Nat × Nat × Nat)
  rowFails : List (Nat × Nat × Nat × Nat × Nat × Nat)  -- basin, array, row, partition, step and execution of a failure
  sramUe : List (Nat × Nat)            -- basin, count
  corrected : List (Nat × Nat × Nat)   -- basin, bank, corrected errors since the last gate
  deriving DecidableEq, Repr

/-- Reset, boundary and pin state (R434 to R450, R475). -/
structure Sys where
  porst : Bool
  perst : Bool
  rails : Bool
  /-- the power-up that waits for firmware that passes and for every sensor to read below 110 °C (R426, R461, R490) -/
  rampWait : Option BootEnv
  coreUp : Bool
  ready : Bool
  linkUp : Bool
  vfEnable : Bool
  cause : Nat
  trip : Bool
  haltRaw : Bool
  halt : Bool
  haltAccepted : Nat
  haltCoalesced : Nat
  optInt : Bool
  optAsserts : Nat
  optSweeps : Nat
  optPending : Bool
  optStuck : Bool
  optUp : Bool
  mgmtFallback : Bool
  stallClass : Nat
  stallIndex : Nat
  stallCount : Nat
  stalled : List Crossing
  /-- crossings whose change of mode waits until they are empty, and the mode of every crossing class in effect -/
  modePending : List Crossing
  compat : List Crossing
  d2dTrained : Nat
  d2dReady : Bool
  tapReset : Bool
  deriving DecidableEq, Repr

/-- Kinds of posted writes to the host (R357). -/
inductive PostKind where
  | data | completion | event | message
  deriving DecidableEq, Repr

/-- A posted write to the host: the function whose routing ID it carries, Relaxed Ordering, its kind, address and bytes (R357, R388). -/
structure Posted where
  fn : Nat
  relaxed : Bool
  kind : PostKind
  addr : Nat
  bytes : List Byte
  deriving DecidableEq, Repr

/-- What the last command gave to its sender, and the posted writes that the device has made, oldest first. -/
structure Out where
  readData : BitVec 64
  /-- 0 none, 1 Request Retry Status, 2 normal completion, 3 NOT_READY, 4 NACK, 5 transaction done -/
  answer : Nat
  bytes : List Byte
  posted : List Posted
  deriving DecidableEq, Repr

/-- The block. -/
structure State where
  pending : List Instr
  /-- basin SRAM, the Transom window, host memory -/
  sram : List (Nat × Byte)
  /-- SRAM addresses whose word holds an uncorrectable error until it is written (R323) -/
  badSram : List Nat
  transom : List (Nat × Byte)
  host : List (Nat × Byte)
  cistern : List (Nat × CWord)
  /-- weight registers of array a of basin b at key 16 × b + a (R75) -/
  weights : List (Nat × Weights)
  laneq : List LaneOp
  /-- chunk registers ((basin × 16 + array) × 2,048 + row × 64 + column): an FP32 code, or a 32-bit integer for INT8, and the NaN source of each -/
  chunk : List (Nat × Word)
  chunkNan : List (Nat × Nat)
  /-- sump entries ((basin × 16 + array) × 8,192 + row × 64 + column) as FP32 codes, and the NaN source of each -/
  sump : List (Nat × Word)
  sumpNan : List (Nat × Nat)
  drains : List (Nat × Drain)
  parts : Vector Part 16
  fns : Vector Fn 16
  ports : Vector Port 24
  cfg : Cfg
  spares : Spares
  power : Power
  mbx : Mbx
  lcs : Lcs
  slots : Vector (Slot × Slot) 16
  ras : List (BitVec 256)
  rasOverflow : Bool
  evtStatus : Nat
  evtFaultEn : Nat
  evtError : Word
  sys : Sys
  out : Out
  draws : Nat
  deriving DecidableEq, Repr

/-! ### Reset -/

/-- A ring as a function reset leaves it (R364). -/
def Ring.reset : Ring :=
  { base := 0, cbase := 0, baseLo := none, cbaseLo := none, ctl := 0xC, mod := 1, head := 0, tail := 0, issue := 0, stop := .none, flights := [],
    owed := [], written := [], failed := [], last := none, lastStep := 0, openStep := none, unsignalled := 0, retired := 0 }

/-- A function as a function reset leaves it (R390). -/
def Fn.reset : Fn :=
  { rings := Vector.replicate 8 Ring.reset,
    evt := { base := 0, baseLo := none, ctl := 0xC, head := 0, prod := 0, dropped := 0, unacked := false, last := none },
    lastError := 0, errorValue := 0, errorCount := 0, wipeSig := 0, msix := [], pba := 0, d3hot := false,
    devctl := { relaxed := true, payload := 0, readRequest := 2 } }

def PlaneRec.reset : PlaneRec :=
  { nextCseq := none, lastDone := none, fencedBy := none, abortNext := none, edgeNoted := [], staleSent := [] }

def Record.empty : Record := { step := 0, handles := [], words := [], granules := [], complete := false }

def Mirror.reset : Mirror :=
  { st := .none, base := 0, acked := 0, records := [], job := none, target := 0, baseAcked := false,
    stBefore := .none, awaitBefore := [], restoreTo := 0,
    restore := Record.empty, restoreGot := 0, restoreEnd := none, vouch := 0xFFFFFFFF, syncNeeded := false, shardLost := false, awaiting := [], damaged := [] }

def Hosted.reset : Hosted :=
  { accepted := false, baseOk := false, rank := 0, size := 0, base := none, baseStep := 0, records := [], xfers := [], sealed := 0xFFFFFFFF }

/-- A partition with no plan and an open Shutter. -/
def Part.reset : Part :=
  { shutter := .open_, reason := .none, closureSpares := [], fenceAfter := false, wipeRange := [], numerics := 0, arrayMode := 0x12,
    cstRetire := 16, cfgPending := false, gen := 0, asRun := none, joined := 0, fp := 0, fpHi := none, plan := none, epoch := 0, openStep := none,
    opened := 0, openedValid := false, sealed := 0, sealedValid := false, steps := [], recovery := false, replayed := none,
    reqs := [], snapPending := false, handles := [], tiles := [], planes := Vector.replicate 8 PlaneRec.reset,
    mirror := Mirror.reset, hosted := Hosted.reset, counters := Vector.replicate 32 0, beats := [], snapSeq := 0,
    skipped := 0, traps := [], trapReported := false }

def Dir.reset : Dir :=
  { lanes := Vector.replicate 8 0xF, wls := Vector.replicate 8 0xF, homeLanes := Vector.replicate 8 0xF,
    homeWls := Vector.replicate 8 0xF, badLanes := 0, badWls := 0, laneSpared := false,
    wlSpared := false, cmds := [], width := 0 }

/-- A DARK sluice (R289). -/
def Port.reset : Port :=
  { st := .dark, addr := 0, present := false, engineMiss := 0, dark := true, engine := [], owner := none, ident := none, tx := Dir.reset, rx := Dir.reset,
    partnerRank := 0, partnerPort := 0, partnerDom := 0, partnerPlan := false, partnerOwned := false, partnerTrained := false, partnerJoin := false, partnerBeacon := 0,
    sampledBeacon := 0, stateSeen := false, misses := 0, suspect := false, valid := false, joinReq := false, leave := false,
    rejoin := none, flaps := 0, quarLeft := 0, beacon := 0,
    slot := 0, turn := 0, line := [], told := (4095, false), news := { flags := 0, fault := none, laneCmd := none, pfail := none }, rxSlot := 0,
    txRest := [], rxRest := [], rxbuf := [], weak := Vector.replicate 9 0, nextFseq := 0, retry := [], resends := 0, lastNak := none,
    expected := 0, nak := false, lostFlits := 0, credits := Vector.replicate 4 0, owedCredits := Vector.replicate 4 0,
    waiting := [], pseqTx := Vector.replicate 4 0, pseqRx := Vector.replicate 4 0,
    verifiedRx := Vector.replicate 4 0, unverified := [], pfail := none, fault := none, faultCount := 0, partnerFaults := 0,
    held := [], vlbuf := 0x02E002E0, counters := Vector.replicate 16 0, burst := false }

def Cfg.reset : Cfg :=
  { staged := [], bad := [], committed := [], force := [], tagLocked := false, tagDue := false, seq := 0, clampLog := [],
    clampOverflow := false, clampSeq := 0 }

def Power.reset : Power :=
  { code := 0, measCode := 0, target := 0, limit := 0, ageChoice := false, plFault := false, phases := 24, vsram := 0, frames := [], window := [], tjMax := 0,
    tjMean := 0, vin := 0, iin := 0, amps := 0, emergency := false, covered := [], ceiling := [], replan := [], offset := 0, nextOffset := 0,
    sentinels := [], sweepTime := 0, microJ := 0, counters := Vector.replicate 16 0 }

def Mbx.reset : Mbx :=
  { cmd := 0, arg := 0, st := .idle, source := false, result := 0, words := 0, buf := [], error := 0, alert := false }

/-- The life-cycle fuses as this model ships them: OPERATIONAL with an owner key hash (DESIGN CHOICE, assumption 5). -/
def Lcs.reset : Lcs :=
  { state := 4, ownerSet := true, ownerHash := [], ownerKey := [], nonce := 0, svnMin := 0, active := false, running := false,
    bankA := [], bankB := [], version := 0, otherValid := false, recovery := false, fwUp := false, wipeSig := 0, serial := 0,
    records := [], tokenBusy := false, tokenMiss := [] }

def Slot.empty : Slot := { valid := false, seq := 0, words := [], inUse := false }

/-- Self-test results before any self-test (R114). -/
def Spares.reset : Spares :=
  { enabled := 128, spareBasins := 0, basinMap := [], bankMap := [], rowMap := [], arrayMap := [], rowFails := [], sramUe := [],
    corrected := [] }

/-- PORST_N asserted at the first power-up: VAON up, core rails off. -/
def Sys.reset : Sys :=
  { porst := true, perst := true, rails := false, rampWait := none, coreUp := false, ready := false, linkUp := false,
    vfEnable := false, cause := 0, trip := false, haltRaw := false, halt := false, haltAccepted := 0, haltCoalesced := 0,
    optInt := false, optAsserts := 0, optSweeps := 0, optPending := false, optStuck := false, optUp := false,
    mgmtFallback := false, stallClass := 0, stallIndex := 0, stallCount := 0, stalled := [], modePending := [], compat := [],
    d2dTrained := 0, d2dReady := false, tapReset := true }

def Out.reset : Out := { readData := 0, answer := 0, bytes := [], posted := [] }

/-- The machine right after reset. -/
def State.reset : State :=
  { pending := [], sram := [], badSram := [], transom := [], host := [], cistern := [], weights := [], laneq := [], chunk := [], chunkNan := [], sump := [], sumpNan := [], drains := [],
    parts := Vector.replicate 16 Part.reset, fns := Vector.replicate 16 Fn.reset, ports := Vector.replicate 24 Port.reset,
    cfg := Cfg.reset, spares := Spares.reset, power := Power.reset, mbx := Mbx.reset, lcs := Lcs.reset,
    slots := Vector.replicate 16 (Slot.empty, Slot.empty), ras := [], rasOverflow := false, evtStatus := 0, evtFaultEn := 3,
    evtError := 0, sys := Sys.reset, out := Out.reset, draws := 0 }

end Sys2Proof.Machine
end

