-- ==== Sys2Proof/Machine/Flags.lean ====
section
/-! DEFINITION. The codes that the machine reports: completion statuses, event and RAS codes, error codes, register codes of states, and the check of an EVT or FAULT_OUT condition. -/
namespace Sys2Proof.Machine

/-! ### Completion status (R370) -/
def stOk : Nat := 0x00
def stBadOpcode : Nat := 0x01
def stBadField : Nat := 0x02
def stMisaligned : Nat := 0x03
def stNotOwned : Nat := 0x04
def stInUse : Nat := 0x05
def stStaleEpoch : Nat := 0x06
def stNotJoined : Nat := 0x07
def stTimeout : Nat := 0x08
def stAborted : Nat := 0x09
def stFenced : Nat := 0x0A
def stNumericTrap : Nat := 0x0B
def stCheckFailed : Nat := 0x0C
def stShardLost : Nat := 0x0D
def stDomainConflict : Nat := 0x0E
def stPlanMismatch : Nat := 0x0F
def stLedgerFull : Nat := 0x10
def stFormatMismatch : Nat := 0x11

/-- The number that means "no step" (R248). -/
def noStep : Nat := 0xFFFFFFFF

/-! ### Event codes (R387) -/
def evTrapReport : Nat := 0x01
def evRingFault : Nat := 0x02
def evDmaFault : Nat := 0x03
def evFenceFault : Nat := 0x04
def evLinkUp : Nat := 0x10
def evLinkDown : Nat := 0x11
def evLaneSwap : Nat := 0x12
def evWavelengthSwap : Nat := 0x13
def evPortNarrow : Nat := 0x14
def evPortQuarantined : Nat := 0x15
def evPeerLeft : Nat := 0x16
def evParcelCrc : Nat := 0x17
def evPeerSuspect : Nat := 0x20
def evPeerRecovered : Nat := 0x21
def evEdgeMismatch : Nat := 0x22
def evCollMismatch : Nat := 0x23
def evEpochFenced : Nat := 0x24
def evMirrorDetached : Nat := 0x30
def evCdcStall : Nat := 0x40
def evRasEntry : Nat := 0x41

/-! ### RAS causes (R352) and actions (R351) -/
def rasResidueProduct : Nat := 0x01
def rasResidueCistern : Nat := 0x02
def rasSramUe : Nat := 0x03
def rasCisternUe : Nat := 0x04
def rasLedgerUe : Nat := 0x05
def rasLstoreFault : Nat := 0x06
def rasRowSpared : Nat := 0x07
def rasArraySpared : Nat := 0x08
def rasBasinSpared : Nat := 0x09
def rasBankSpared : Nat := 0x0A
def rasBasinLost : Nat := 0x0B
def rasLaneSpared : Nat := 0x0C
def rasWavelengthSpared : Nat := 0x0D
def rasPortNarrowed : Nat := 0x0E
def rasMirrorDetached : Nat := 0x0F
def rasShardLost : Nat := 0x10

def actFailed : Nat := 0
def actSpared : Nat := 1
def actQueued : Nat := 2
def actFenced : Nat := 3
def actNone : Nat := 4

/-- The causes that the fault records copy and that set EVT_STATUS.RAS_UE (R414, R459). -/
def rasIsUe (c : Nat) : Bool :=
  c == rasSramUe || c == rasCisternUe || c == rasLedgerUe || c == rasLstoreFault || c == rasBasinLost || c == rasShardLost

/-! ### FN_LAST_ERROR, EVT_ERROR and MBX_ERROR codes (R389, R414, R470) -/
def errRingEnabled : Nat := 0x01
def errRingBusy : Nat := 0x02
def errBadTail : Nat := 0x03
def errRingDisabled : Nat := 0x04
def errBadValue : Nat := 0x05
def errShutter : Nat := 0x06
def errNotHalted : Nat := 0x07
def errBadOffset : Nat := 0x08
def errMbxBusy : Nat := 0x09
def errMbxState : Nat := 0x0A

/-! ### Register codes of states -/
def Shutter.code : Shutter → Nat
  | .open_ => 0 | .closing => 1 | .closed => 2 | .wiping => 3 | .opening => 4

def Reason.code : Reason → Nat
  | .none => 0 | .functionReset => 1 | .faultFence => 2 | .sparing => 3

def PortSt.code : PortSt → Nat
  | .dark => 0 | .seeking => 1 | .training => 2 | .trained => 3 | .joined => 4 | .leaving => 5 | .quarantined => 6

def MirrorSt.code : MirrorSt → Nat
  | .none => 0 | .syncing => 1 | .synced => 2 | .detached => 3 | .restoring => 4 | .lost => 5

def MbxSt.code : MbxSt → Nat
  | .idle => 0 | .busy => 1 | .write => 2 | .read => 3 | .done => 4 | .error => 5

/-- Class code and index of a crossing (R434). -/
def crossingCode : Crossing → Nat × Nat
  | .sluiceTx n => (0, n.val)
  | .sluiceRx n => (1, n.val)
  | .transom m => (2, m.val)
  | .pcie => (3, 0)
  | .mgmt => (4, 0)
  | .reset => (5, 0)
  | .jtag => (6, 0)

/-! ### EVT_STATUS latched bits (R414) -/
def evtThermEmerg : Nat := 2
def evtCdcStall : Nat := 3
def evtClamp : Nat := 4
def evtRasUe : Nat := 7

/-- FAULT_OUT: some latched cause whose enable bit is 1 stands (R414). -/
def faultOut (s : State) : Bool :=
  (s.evtFaultEn.testBit 0 && s.evtStatus.testBit evtRasUe) || (s.evtFaultEn.testBit 1 && s.evtStatus.testBit evtThermEmerg)
    || (s.evtFaultEn.testBit 2 && s.evtStatus.testBit evtCdcStall)

end Sys2Proof.Machine
end

