-- ==== Sys2Proof/Machine/Line.lean ====
section
/-! DEFINITION. The line of a sluice: parcels as bytes (R274), flits as 642 bytes (R267 to R272), codewords, the scrambler and the symbols (R264), the slots that a transmitter fills (R268, R271), and the STATE and IDLE flits that carry news (R270, R273, R277). -/
namespace Sys2Proof.Machine

/-! ### Vectors of counts -/

def getV {n : Nat} (v : Vector Nat n) (i : Nat) : Nat := if h : i < n then v[i] else 0
def setV {n : Nat} (v : Vector Nat n) (i x : Nat) : Vector Nat n := if h : i < n then v.set i x else v
def addCredits (v : Vector Nat 4) (vl k : Nat) : Vector Nat 4 := if h : vl < 4 then v.set vl (v[vl] + k) else v
def subCredits (v : Vector Nat 4) (vl k : Nat) : Vector Nat 4 := if h : vl < 4 then v.set vl (v[vl] - k) else v

/-! ### Parcels (R274, R276) -/

def parcelVl (p : Parcel) : Nat := fld p.hdr 0 4 2
def parcelLen (p : Parcel) : Nat := fld p.hdr 2 0 14
def parcelPseq (p : Parcel) : Nat := fld p.hdr 28 0 16

/-- The CRC-32C over header and payload. -/
def parcelCrc (hdr : ParcelHdr) (payload : List Byte) : Word := BitVec.ofNat 32 (crc32c (toLE 40 hdr.toNat ++ payload))

/-- Header, payload and CRC-32C in the order of R274. -/
def Parcel.bytes (x : Parcel) : List Byte := toLE 40 x.hdr.toNat ++ x.payload ++ toLE 4 x.crc.toNat

/-- The parcel that bytes spell: 40 of header, the last four the CRC-32C. -/
def Parcel.ofBytes (bs : List Byte) : Parcel :=
  { hdr := BitVec.ofNat 320 (ofLE (bs.take 40)), payload := (bs.drop 40).take (bs.length - 44),
    crc := BitVec.ofNat 32 (ofLE (bs.drop (bs.length - 4))) }

/-- Credits that a parcel occupies (R276). -/
def parcelCredits (len : Nat) : Nat := ceilDiv (len + 44) 64

/-- Take whole parcels off a run of body bytes: the parcels, and what is left. A run of zero bytes starts no parcel: a header of zeros has a CRC-32C that is not zero (R271). -/
def splitParcels : Nat → List Byte → List Parcel × List Byte
  | 0, bs => ([], bs)
  | k + 1, bs =>
    let len := ofLE ((bs.drop 2).take 2) % 2 ^ 14 + 44
    if bs.all (fun b => b == 0) || decide (bs.length < 4) || decide (bs.length < len) then ([], bs)
    else
      let r := splitParcels k (bs.drop len)
      (Parcel.ofBytes (bs.take len) :: r.1, r.2)

/-! ### Lanes -/

/-- Indices of the active logical lanes. -/
def Dir.active (d : Dir) : List Nat := (List.range 8).filter fun l => getV d.lanes l != 0xF

/-- The port is up: flits pass in both directions. -/
def linkUp (p : Port) : Bool := p.st == .trained || p.st == .joined || p.st == .leaving

/-! ### STATE flits (R272, R273) -/

/-- FLAGS of a STATE flit. -/
def Port.flags (p : Port) : Nat :=
  (if p.owner.isSome then 1 else 0) + (if p.ident.isSome then 2 else 0) + (if p.joinReq then 4 else 0) + (if p.leave then 8 else 0)
    + if linkUp p then 16 else 0

/-- The fields whose change sends an extra STATE flit, as they are now. -/
def Port.newsNow (p : Port) : StateNews :=
  { flags := p.flags, fault := p.fault.map fun x => (x.1, x.2, p.faultCount), laneCmd := p.tx.cmds.head?, pfail := p.pfail }

/-- The body of a STATE flit of sluice i. -/
def Port.stateBody (i : Nat) (p : Port) : StateBody :=
  { cwcount := p.slot, beacon := p.beacon, owned := p.owner.isSome, hasPlan := p.ident.isSome, joinReq := p.joinReq, leave := p.leave,
    trained := linkUp p, domain := (p.ident.getD (0, 0)).1, rank := (p.ident.getD (0, 0)).2, port := i,
    rxActive := p.rx.active.foldl (fun a l => a + 2 ^ l) 0, fault := p.newsNow.fault, laneCmd := p.newsNow.laneCmd,
    verified := p.pseqRx.toList.map fun q => (q + 65535) % 65536, pfail := p.pfail }

/-- The bytes of a STATE flit body. -/
def StateBody.fields (b : StateBody) : List (Nat × Nat × Nat × Nat) :=
  let bit := fun (x : Bool) (k : Nat) => if x then 2 ^ k else 0
  [(0, 0, 64, b.cwcount), (8, 0, 8, b.beacon), (9, 0, 8, bit b.owned 0 + bit b.hasPlan 1 + bit b.joinReq 2 + bit b.leave 3 + bit b.trained 4),
    (10, 0, 32, b.domain), (14, 0, 16, b.rank), (16, 0, 5, b.port), (17, 0, 8, b.rxActive)]
  ++ (match b.fault with
    | some (l, c, k) => [(18, 0, 3, l), (18, 3, 2, match c with | .electrical => 1 | .optical => 2), (18, 7, 1, 1), (18, 8, 8, k)]
    | none => [])
  ++ (match b.laneCmd with
    | some c => [(20, 0, 2, if c.add then 2 else 1), (20, 2, 3, c.lane), (20, 5, 4, c.phys), (20, 9, 4, c.wl), (20, 32, 32, c.slot)]
    | none => [])
  ++ (b.verified.zipIdx.map fun v => (28 + 2 * v.2, 0, 16, v.1))
  ++ (match b.pfail with | some (vl, q) => [(36, 0, 2, vl), (36, 2, 16, q), (36, 31, 1, 1)] | none => [])

/-! ### Flits (R268, R270) -/

def flitType (f : Flit) : Nat := fld f 0 0 4
def flitFseq (f : Flit) : Nat := fld f 0 4 12
def flitAck (f : Flit) : Nat := fld f 0 16 12
def flitNak (f : Flit) : Bool := fbit f 0 28
def flitPstart (f : Flit) : Nat := fld f 0 32 10
def flitBody (f : Flit) : List Byte := toLE 626 (fld f 8 0 5008)
def flitFcrc (f : Flit) : Nat := fld f 634 0 32
/-- Virtual lane and credits of CRED_A and CRED_B. -/
def flitCredA (f : Flit) : Nat × Nat := (fld f 638 0 2, fld f 638 2 14)
def flitCredB (f : Flit) : Nat × Nat := (fld f 640 0 2, fld f 640 2 14)

/-- FCRC of the 634 bytes of header and body. -/
def fcrcOf (bs : List Byte) : Nat := crc32 bs
/-- FCRC matches and FTYPE is not reserved: the flit is not lost (R270). -/
def flitGood (f : Flit) : Bool := decide (flitType f ≤ 2) && flitFcrc f == fcrcOf (toLE 634 f.toNat)

/-- The fields of an arriving STATE flit (R272). -/
def flitState (f : Flit) : StateBody :=
  { cwcount := fld f 8 0 64, beacon := fld f 16 0 8, owned := fbit f 17 0, hasPlan := fbit f 17 1, joinReq := fbit f 17 2, leave := fbit f 17 3,
    trained := fbit f 17 4, domain := fld f 18 0 32, rank := fld f 22 0 16, port := fld f 24 0 5, rxActive := fld f 25 0 8,
    fault := if fbit f 26 7 then
        match fld f 26 3 2 with
        | 1 => some (fld f 26 0 3, .electrical, fld f 26 8 8)
        | 2 => some (fld f 26 0 3, .optical, fld f 26 8 8)
        | _ => none
      else none,
    laneCmd := match fld f 28 0 2 with
      | 1 => some ⟨false, fld f 28 2 3, fld f 28 5 4, fld f 28 9 4, fld f 28 32 32⟩
      | 2 => some ⟨true, fld f 28 2 3, fld f 28 5 4, fld f 28 9 4, fld f 28 32 32⟩
      | _ => none,
    verified := (List.range 4).map fun v => fld f (36 + 2 * v) 0 16,
    pfail := if fbit f 44 31 then some (fld f 44 0 2, fld f 44 2 16) else none }

/-- The 642 bytes of a sent flit: header, body, FCRC and credits. -/
def Sent.encode (x : Sent) : Flit :=
  let kind : Nat × Nat × Nat := match x.kind with | .idle => (0, 0, 0x3FF) | .data q st _ => (1, q, st) | .state _ => (2, 0, 0x3FF)
  let body : List (Nat × Nat × Nat × Nat) := match x.kind with
    | .idle => []
    | .data _ _ bs => [(8, 0, 5008, ofLE bs)]
    | .state b => b.fields.map fun y => (y.1 + 8, y.2)
  let front := [(0, 0, 4, kind.1), (0, 4, 12, kind.2.1), (0, 16, 12, x.ack), (0, 28, 1, if x.nak then 1 else 0), (0, 32, 10, kind.2.2)] ++ body
  let f : Flit := packFields 5136 front
  packFields 5136 (front ++ [(634, 0, 32, fcrcOf (toLE 634 f.toNat)), (638, 0, 2, x.credA.1), (638, 2, 14, x.credA.2), (640, 0, 2, x.credB.1),
    (640, 2, 14, x.credB.2)])

/-! ### Codewords, scrambler and symbols (R264, R267) -/

/-- The 5,140-bit message of the codeword that carries a sent flit: CW_TAG, the lane's codeword count modulo 16, and the flit. -/
def Sent.message (x : Sent) : BitVec 5140 := BitVec.ofNat 5140 (x.slot % 16 + 16 * x.encode.toNat)

/-- The self-synchronising scrambler 1 + x^39 + x^58: each bit is added to the 39th and the 58th scrambled bit before it, newest first. -/
def lineScramble : List Bool → List Bool → List Bool
  | _, [] => []
  | past, b :: bs => let o := b ^^ past.getD 38 false ^^ past.getD 57 false; o :: lineScramble (o :: past.take 57) bs

def lineDescramble : List Bool → List Bool → List Bool
  | _, [] => []
  | past, o :: os => (o ^^ past.getD 38 false ^^ past.getD 57 false) :: lineDescramble (o :: past.take 57) os

/-- The PAM4 level of two bits, Gray-coded: neighbouring levels differ in one bit (PRESUMED, assumption 43: the rule gives no table). -/
def pam4 : Bool → Bool → Fin 4
  | false, false => 0
  | false, true => 1
  | true, true => 2
  | true, false => 3

/-! ### The transmitter's slots (R268, R271) -/

/-- The virtual lane and credits at place i of the lanes to which credits are owed; at most 16,383 fit (R270). -/
def Port.credit (p : Port) (i : Nat) : Nat × Nat :=
  match ((List.range 4).filter fun v => getV p.owedCredits v != 0)[i]? with
  | some v => (v, min 16383 (getV p.owedCredits v))
  | none => (0, 0)

/-- Put a flit on the next active logical lane of the slot, with ACK, NAK and the credits that are owed. -/
def Port.send (k : FlitKind) (p : Port) : Port :=
  let ack := (p.expected + 4095) % 4096
  let a := p.credit 0
  let b := p.credit 1
  let last := decide (p.tx.active.length ≤ p.turn + 1)
  { p with
    line := p.line ++ [{ slot := p.slot, lane := p.tx.active.getD p.turn 0, kind := k, ack := ack, nak := p.nak, credA := a, credB := b }],
    owedCredits := subCredits (subCredits p.owedCredits a.1 a.2) b.1 b.2, told := (ack, p.nak),
    slot := if last then p.slot + 1 else p.slot, turn := if last then 0 else p.turn + 1 }

/-- Fill the next place: a slot whose count is a multiple of 512 carries a STATE flit on every lane first. -/
def Port.put (i : Nat) (k : FlitKind) (p : Port) : Port :=
  (if p.turn = 0 ∧ p.slot % 512 = 0 then p.tx.active.foldl (fun p _ => p.send (.state (p.stateBody i))) p else p).send k

/-- A change of FLAGS, FAULT, LANE_CMD or PFAIL sends an extra STATE flit, in a place that a DATA flit would take (R273). -/
def Port.announce (i : Nat) (p : Port) : Port :=
  if p.newsNow = p.news then p else { p with news := p.newsNow }.put i (.state (p.stateBody i))

/-- IDLE flits carry credits, and an ACK or NAK that has changed, when no other flit does (R277, R281). -/
def Port.flush (i : Nat) : Nat → Port → Port
  | 0, p => p
  | k + 1, p =>
    if p.owedCredits.any (fun c => c != 0) || p.told != ((p.expected + 4095) % 4096, p.nak) then flush i k (p.put i .idle) else p

/-- What a port that is up tells its partner after a change. -/
def Port.tell (i : Nat) (p : Port) : Port := if linkUp p then (p.announce i).flush i 4 else p

end Sys2Proof.Machine
end

