-- ==== Sys2Proof/Machine/Sparse.lean ====
section
/-! DEFINITION. Sparse tables in one canonical form: keys strictly rising, and no entry equal to what an unlisted key reads as. Memories, cistern words, sump rows and register images are such tables. -/
namespace Sys2Proof.Machine.Sparse

variable {α : Type}

/-- What key `k` reads as: its entry, or the default `d` of an unlisted key. -/
def get (d : α) : List (Nat × α) → Nat → α
  | [], _ => d
  | (a, v) :: t, k => if k = a then v else get d t k

/-- The table without key `k`. -/
def erase : List (Nat × α) → Nat → List (Nat × α)
  | [], _ => []
  | (a, v) :: t, k => if k = a then t else (a, v) :: erase t k

/-- The table with key `k` holding `v`, kept in rising order. -/
def insert : List (Nat × α) → Nat → α → List (Nat × α)
  | [], k, v => [(k, v)]
  | (a, w) :: t, k, v =>
    if k < a then (k, v) :: (a, w) :: t
    else if k = a then (k, v) :: t
    else (a, w) :: insert t k v

/-- A write keeps the canonical form: writing the default removes the entry. -/
def put [DecidableEq α] (d : α) (l : List (Nat × α)) (k : Nat) (v : α) : List (Nat × α) :=
  if v = d then erase l k else insert l k v

/-- Every key of the table lies above `lo`. -/
def above : List (Nat × α) → Nat → Bool
  | [], _ => true
  | (a, _) :: _, lo => decide (lo < a)

/-- The canonical form. -/
def wf [DecidableEq α] (d : α) : List (Nat × α) → Bool
  | [] => true
  | (a, v) :: t => decide (v ≠ d) && above t a && wf d t

end Sys2Proof.Machine.Sparse
end

