-- ==== Sys2Proof/Machine/Regs.lean ====
section
/-! DEFINITION. The staged registers of BAR0 as tables: which offsets hold a register, the fields of each writable one with its check (R402), its reset value and its scope (R404). -/
namespace Sys2Proof.Machine

/-- How a commit checks a field (R402). -/
inductive FKind where
  | reserved
  | plain
  | enum (codes : List Nat) (dflt : Nat)
  | num (lo hi : Nat)
  | nonzero (dflt : Nat)      -- code zero is undefined
  | locked
  deriving DecidableEq, Repr

structure Field where
  lsb : Nat
  width : Nat
  reset : Nat
  kind : FKind
  deriving DecidableEq, Repr

/-- Who applies a staged register (R404). -/
inductive Scope where
  | device
  | parts                 -- one value, applied by each partition at its own gate
  | part (n : Nat)
  | sluice (n : Nat)      -- the partition owning the sluice; at once when unowned
  deriving DecidableEq, Repr

/-- What occupies an offset of a staged block or of the ID block. -/
inductive RegKind where
  | unmapped
  | readOnly
  | staged (scope : Scope) (fields : List Field)
  deriving DecidableEq, Repr

def fResv (lsb width : Nat) : Field := ⟨lsb, width, 0, .reserved⟩
def fPlain (lsb width reset : Nat) : Field := ⟨lsb, width, reset, .plain⟩
def fNum (lsb width reset lo hi : Nat) : Field := ⟨lsb, width, reset, .num lo hi⟩

/-- CFG_NUMERICS (R50). -/
def fieldsNumerics : List Field := [fPlain 0 1 0, fResv 1 31]
/-- CFG_PART_n (R360). -/
def fieldsPart (n : Nat) : List Field := [fPlain 0 7 0, fResv 7 1, fNum 8 8 (if n = 0 then 128 else 0) 0 128, fResv 16 16]
/-- PWR_CTL, PWR_CAP, PWR_VSET, PWR_THERM, PWR_AGE (R432). -/
def fieldsPwr : Nat → List Field
  | 0 => [⟨0, 2, 0, .enum [0, 1] 0⟩, fPlain 2 1 0, fResv 3 29]
  | 1 => [fNum 0 11 1650 600 1650, fResv 11 5, fNum 16 7 10 1 100, fResv 23 9]
  | 2 => [fNum 0 9 132 20 148, fResv 9 7, fNum 16 9 100 20 148, fResv 25 7]
  | 3 => [fNum 0 8 105 85 110, fNum 8 8 112 100 118, fNum 16 5 5 2 20, fResv 21 11]
  | _ => [fNum 0 12 60 1 3600, fResv 12 4, fNum 16 5 30 0 30, fResv 21 11]
/-- LNK_PORT_n_CTL, _FLAP, _DEGRADE, _VLBUF (R299). -/
def fieldsLnk : Nat → List Field
  | 0 => [fPlain 0 1 0, fPlain 1 1 1, fPlain 2 1 1, ⟨3, 2, 0, .enum [0, 1, 2] 0⟩, fResv 5 27]
  | 1 => [fNum 0 4 8 2 15, fNum 4 8 10 1 255, fNum 12 12 60 1 3600, fResv 24 8]
  | 2 => [fNum 0 16 64 1 65535, fResv 16 16]
  | _ => [fNum 0 10 736 129 862, fResv 10 6, fNum 16 10 736 129 862, fResv 26 6]
/-- LNK_CODEC_n_CTL_p and _STREAM_p (R320). -/
def fieldsCodecCtl : List Field :=
  [fPlain 0 1 0, fPlain 1 2 0, fPlain 3 1 0, fPlain 4 1 0, fPlain 5 1 0, fPlain 6 1 1, fResv 7 1, fPlain 8 12 0, fResv 20 12]
def fieldsCodecStream : List Field := [fPlain 0 16 0, fResv 16 16]
/-- D2D_CTL and D2D_PART_n (R413). -/
def fieldsD2dCtl : List Field := [⟨0, 16, 0xFFFF, .nonzero 0xFFFF⟩, fResv 16 16]
def fieldsD2dPart (n : Nat) : List Field := [fNum 0 16 0 0 16383, fNum 16 16 (if n = 0 then 16384 else 0) 0 16384]
/-- BSN_ARRAY_MODE (R113). -/
def fieldsArrayMode : List Field := [⟨0, 3, 2, .enum [0, 1, 2, 3, 4] 2⟩, fResv 3 1, ⟨4, 2, 1, .enum [0, 1, 2] 1⟩, fResv 6 26]
/-- CST_SCRUB and CST_RETIRE (R166). -/
def fieldsScrub : List Field := [fPlain 0 1 1, fResv 1 3, fNum 4 10 10 1 1000, fResv 14 18]
def fieldsRetire : List Field := [fNum 0 16 16 1 65535, fResv 16 16]
/-- LDG_FDOMAIN, LDG_CTL_n (R354), LDG_SEED_n_Ww (R262). -/
def fieldsFdomain : List Field := [⟨0, 16, 0, .locked⟩, fResv 16 16]
def fieldsLdgCtl : List Field := [fPlain 0 1 0, fResv 1 7, fNum 8 16 100 1 65535, fResv 24 8]
def fieldsSeed : List Field := [fPlain 0 32 0]
/-- CLV_TIMEOUT_n (R230). -/
def fieldsClvTimeout : List Field := [fNum 0 16 100 1 65535, fResv 16 16]
/-- CDC_MODE and CDC_TIMEOUT (R449). -/
def fieldsCdcMode : List Field := [fPlain 0 1 0, fPlain 1 1 0, fPlain 2 1 0, fPlain 3 1 0, fResv 4 28]
def fieldsCdcTimeout : List Field := [fNum 0 17 1000 100 100000, fResv 17 15]

/-- The index of `off` in an array of registers of stride `st` at `base`, `n` of them. -/
def regIndex (off base st n : Nat) : Option Nat :=
  if base ≤ off ∧ off < base + st * n ∧ (off - base) % st = 0 then some ((off - base) / st) else none

/-- The register at an aligned offset of the ID block or of a staged block (R396, R413 index). -/
def regKind (off : Nat) : RegKind :=
  match off / 0x10000 with
  | 0x0 => if [0x0, 0x4, 0x8, 0x10, 0x14].contains off then .readOnly else .unmapped
  | 0x1 =>
    if off = 0x10100 then .staged .parts fieldsNumerics
    else match regIndex off 0x10400 4 16 with
      | some n => .staged .device (fieldsPart n)
      | none =>
        if [0x10000, 0x10004, 0x10008].contains off || (regIndex off 0x10200 4 32).isSome || (regIndex off 0x10300 4 16).isSome
            || (regIndex off 0x10800 4 256).isSome then .readOnly else .unmapped
  | 0x2 =>
    match regIndex off 0x20000 4 5 with
    | some k => .staged .device (fieldsPwr k)
    | none => if (regIndex off 0x20100 4 7).isSome then .readOnly else .unmapped
  | 0x3 =>
    if off < 0x3C000 then
      let n := (off - 0x30000) / 0x800
      let o := (off - 0x30000) % 0x800
      if [0, 4, 8, 0xC].contains o then .staged (.sluice n) (fieldsLnk (o / 4))
      else if o = 0x10 || (regIndex o 0x100 4 6).isSome then .readOnly else .unmapped
    else match regIndex off 0x3C000 4 512 with
      | some k =>
        let p := k % 32 / 2
        if p = 0 then .readOnly
        else .staged (.part (k / 32)) (if k % 2 = 0 then fieldsCodecCtl else fieldsCodecStream)
      | none => .unmapped
  | 0x4 =>
    if off = 0x40000 then .staged .device fieldsD2dCtl
    else if off = 0x40004 then .readOnly
    else match regIndex off 0x40100 4 16 with
      | some n => .staged .device (fieldsD2dPart n)
      | none => .unmapped
  | 0x5 =>
    if off = 0x50100 then .staged .parts fieldsArrayMode
    else if off = 0x50000 || (regIndex off 0x50200 4 128).isSome then .readOnly else .unmapped
  | 0x6 =>
    if off = 0x60100 then .staged .device fieldsScrub
    else if off = 0x60104 then .staged .parts fieldsRetire
    else if off = 0x60000 || (regIndex off 0x60200 4 128).isSome then .readOnly else .unmapped
  | 0x7 =>
    if off = 0x70000 then .staged .device fieldsFdomain
    else match regIndex off 0x70100 4 16, regIndex off 0x70400 4 64 with
      | some n, _ => .staged (.part n) fieldsLdgCtl
      | none, some k => .staged (.part (k / 4)) fieldsSeed
      | none, none =>
        match regIndex off 0x70500 4 64 with
        | some k => if k % 4 = 3 then .unmapped else .readOnly
        | none => if (regIndex off 0x70600 4 64).isSome then .readOnly else .unmapped
  | 0x8 =>
    match regIndex off 0x80100 4 16 with
    | some n => .staged (.part n) fieldsClvTimeout
    | none =>
      if off = 0x80000 || (regIndex off 0x80200 4 16).isSome || (regIndex off 0x80300 4 16).isSome
          || (regIndex off 0x80400 4 16).isSome then .readOnly else .unmapped
  | 0xA =>
    if off = 0xA0000 then .staged .device fieldsCdcMode
    else if off = 0xA0004 then .staged .device fieldsCdcTimeout
    else if (regIndex off 0xA0100 4 5).isSome then .readOnly else .unmapped
  | _ => .unmapped

/-- Whether a block of BAR0 is staged (R396). -/
def stagedBlock (off : Nat) : Bool := [1, 2, 3, 4, 5, 6, 7, 8, 0xA].contains (off / 0x10000)

/-- The reset word of a list of fields. -/
def resetWord (fs : List Field) : Word :=
  BitVec.ofNat 32 (fs.foldl (fun acc f => acc + f.reset * 2 ^ f.lsb) 0)

/-- The reset value of the staged register at an offset; zero elsewhere. -/
def resetValue (off : Nat) : Word :=
  match regKind off with
  | .staged _ fs => resetWord fs
  | _ => 0

/-- A register of an image: its entry, or its reset value. -/
def regGet (m : RegMap) (off : Nat) : Word := Sparse.get (resetValue off) m off

/-- A register image with one register written, in canonical form. -/
def regPut (m : RegMap) (off : Nat) (v : Word) : RegMap := Sparse.put (resetValue off) m off v

/-- Bits [msb:lsb] of a word. -/
def wbits (w : Word) (msb lsb : Nat) : Nat := bits w.toNat msb lsb

/-- The field's value in a word. -/
def Field.get (f : Field) (w : Word) : Nat := (w.toNat >>> f.lsb) % 2 ^ f.width

/-- A word with one field replaced. -/
def Field.put (f : Field) (w : Word) (v : Nat) : Word :=
  BitVec.ofNat 32 (w.toNat - f.get w * 2 ^ f.lsb + (v % 2 ^ f.width) * 2 ^ f.lsb)

end Sys2Proof.Machine
end

