-- ==== Sys2Proof/Machine/Ops.lean ====
section
/-! DEFINITION. Shared operations over the state: memories, free values, registers in force, the RAS log, event entries, interrupt messages and completions. -/
namespace Sys2Proof.Machine

/-- The outcome of a command that completes with state `s`. -/
abbrev Result := Host.Outcome State Fault Refusal

/-! ### Updates of the arrays of units -/

def State.part (s : State) (n : Fin 16) : Part := s.parts[n]
def State.setPart (s : State) (n : Fin 16) (p : Part) : State := { s with parts := s.parts.set n p }
def State.modPart (s : State) (n : Fin 16) (f : Part → Part) : State := s.setPart n (f (s.part n))

def State.fn (s : State) (n : Fin 16) : Fn := s.fns[n]
def State.setFn (s : State) (n : Fin 16) (f : Fn) : State := { s with fns := s.fns.set n f }
def State.modFn (s : State) (n : Fin 16) (g : Fn → Fn) : State := s.setFn n (g (s.fn n))

def State.ring (s : State) (n : Fin 16) (r : Fin 8) : Ring := (s.fn n).rings[r]
def State.setRing (s : State) (n : Fin 16) (r : Fin 8) (x : Ring) : State :=
  s.modFn n fun f => { f with rings := f.rings.set r x }
def State.modRing (s : State) (n : Fin 16) (r : Fin 8) (g : Ring → Ring) : State := s.setRing n r (g (s.ring n r))

def State.port (s : State) (n : Fin 24) : Port := s.ports[n]
def State.setPort (s : State) (n : Fin 24) (p : Port) : State := { s with ports := s.ports.set n p }
/-- A change of a port; one that is up tells its partner (R273, R277). -/
def State.modPort (s : State) (n : Fin 24) (f : Port → Port) : State := s.setPort n ((f (s.port n)).tell n.val)

def allParts : List (Fin 16) := List.finRange 16
def allRings : List (Fin 8) := List.finRange 8
def allPorts : List (Fin 24) := List.finRange 24

/-- A partition, ring or port number read from data; numbers out of range name the last one and never arise. -/
def fin16 (n : Nat) : Fin 16 := ⟨min n 15, by omega⟩
def fin8 (n : Nat) : Fin 8 := ⟨min n 7, by omega⟩
def fin24 (n : Nat) : Fin 24 := ⟨min n 23, by omega⟩

/-- Entry i of a list of counts, adding `k`. -/
def bump {n : Nat} (v : Vector Nat n) (i k : Nat) : Vector Nat n :=
  if h : i < n then v.set i ((v[i] + k) % 2 ^ 64) else v

/-- Entry i of a vector, changed by `f`. -/
def modV {α : Type} {n : Nat} (v : Vector α n) (i : Nat) (f : α → α) : Vector α n := if h : i < n then v.set i (f v[i]) else v

def State.count (s : State) (n : Fin 16) (i k : Nat) : State :=
  s.modPart n fun p => { p with counters := bump p.counters i k }

def State.countPort (s : State) (n : Fin 24) (i k : Nat) : State :=
  s.modPort n fun p => { p with counters := bump p.counters i k }

/-- The next value that the manual leaves open. -/
def State.draw (s : State) : Nat × State := (Config.freeValue s.draws, { s with draws := s.draws + 1 })

/-! ### Registers in force -/

def State.force (s : State) (off : Nat) : Word := regGet s.cfg.force off

/-- First basin and basin count of partition n (R360). -/
def partRange (s : State) (n : Nat) : Nat × Nat :=
  let w := s.force (0x10400 + 4 * n)
  (wbits w 6 0, wbits w 15 8)

/-- Whether a logical basin lies in partition n's range. -/
def ownsBasin (s : State) (n b : Nat) : Bool :=
  let r := partRange s n
  decide (r.1 ≤ b) && decide (b < r.1 + r.2)

/-- The partition whose range holds a logical basin. -/
def basinPart (s : State) (b : Nat) : Option (Fin 16) := allParts.find? fun n => ownsBasin s n.val b

/-! ### Memories -/

/-- The space of a 48-bit data address (R8). -/
def spaceOf (a : Nat) : Nat := bits a 47 44

def readByte (s : State) (a : Nat) : Byte :=
  match spaceOf a with
  | 0x0 => Sparse.get 0 s.sram (a % 2 ^ 44)
  | 0x4 => Sparse.get 0 s.transom (a % 2 ^ 44)
  | 0x8 => Sparse.get 0 s.host (a % 2 ^ 44)
  | _ => 0

/-- Write one byte; addresses in no memory are left alone. -/
def writeByte (s : State) (a : Nat) (b : Byte) : State :=
  match spaceOf a with
  | 0x0 =>
    if a < 2 ^ 29 then
      { s with sram := Sparse.put 0 s.sram a b, badSram := s.badSram.filter fun x => x != a / 8 * 8 }
    else s
  | 0x4 => { s with transom := Sparse.put 0 s.transom (a % 2 ^ 44) b }
  | 0x8 => { s with host := Sparse.put 0 s.host (a % 2 ^ 44) b }
  | _ => s

def memRead (s : State) (a : Nat) : Nat → List Byte
  | 0 => []
  | n + 1 => readByte s a :: memRead s (a + 1) n

def memWrite (s : State) (a : Nat) : List Byte → State
  | [] => s
  | b :: bs => memWrite (writeByte s a b) (a + 1) bs

/-- Bytes of host memory at a full 64-bit address (R358). -/
def hostWrite (s : State) (a : Nat) : List Byte → State
  | [] => s
  | b :: bs => hostWrite { s with host := Sparse.put 0 s.host (a % 2 ^ 64) b } (a + 1) bs

/-- A posted write of function n goes to the host: it carries the function's routing ID, and Relaxed Ordering only where it is data and Device Control enables it (R357). -/
def State.post (s : State) (n : Fin 16) (relaxed : Bool) (k : PostKind) (a : Nat) (bs : List Byte) : State :=
  { s with out := { s.out with posted := s.out.posted ++ [{ fn := n.val, relaxed := relaxed, kind := k, addr := a, bytes := bs }] } }

/-- Bytes of host memory at a full 64-bit address. -/
def hostRead (s : State) (a : Nat) (k : Nat) : List Byte := (List.range k).map fun i => Sparse.get 0 s.host ((a + i) % 2 ^ 64)

/-- Write bytes on behalf of a descriptor of step `st` of partition n: the bytes land, and the granules they touch are marked dirty in that step's record (R334). -/
def stepWrite (s : State) (n : Fin 16) (st : Option Nat) (a : Nat) (bs : List Byte) : State :=
  let s0 := memWrite s a bs
  let s1 := if spaceOf a == 8 && !bs.isEmpty then s0.post n (s.fn n).devctl.relaxed .data (a % 2 ^ 44) bs else s0
  match st with
  | none => s1
  | some k =>
    if spaceOf a == 0 && !bs.isEmpty then
      let gs := (List.range ((a + bs.length - 1) / 8192 + 1 - a / 8192)).map (· + a / 8192)
      s1.modPart n fun p => { p with steps := p.steps.map fun r =>
        if r.n == k then { r with dirty := r.dirty ++ gs.filter fun g => !r.dirty.contains g } else r }
    else s1

/-- Whether a transfer of partition n to or from [a, a + len) fails (R413, R491, R394). -/
def xferFault (s : State) (n a len : Nat) : Bool :=
  match spaceOf a with
  | 0x4 =>
    let w := s.force (0x40100 + 4 * n)
    let first := wbits w 15 0 * 2 ^ 30
    let cnt := wbits w 31 16 * 2 ^ 30
    let o := a % 2 ^ 44
    !s.sys.d2dReady || (s.sys.d2dTrained &&& wbits (s.force 0x40000) 15 0) == 0 || decide (o < first) || decide (first + cnt < o + len)
  | 0x8 => !s.sys.linkUp
  | _ => false

/-! ### Events (R386, R387) -/

def depthOf (ctl : Word) : Nat := 2 ^ wbits ctl 4 1
def vectorOf (ctl : Word) : Nat := wbits ctl 14 8
def irqEn (ctl : Word) : Bool := ctl.getLsbD 15
def enabled (ctl : Word) : Bool := ctl.getLsbD 0

/-- A word of the MSI-X table; Vector Control comes up masked (assumption 9). -/
def msixWord (f : Fn) (i : Nat) : Word := Sparse.get (if i % 4 == 3 then 1 else 0) f.msix i

/-- Send vector v of function n: a masked vector sets its pending bit (R388). -/
def sendVector (s : State) (n : Fin 16) (v : Nat) : State :=
  let f := s.fn n
  if (msixWord f (4 * v + 3)).getLsbD 0 then s.setFn n { f with pba := f.pba ||| 2 ^ v }
  else
    let addr := (msixWord f (4 * v)).toNat + 2 ^ 32 * (msixWord f (4 * v + 1)).toNat
    s.post n false .message addr (toLE 4 (msixWord f (4 * v + 2)).toNat)

/-- Whether the function may still issue requests: no function reset is under way (R26) and the link is up. -/
def mayDma (s : State) (n : Fin 16) : Bool :=
  let p := s.part n
  s.sys.linkUp && !(p.shutter != .open_ && p.reason == .functionReset)

/-- The event ring sends its vector unless an earlier message is unacknowledged (R388). -/
def eventIrq (s : State) (n : Fin 16) : State :=
  let e := (s.fn n).evt
  if irqEn e.ctl && !e.unacked then
    (sendVector s n (vectorOf e.ctl)).modFn n fun f => { f with evt := { f.evt with unacked := true } }
  else s

/-- Write an event entry of function n, or drop and count it (R386). `detail` holds bytes 12 to 31. -/
def event (s : State) (n : Fin 16) (code ring step : Nat) (detail : List (Nat × Nat × Nat × Nat)) : State :=
  let e := (s.fn n).evt
  if enabled e.ctl && mayDma s n && decide ((e.prod + 2 ^ 32 - e.head) % 2 ^ 32 < depthOf e.ctl) then
    let body : BitVec 256 := packFields 256 ([(0, 0, 32, e.prod), (4, 0, 16, code), (6, 0, 8, ring), (8, 0, 32, step)] ++ detail)
    let a := e.base.toNat + 32 * (e.prod % depthOf e.ctl)
    let s1 := (hostWrite s a (toLE 32 body.toNat)).post n false .event a (toLE 32 body.toNat)
    eventIrq (s1.modFn n fun f => { f with evt := { f.evt with prod := (f.evt.prod + 1) % 2 ^ 32, last := some (a, hostRead s a 32) } }) n
  else s.modFn n fun f => { f with evt := { f.evt with dropped := min 65535 (f.evt.dropped + 1) } }

/-- The step a partition's event or log entry names: the open step, or the last one opened, or none. -/
def stepNow (p : Part) : Nat :=
  match p.openStep with
  | some n => n
  | none => if p.openedValid then p.opened else noStep

/-! ### RAS log (R351) -/

/-- Make a RAS log entry; a full log drops it (R351). Uncorrectable causes set EVT_STATUS.RAS_UE and enter the fault records (R414, R459). -/
def rasLog (s : State) (cause action : Nat) (part : Option (Fin 16)) (addr unit : Nat) : State :=
  if s.ras.length < 256 then
    let (time, s1) := s.draw
    let step := match part with | some n => stepNow (s.part n) | none => noStep
    let e : BitVec 256 := packFields 256
      [(0, 0, 8, cause), (1, 0, 8, action), (2, 0, 4, match part with | some n => n.val | none => 0), (2, 7, 1, if part.isNone then 1 else 0),
       (4, 0, 32, step), (8, 0, 48, addr), (16, 0, 32, unit), (24, 0, 64, time)]
    let s2 := { s1 with ras := s1.ras ++ [e] }
    let s3 := if rasIsUe cause then
        { s2 with evtStatus := s2.evtStatus ||| 2 ^ evtRasUe, lcs := { s2.lcs with records := (e :: s2.lcs.records).take 32 } }
      else s2
    event s3 0 evRasEntry 0xF step [(12, 0, 8, cause)]
  else { s with rasOverflow := true }

/-- UNIT of a RAS entry (R351). -/
def rasUnit (basin array row col : Nat) : Nat := basin % 128 + 128 * (array % 128) + 2 ^ 14 * (row % 32) + 2 ^ 19 * (col % 64)

/-! ### Completions (R380, R388) -/

/-- HEAD moves over every sequence number whose completion is written. -/
def advanceHead : Nat → Nat → List Nat → Nat × List Nat
  | 0, h, w => (h, w)
  | k + 1, h, w => if w.contains h then advanceHead k ((h + 1) % 2 ^ 32) (w.filter (· != h)) else (h, w)

/-- The 32 bytes of a completion. -/
def completionBytes (seq status opcode : Nat) (step : Option Nat) (detail : BitVec 160) : List Byte :=
  toLE 32 (packFields 256 [(0, 0, 32, seq), (4, 0, 8, status), (5, 0, 8, opcode),
    (8, 0, 32, match step with | some n => n | none => noStep), (12, 0, 160, detail.toNat)] : BitVec 256).toNat

/-- Signal a written completion under the ring's moderation (R388). -/
def moderate (s : State) (n : Fin 16) (r : Fin 8) (irq : Bool) : State :=
  let x := s.ring n r
  let k := x.unsignalled + 1
  if irqEn x.ctl && (irq || decide (wbits x.mod 7 0 ≤ k)) then
    sendVector (s.modRing n r fun x => { x with unsignalled := 0 }) n (vectorOf x.ctl)
  else s.modRing n r fun x => { x with unsignalled := k }

/-- Write the completion of sequence number `seq`; a numeric trap halts the ring (R373). Nothing is written once a function reset has begun (R26). -/
def complete (s : State) (n : Fin 16) (r : Fin 8) (seq status opcode : Nat) (step : Option Nat) (detail : BitVec 160) (irq : Bool) : State :=
  if mayDma s n then
    let x := s.ring n r
    let a := x.cbase.toNat + 32 * (seq % depthOf x.ctl)
    let bs := completionBytes seq status opcode step detail
    let s1 := (hostWrite s a bs).post n false .completion a bs
    let s2 := s1.modRing n r fun x =>
      let hw := advanceHead (x.written.length + 1) x.head (seq :: x.written)
      { x with head := hw.1, written := hw.2,
               last := some { addr := a, old := hostRead s a 32, bytes := bs, irq := irq, head := x.head, written := x.written },
               stop := if status == stNumericTrap && x.stop == .none then .halted else x.stop }
    moderate s2 n r irq
  else s

end Sys2Proof.Machine
end

