-- ==== Sys2Proof/Machine/Operands.lean ====
section
/-! DEFINITION. Operand forms: descriptor fields and layouts, tensor table entries, element addresses and values, element writes and block encodings, handle references and cistern words. -/
namespace Sys2Proof.Machine

/-! ### Descriptor fields (R367, R374 to R379) -/

def dOpcode (d : Desc) : Nat := fld d 0 0 8
def dIrq (d : Desc) : Bool := fbit d 1 0
def dNoWait (d : Desc) : Bool := fbit d 1 1
def dSeq (d : Desc) : Nat := fld d 4 0 32

/-- Fields of the header (R367). -/
def layHeader : List (Nat × Nat × Nat) := [(0, 0, 8), (1, 0, 1), (4, 0, 32)]

/-- R375, bytes 8 to 43. -/
def layGemm : List (Nat × Nat × Nat) :=
  [(8, 0, 12), (10, 0, 12), (12, 0, 24), (15, 0, 24), (20, 0, 32), (24, 0, 32), (28, 0, 32), (32, 0, 7), (33, 0, 8), (34, 0, 8),
   (35, 0, 8), (36, 0, 8), (37, 0, 6), (38, 0, 16), (40, 0, 32)]

/-- The fields that a layout lists for an opcode (R374 to R379). -/
def layout : Nat → List (Nat × Nat × Nat)
  | 0x01 => layHeader ++ [(8, 0, 3), (12, 0, 32), (16, 0, 16)]
  | 0x02 => layHeader ++ [(8, 0, 48), (16, 0, 32), (20, 0, 32)]
  | 0x03 => layHeader ++ [(1, 1, 1), (8, 0, 32)]
  | 0x04 => layHeader ++ [(8, 0, 32)]
  | 0x08 => layHeader ++ [(8, 0, 12), (10, 0, 12), (12, 0, 2), (14, 0, 16)]
  | 0x10 => layHeader ++ layGemm ++ [(44, 0, 16), (48, 0, 32), (52, 0, 32)]
  | 0x11 => layHeader ++ layGemm ++ [(44, 0, 16), (48, 0, 32), (52, 0, 32)]
  | 0x12 => layHeader ++ layGemm ++ [(44, 0, 16), (46, 0, 16), (48, 0, 16), (50, 0, 16), (52, 0, 6), (53, 0, 6),
      (54, 0, 6), (55, 0, 24), (58, 0, 6)]
  | 0x13 => layHeader ++ layGemm ++ [(18, 0, 5), (44, 0, 16), (48, 0, 32), (52, 0, 32)]
  | 0x14 => layHeader ++ layGemm ++ [(44, 0, 16), (48, 0, 32), (52, 0, 32)]
  | 0x20 => layHeader ++ [(8, 0, 8), (12, 0, 22), (16, 0, 23), (20, 0, 16), (22, 0, 3)]
  | 0x21 => layHeader ++ [(8, 0, 12), (10, 0, 1), (12, 0, 32), (16, 0, 48), (24, 0, 23)]
  | 0x22 => layHeader ++ [(8, 0, 12), (10, 0, 2), (12, 0, 32), (16, 0, 48), (24, 0, 23)]
  | 0x23 => layHeader ++ [(8, 0, 8)]
  | 0x30 | 0x31 | 0x32 | 0x33 | 0x34 | 0x35 | 0x36 =>
    layHeader ++ [(8, 0, 5), (9, 0, 8), (10, 0, 4), (12, 0, 32), (16, 0, 32), (20, 0, 32), (24, 0, 32), (28, 0, 12), (30, 0, 16),
      (32, 0, 24), (35, 0, 3), (36, 0, 12), (38, 0, 16), (40, 0, 32), (44, 0, 32)]
  | 0x40 => layHeader ++ [(8, 0, 32)]
  | 0x41 => layHeader ++ [(8, 0, 16)]
  | 0x42 => layHeader ++ [(8, 0, 32)]
  | 0x43 => layHeader ++ [(8, 0, 1), (10, 0, 16), (12, 0, 32), (16, 0, 48)]
  | 0x50 => layHeader ++ [(8, 0, 32), (16, 0, 48)]
  | 0x51 => layHeader ++ [(8, 0, 5), (10, 0, 16)]
  | 0x52 => layHeader ++ [(8, 0, 5)]
  | _ => layHeader

/-! ### Tensor table entries (R116) -/

abbrev Tensor := BitVec 512

def Tensor.base (t : Tensor) : Nat := fld t 0 0 48
def Tensor.fmtCode (t : Tensor) : Nat := fld t 6 0 4
def Tensor.rank (t : Tensor) : Nat := fld t 6 4 3
def Tensor.valid (t : Tensor) : Bool := fbit t 6 7
def Tensor.kdim (t : Tensor) : Nat := fld t 7 0 3
def Tensor.ext (t : Tensor) (k : Nat) : Nat := fld t (8 + 3 * k) 0 24
/-- COPIES (R116, R119). DESIGN CHOICE (assumption 59): an entry in the Transom window or in host memory has COPIES + 1 copies at the same distances, though the rules speak of copies in basin SRAM alone. -/
def Tensor.copies (t : Tensor) : Nat := fld t 23 0 8 + 1
def Tensor.stride (t : Tensor) (k : Nat) : Nat := if k = 0 then 0 else fld t (20 + 4 * k) 0 32
def Tensor.coarse (t : Tensor) : Nat := fld t 40 0 32
def Tensor.fineBase (t : Tensor) : Nat := fld t 44 0 48
def Tensor.fmt (t : Tensor) : Fmt := (Fmt.ofCode t.fmtCode).getD .fp32
def Tensor.count (t : Tensor) : Nat := t.ext 0 * t.ext 1 * t.ext 2 * t.ext 3 * t.ext 4
def Tensor.space (t : Tensor) : Nat := spaceOf t.base
def Tensor.inSram (t : Tensor) : Bool := t.space == 0

/-- Entry i of the partition's tensor table (R115). -/
def tensorAt (p : Part) (i : Nat) : Tensor :=
  match p.plan with
  | some pl => pl.tensors.getD i 0
  | none => 0

/-- An element index. -/
structure Idx where
  i0 : Nat
  i1 : Nat
  i2 : Nat
  i3 : Nat
  i4 : Nat
  deriving DecidableEq, Repr

/-- The element with linear index i (R156). -/
def Tensor.idx (t : Tensor) (i : Nat) : Idx :=
  let e := fun k => max 1 (t.ext k)
  ⟨i % e 0, i / e 0 % e 1, i / e 0 / e 1 % e 2, i / e 0 / e 1 / e 2 % e 3, i / e 0 / e 1 / e 2 / e 3⟩

/-- The linear index of an element (R156). -/
def Tensor.lin (t : Tensor) (x : Idx) : Nat :=
  x.i0 + t.ext 0 * (x.i1 + t.ext 1 * (x.i2 + t.ext 2 * (x.i3 + t.ext 3 * x.i4)))

/-- Byte offset of position i0 along dimension 0, packed as stored (R56, R117). -/
def off0 (f : Fmt) (i : Nat) : Nat :=
  if f.elemBits = 4 then i / 2 else if f.elemBits = 6 then 3 * (i / 4) else i * (f.elemBits / 8)

/-- Bit position inside the bytes at `off0`. -/
def bitPos (f : Fmt) (i : Nat) : Nat :=
  if f.elemBits = 4 then 4 * (i % 2) else if f.elemBits = 6 then 6 * (i % 4) else 0

/-- Bytes that hold one element, starting at `off0`. -/
def elemSpan (f : Fmt) : Nat := if f.elemBits = 6 then 3 else if f.elemBits < 8 then 1 else f.elemBits / 8

/-- Byte offset of the row (i1, i2, i3, i4). -/
def Tensor.rowOff (t : Tensor) (x : Idx) : Nat :=
  (if t.rank = 1 then 0 else x.i1 * t.stride 1) + x.i2 * t.stride 2 + x.i3 * t.stride 3 + x.i4 * t.stride 4

/-- Address of an element in copy c (R117, R119). -/
def Tensor.addr (t : Tensor) (c : Nat) (x : Idx) : Nat := t.base + c * 0x400000 + t.rowOff x + off0 t.fmt x.i0

/-- Address of the fine-scale or shared-exponent byte of the element's block (R118). -/
def Tensor.fineAddr (t : Tensor) (c : Nat) (x : Idx) : Nat :=
  let b := t.fmt.blockSize
  let nb := ceilDiv (t.ext 0) b
  let d := fun k (i : Nat) => if k ≠ 1 ∧ t.stride k = 0 then (0, 1) else (i, t.ext k)
  let (a1, e1) := d 1 x.i1
  let (a2, e2) := d 2 x.i2
  let (a3, e3) := d 3 x.i3
  let (a4, _) := d 4 x.i4
  t.fineBase + c * 0x400000 + x.i0 / b + nb * (a1 + e1 * (a2 + e2 * (a3 + e3 * a4)))

/-- The stored code of an element. -/
def elemCode (s : State) (t : Tensor) (c : Nat) (x : Idx) : Nat :=
  (ofLE (memRead s (t.addr c x) (elemSpan t.fmt)) >>> bitPos t.fmt x.i0) % 2 ^ t.fmt.elemBits

/-- The scale byte of an element's block. -/
def fineCode (s : State) (t : Tensor) (c : Nat) (x : Idx) : Nat := (readByte s (t.fineAddr c x)).toNat

/-- The value of code `e` of a Microscaling block with shared exponent byte X (R67). -/
def mxVal (f : Fmt) (x e : Nat) : Val :=
  if x = 0xFF then .nan
  else if f.elemBits = 8 ∧ e % 128 = 0x7F then .nan
  else match f.mini with
    | some m => (m.decode e).mul (Val.dyadic false 1 ((x : Int) - 127))
    | none => .nan

/-- The value of a Bopoyr element with fine scale f and coarse scale c (R57, R59). -/
def bpVal (m : Mini) (fine coarse e : Nat) : Val :=
  if fine = 0xFF then .nan
  else if fine = 0 then .fin (m.neg e) 0 1
  else ((m.decode e).mul (fineVal fine)).mul (fp32.decode coarse)

/-- The exact value of an element code with its scale byte (R44, R59, R67). -/
def codeValue (t : Tensor) (fine e : Nat) : Val :=
  match t.fmt.ieee with
  | some f => f.decode e
  | none =>
    if t.fmt = .int8 then Val.ofInt (signed 8 e)
    else if t.fmt.isBopoyr then
      match t.fmt.mini with
      | some m => bpVal m fine t.coarse e
      | none => .nan
    else mxVal t.fmt fine e

/-- The exact value of an element. -/
def elemVal (s : State) (t : Tensor) (c : Nat) (x : Idx) : Val :=
  codeValue t (if t.fmt.isBlock then fineCode s t c x else 0) (elemCode s t c x)

/-- Extent of dimension 0 as stored: a block format's final block is stored whole (R59, assumption 12). -/
def Tensor.ext0p (t : Tensor) : Nat := ceilDiv (t.ext 0) t.fmt.blockSize * t.fmt.blockSize

/-- Length of one copy: from BASE to the end of its last element. -/
def Tensor.lastOff (t : Tensor) : Nat :=
  t.rowOff ⟨0, t.ext 1 - 1, t.ext 2 - 1, t.ext 3 - 1, t.ext 4 - 1⟩ + off0 t.fmt (t.ext0p - 1) + elemSpan t.fmt

/-- Length of one copy's scale array. -/
def Tensor.fineLen (t : Tensor) : Nat :=
  if t.fmt.isBlock then t.fineAddr 0 ⟨t.ext 0 - 1, t.ext 1 - 1, t.ext 2 - 1, t.ext 3 - 1, t.ext 4 - 1⟩ + 1 - t.fineBase else 0

/-- Logical basin of a basin SRAM address (R119). -/
def basinOf (a : Nat) : Nat := a / 0x400000

/-- The copy that is present in a basin as an operand (R119). -/
def Tensor.copyIn (t : Tensor) (b : Nat) : Option Nat :=
  (List.range t.copies).find? fun c =>
    basinOf (t.base + c * 0x400000) == b && basinOf (t.base + c * 0x400000 + t.lastOff - 1) == b
      && (t.fineLen == 0 || (basinOf (t.fineBase + c * 0x400000) == b && basinOf (t.fineBase + c * 0x400000 + t.fineLen - 1) == b))

/-- The address ranges (start, length) that a tensor covers: every copy and its scale array (R134). -/
def Tensor.ranges (t : Tensor) : List (Nat × Nat) :=
  (List.range t.copies).flatMap fun c =>
    (t.base + c * 0x400000, t.lastOff) :: (if t.fineLen == 0 then [] else [(t.fineBase + c * 0x400000, t.fineLen)])

/-! ### Writing elements -/

/-- The bytes at `a` with a field of `w` bits at bit position `p` replaced. -/
def putBits (s : State) (a span p w v : Nat) : List Byte :=
  let old := ofLE (memRead s a span)
  toLE span (old - ((old >>> p) % 2 ^ w) * 2 ^ p + (v % 2 ^ w) * 2 ^ p)

/-- Write an element code into every copy (R119). -/
def writeCode (s : State) (n : Fin 16) (st : Option Nat) (t : Tensor) (x : Idx) (v : Nat) : State :=
  (List.range t.copies).foldl (fun s c =>
    let a := t.addr c x
    stepWrite s n st a (putBits s a (elemSpan t.fmt) (bitPos t.fmt x.i0) t.fmt.elemBits v)) s

/-- Write a scale byte into every copy. -/
def writeFine (s : State) (n : Fin 16) (st : Option Nat) (t : Tensor) (x : Idx) (v : Nat) : State :=
  (List.range t.copies).foldl (fun s c => stepWrite s n st (t.fineAddr c x) [BitVec.ofNat 8 v]) s

/-- Positions beyond EXT0 of a final block are stored as code zero (R59). -/
def padBlock (s : State) (n : Fin 16) (st : Option Nat) (t : Tensor) (x : Idx) : State :=
  (((List.range t.fmt.blockSize).map fun i => x.i0 / t.fmt.blockSize * t.fmt.blockSize + i).filter fun i => decide (t.ext 0 ≤ i)).foldl
    (fun s i => writeCode s n st t { x with i0 := i } 0) s

/-! ### Block encodings -/

/-- The rounding of element i under RND (R64, R65). -/
def rndOf (rnd stream : Nat) (seed : BitVec 128) (step i : Nat) : Rnd :=
  if rnd = 1 then .sr (genWord seed.toNat step stream classRound i) else .rne

/-- v / p for positive p. -/
def Val.divPos (v : Val) (p : Nat × Nat) : Val :=
  match v with
  | .fin s n d => .fin s (n * p.2) (d * p.1)
  | w => w

/-- R61: the fine scale and the codes of a block. -/
def encodeBp (m : Mini) (coarse : Nat) (vs : List (Rnd × Val)) : Nat × List Nat :=
  if vs.any fun v => v.2.isNan then (0xFF, vs.map fun _ => 0)
  else
    let amax := vs.foldl (fun a v => maxMag a v.2.mag) (0, 1)
    let c := (fp32.decode coarse).mag
    let hasInf := vs.any fun v => v.2.isInf
    if !hasInf && amax.1 == 0 then (0, vs.map fun v => m.signCode v.2.sign)
    else
      let fine := if hasInf then 0xFE else fineFor (amax.1 * c.2 * m.emax.2) (amax.2 * c.1 * m.emax.1)
      let f := (fineVal fine).mag
      (fine, vs.map fun v => m.encode v.1 (v.2.divPos (f.1 * c.1, f.2 * c.2)))

/-- R69 step 3 and R70: the shared exponent and the codes of a Microscaling block of exact values. -/
def encodeMx (f : Fmt) (vs : List (Rnd × Val)) : Nat × List Nat :=
  let m := f.mini.getD e4m3
  let emaxExp : Int := if f.elemBits = 8 then 8 else if f.elemBits = 6 then 4 else 2
  if vs.any fun v => v.2.isNan then (0xFF, vs.map fun _ => 0)
  else
    let amax := vs.foldl (fun a v => maxMag a v.2.mag) (0, 1)
    let hasInf := vs.any fun v => v.2.isInf
    if !hasInf && amax.1 == 0 then (0, vs.map fun v => m.signCode v.2.sign)
    else
      let x : Int := if hasInf then 254 else min (max (exRat amax.1 amax.2 - 1 - emaxExp) (-127)) 127 + 127
      let q := (Val.dyadic false 1 (x - 127)).mag
      (x.toNat, vs.map fun v => m.encode v.1 (v.2.divPos q))

/-! ### Cistern words and handles (R136 to R157) -/

def wordZero : CWord := { data := 0, spec := 0, res := 0, ecc := 0 }

/-- RES is DATA modulo 127 (R137). -/
def mkWord (data : BitVec 128) (spec : BitVec 3) : CWord := { data, spec, res := BitVec.ofNat 7 (data.toNat % 127), ecc := 0 }

/-- The ECC field of a stored word (R136): State keeps its difference from the check bits that SECDED gives for DATA, SPEC and RES, zero in a word that was written whole (the manual gives the code's length and not its matrix). -/
def CWord.checkBits (w : CWord) : BitVec 9 :=
  BitVec.ofNat 9 (Config.secded 138 (w.data.toNat + w.spec.toNat * 2 ^ 128 + w.res.toNat * 2 ^ 131)) ^^^ w.ecc

def getWord (s : State) (w : Nat) : CWord := Sparse.get wordZero s.cistern w
def putWord (s : State) (w : Nat) (x : CWord) : State := { s with cistern := Sparse.put wordZero s.cistern w x }

/-- What a value adds to a word of a handle (R141): DATA and SPEC. -/
def entryOf (wexp : Int) (crnd : Bool) : Val → BitVec 128 × BitVec 3
  | .nan => (0, 1)
  | .inf false => (0, 2)
  | .inf true => (0, 4)
  | .fin neg n d =>
    let q := scalePow n d wexp
    let k := roundNat (if crnd then .down else .rne) q.1 q.2
    (BitVec.ofInt 128 (if neg then -(k : Int) else (k : Int)), 0)

/-- The exact value of a word, SPEC first (R151). -/
def wordVal (wexp : Int) (w : CWord) : Val :=
  if w.spec.getLsbD 0 || (w.spec.getLsbD 1 && w.spec.getLsbD 2) then .nan
  else if w.spec.getLsbD 1 then .inf false
  else if w.spec.getLsbD 2 then .inf true
  else if w.data = 0 then .fin false 0 1
  else Val.dyadic (decide (w.data.toInt < 0)) w.data.toInt.natAbs wexp

/-- The raw image of a word (R138). -/
def rawImage (w : CWord) : List Byte := toLE 16 w.data.toNat ++ BitVec.ofNat 8 w.spec.toNat :: List.replicate 15 0

/-- The word of a raw image. -/
def ofRaw (bs : List Byte) : CWord :=
  mkWord (BitVec.ofNat 128 (ofLE (bs.take 16))) (BitVec.ofNat 3 (ofLE ((bs.drop 16).take 1)))

/-- The cistern word of handle word h (R154). -/
def Handle.word (hd : Handle) (h : Nat) : Nat :=
  if hd.stripe then
    let sl := max 1 (hd.count / 32768)
    (hd.base / 32768 + h / 64 % sl) * 32768 + h / (64 * sl) * 64 + h % 64
  else hd.base + h

/-- Logical basin and bank of a cistern word (R139). -/
def wordBasin (w : Nat) : Nat := w / 32768
def wordBank (w : Nat) : Nat := w % 64

/-- The data address of a cistern word (R139). -/
def wordAddr (w : Nat) : Nat := 0x100000000000 + 16 * w

/-- The open handle of a number; one that an earlier CST_CLOSE of its ring names is closed to later references (R155). -/
def findHandle (p : Part) (num : Nat) : Option Handle := p.handles.find? fun h => h.num == num && !h.closing

/-- The rules of R155 for a handle reference that addresses `len` words: status and failing byte, or none. -/
def handleRef (p : Part) (r : Fin 8) (ref len byte : Nat) : Option (Nat × Nat) :=
  match findHandle p (ref / 2 ^ 24) with
  | none => some (stBadField, byte)
  | some h =>
    if h.ring ≠ r.val then some (stNotOwned, byte)
    else if ref % 2 ^ 24 + len ≤ h.count then none
    else some (stBadField, byte)

/-- Cistern words that a reference covers. -/
def refWords (p : Part) (ref len : Nat) : List Nat :=
  match findHandle p (ref / 2 ^ 24) with
  | none => []
  | some h => (List.range len).map fun i => h.word (ref % 2 ^ 24 + i)

/-- Add lane operations to the queue. -/
def State.enqueue (s : State) (ops : List LaneOp) : State := { s with laneq := s.laneq ++ ops }

/-- A handle among those that a descriptor names. -/
def handIn (hs : List Handle) (ref : Nat) : Option Handle := hs.find? fun h => h.num == ref / 2 ^ 24

/-- The lane operation that enters a value into handle word i of a reference. -/
def addOp (hs : List Handle) (tag : Tag) (ref i : Nat) (v : Val) : List LaneOp :=
  match handIn hs ref with
  | none => []
  | some h =>
    let e := entryOf h.wexp h.crnd v
    [{ tag := tag, word := h.word (ref % 2 ^ 24 + i), kind := .add e.1 e.2 }]

/-- The lane operation that adds a whole word (R143). -/
def addWordOp (hs : List Handle) (tag : Tag) (ref i : Nat) (data : BitVec 128) (spec : BitVec 3) : List LaneOp :=
  match handIn hs ref with
  | none => []
  | some h => [{ tag := tag, word := h.word (ref % 2 ^ 24 + i), kind := .add data spec }]

/-! ### Ownership by rings (R383) -/

/-- Entries of the OWN section for a ring. -/
def ownEntries (p : Part) (r : Nat) : List (BitVec 64) :=
  match p.plan with
  | some pl => pl.own.filter fun e => fld e 1 0 3 == r
  | none => []

def ringOwnsBasin (p : Part) (r b : Nat) : Bool :=
  (ownEntries p r).any fun e => fld e 0 0 8 == 1 && decide (fld e 2 0 8 ≤ b) && decide (b < fld e 2 0 8 + fld e 3 0 8)

def ringOwnsWords (p : Part) (r w n : Nat) : Bool :=
  (List.range n).all fun i => (ownEntries p r).any fun e =>
    fld e 0 0 8 == 2 && decide (fld e 2 0 22 ≤ w + i) && decide (w + i < fld e 2 0 22 + fld e 2 22 23)

/-- The ring that owns a plane (R193). -/
def planeRing (p : Part) (k : Nat) : Option Nat :=
  match p.plan with
  | some pl => (pl.own.find? fun e => fld e 0 0 8 == 3 && fld e 2 k 1 == 1).map fun e => fld e 1 0 3
  | none => none

def ringActive (p : Part) (r : Nat) : Bool :=
  match p.plan with
  | some pl => pl.active.testBit r
  | none => false

/-! ### The manifest (R384) -/

/-- The entry that a descriptor's own fields would make: opcode, byte 1, OUT_FMT and RND, CODEC, SR_STREAM, WEXP, CRND. -/
def manifestOf (d : Desc) : BitVec 128 :=
  let op := dOpcode d
  let f := fun (b1 fm cd st we cr : Nat) =>
    packFields 128 [(0, 0, 8, op), (1, 0, 8, b1), (2, 0, 8, fm), (3, 0, 8, cd), (4, 0, 16, st), (6, 0, 16, we), (8, 0, 8, cr)]
  if op = 0x08 then f 0 (fld d 12 0 2 * 16) 0 (fld d 14 0 16) 0 0
  else if op = 0x10 ∨ op = 0x11 ∨ op = 0x12 then f (fld d 36 3 2) (fld d 37 0 6) 0 (fld d 38 0 16) 0 0
  else if op = 0x13 then f (fld d 18 0 4) (fld d 37 0 6) 0 (fld d 38 0 16) 0 0
  else if op = 0x20 then f 0 0 0 0 (fld d 20 0 16) (fld d 22 0 1)
  else if op = 0x30 ∨ op = 0x31 ∨ op = 0x32 then f (fld d 8 0 3) 0 (fld d 10 0 4) 0 0 0
  else f 0 0 (fld d 10 0 4) 0 0 0

/-- The opcodes that the manifest lists (R384). -/
def inManifest (op : Nat) : Bool := [0x08, 0x10, 0x11, 0x12, 0x13, 0x20, 0x30, 0x31, 0x32, 0x33, 0x34, 0x35, 0x36].contains op

def manifestOk (p : Part) (d : Desc) : Bool :=
  !inManifest (dOpcode d) || (match p.plan with | some pl => pl.manifest.contains (manifestOf d) | none => false)

end Sys2Proof.Machine
end

