-- ==== Sys2Proof/Machine/Column.lean ====
section
/-! DEFINITION. The arithmetic of one array column: group sums (R77 to R81), the chunk accumulator (R82, R86), the PX passes (R169, R170), coarse scales (R84) and NaN sources (R105). -/
namespace Sys2Proof.Machine

/-- An operand element: its code and the fine-scale byte of its block. -/
abbrev Opnd := Nat × Nat

/-- An accumulator or a group sum: an FP32 code (a 32-bit integer for INT8) and the source of its NaN, 0 for none and 1 + R105's code otherwise. -/
abbrev Acc := Nat × Nat

def accZero : Acc := (0, 0)

/-- Split a list into groups of `g`, the last one possibly short. -/
def takeGroups {α : Type} (g : Nat) : Nat → List α → List (List α)
  | 0, _ => []
  | f + 1, l => if l.isEmpty then [] else l.take g :: takeGroups g f (l.drop g)

/-- R78 and R79: the sum of one 16-bit group, from its operand values in ascending K. -/
def groupSum16 (before : Bool) (ps : List (Val × Val)) : Acc :=
  let prods := ps.map fun p => p.1.mul p.2
  if ps.any fun p => p.1.isNan || p.2.isNan then (fp32.nanCode, 1)
  else if prods.any Val.isNan then (fp32.nanCode, 2)
  else
    let pos := prods.any fun v => v == .inf false
    let neg := prods.any fun v => v == .inf true
    if pos && neg then (fp32.nanCode, 3)
    else if pos || neg then (fp32.signBit neg + fp32.infCode, 0)
    else
      let nz := prods.filter Val.isNonzero
      match nz with
      | [] => (fp32.signBit (prods.all Val.sign), 0)
      | v :: vs =>
        let e := vs.foldl (fun e w => max e (exRat w.mag.1 w.mag.2)) (exRat v.mag.1 v.mag.2)
        let t := fun (w : Val) => let m : Int := (roundAt .down w.mag.1 w.mag.2 (e - 27) : Nat); if w.sign then -m else m
        let sum := nz.foldl (fun a w => a + t w) 0
        if sum = 0 then accZero
        else (fp32.encodeFlush before .rne (Val.dyadic (decide (sum < 0)) sum.natAbs (e - 27)), 0)

/-- R80: the sum of one Bopoyr group. -/
def groupSumBp (ma mb : Mini) (ps : List (Opnd × Opnd)) : Acc :=
  let fa := match ps with | p :: _ => p.1.2 | [] => 0
  let fb := match ps with | p :: _ => p.2.2 | [] => 0
  if fa = 0xFF ∨ fb = 0xFF then (fp32.nanCode, 1)
  else
    let ip := ps.foldl (fun a p => a + ma.integer p.1.1 * mb.integer p.2.1) 0
    if ip = 0 ∨ fa = 0 ∨ fb = 0 then
      (fp32.signBit (ps.all fun p => (ma.neg p.1.1 != mb.neg p.2.1) &&
        (fa == 0 || fb == 0 || ma.integer p.1.1 * mb.integer p.2.1 == 0)), 0)
    else
      let v := ((Val.dyadic (decide (ip < 0)) ip.natAbs (ma.ks + mb.ks)).mul (fineVal fa)).mul (fineVal fb)
      (fp32.encode .rne v, 0)

/-- R82: one group sum enters the accumulator; R105: the first group in which a NaN appears gives its source. -/
def accStep (before : Bool) (acc g : Acc) : Acc :=
  let r := accAdd before acc.1 g.1
  if acc.2 ≠ 0 then (r, acc.2)
  else if (fp32.decode r).isNan then (r, if g.2 ≠ 0 then g.2 else 3)
  else (r, 0)

/-- R169: the BF16 parts (hi, lo) of a flushed FP32 code. -/
def splitFp32 (x : Nat) : Nat × Nat :=
  match fp32.decode x with
  | .nan => (bf16.nanCode, 0)
  | .inf s => (bf16.signBit s + bf16.infCode, 0)
  | v =>
    let h := bf16.encode .rne v
    let hi := if h % 2 ^ 15 = bf16.infCode then h - 1 else h
    (hi, bf16.flushInput (bf16.encode .rne (v.add (bf16.decode hi).neg)))

/-- The 16-bit value of an operand in part `lo` or hi: FP32 elements split, a BF16 element is its own hi part (R168). -/
def part16 (f : Fmt) (lo : Bool) (code : Nat) : Val :=
  match f with
  | .fp32 => let p := splitFp32 (fp32.flushInput code); bf16.decode (if lo then p.2 else p.1)
  | .fp16 => fp16.decode (fp16.flushInput code)
  | _ => bf16.decode (bf16.flushInput code)

/-- The passes of a PX code in order: whether A and B give their lo parts (R168). -/
def pxPasses (px : Nat) : List (Bool × Bool) :=
  if px = 2 then [(true, false), (false, false)]
  else if px = 3 then [(true, false), (false, true), (false, false)]
  else [(false, false)]

/-- The factors of one product of a pass; in a lo pass a product whose other factor is infinite or NaN is replaced by +0 (R170). -/
def passFactors (fa fb : Fmt) (ps : Bool × Bool) (x : Opnd × Opnd) : Val × Val :=
  let a := part16 fa ps.1 x.1.1
  let b := part16 fb ps.2 x.2.1
  if (ps.1 && (b.isNan || b.isInf)) || (ps.2 && (a.isNan || a.isInf)) then (.fin false 0 1, .fin false 0 1) else (a, b)

/-- The cell mode of a pair of formats: K positions per beat (R74). -/
def ktOf (fa : Fmt) : Nat := if fa = .bp4 then 64 else if fa = .int8 ∨ fa.isBopoyr then 32 else 16

/-- Run the products of one column, in ascending K, into an accumulator (R77 to R82, R170). -/
def columnAcc (fa fb : Fmt) (px g : Nat) (before : Bool) (init : Acc) (xs : List (Opnd × Opnd)) : Acc :=
  if fa = .int8 then
    (((xs.foldl (fun (a : Int) (x : Opnd × Opnd) => a + signed 8 x.1.1 * signed 8 x.2.1) (signed 32 init.1)) % 2 ^ 32).toNat, 0)
  else
    match fa.mini, fb.mini with
    | some ma, some mb => (takeGroups g xs.length xs).foldl (fun acc ps => accStep before acc (groupSumBp ma mb ps)) init
    | _, _ =>
      (pxPasses px).foldl (fun acc ps =>
        (takeGroups g xs.length (xs.map (passFactors fa fb ps))).foldl (fun acc q => accStep before acc (groupSum16 before q)) acc) init

/-- The value of a finished chunk partial after the coarse scales (R81, R84). -/
def partialVal (fa fb : Fmt) (ca cb : Nat) (before : Bool) (w : Nat) : Val :=
  if fa = .int8 then Val.ofInt (signed 32 w)
  else if fa.isBopoyr && fb.isBopoyr then
    fp32.decode (fp32.encodeFlush before .rne (((fp32.decode w).mul (fp32.decode ca)).mul (fp32.decode cb)))
  else fp32.decode w

end Sys2Proof.Machine
end

