-- ==== Sys2Proof/Machine/Steps.lean ====
section
/-! DEFINITION. The steps of a partition: their records in the ledger, the completions of their seals, check failures and aborts (R15, R33, R34, R328 to R330). -/
namespace Sys2Proof.Machine

def findStep (p : Part) (k : Nat) : Option StepRec := p.steps.find? fun r => r.n == k

/-- The settings that the open step runs under (R255). -/
def Part.inRun (p : Part) : Option Settings := if p.openStep.isSome then p.asRun else none

/-- BSN_ARRAY_MODE and CFG_NUMERICS for the work of now. -/
def Part.arrayModeNow (p : Part) : Word := match p.inRun with | some x => x.arrayMode | none => p.arrayMode
def Part.numericsNow (p : Part) : Word := match p.inRun with | some x => x.numerics | none => p.numerics

/-- Change the record of step k. -/
def modStep (s : State) (n : Fin 16) (k : Nat) (f : StepRec → StepRec) : State :=
  s.modPart n fun p => { p with steps := p.steps.map fun r => if r.n == k then f r else r }

/-- CHECK_FAILED detail byte 12 (R381). -/
def checkDetail (bits : Nat) : BitVec 160 := BitVec.ofNat 160 (bits % 16)

/-- Complete the STEP_SEALs of step k that one ring has retired (R33). -/
def completeSealsRing (s : State) (n : Fin 16) (r : Fin 8) (k status : Nat) (detail : BitVec 160) : State :=
  let due := (s.ring n r).owed.filter fun o => o.2.1 == k
  let s1 := s.modRing n r fun x => { x with owed := x.owed.filter fun o => o.2.1 != k }
  due.foldl (fun s o => complete s n r o.1 status 0x04 (some k) detail o.2.2) s1

/-- Complete the STEP_SEALs of step k on every ring that has issued one. -/
def completeSeals (s : State) (n : Fin 16) (k status : Nat) (detail : BitVec 160) : State :=
  allRings.foldl (fun s r => completeSealsRing s n r k status detail) s

/-- Abort one step: an unsealed step completes its seal ABORTED (R27, R34). -/
def abortStep (s : State) (n : Fin 16) (k : Nat) : State :=
  match findStep (s.part n) k with
  | some r =>
    if r.fate == .open_ then completeSeals (modStep s n k fun r => { r with fate := .aborted }) n k stAborted 0 else s
  | none => s

/-- Abort every unsealed step that `sel` selects. -/
def abortSteps (s : State) (n : Fin 16) (sel : Nat → Bool) : State :=
  ((s.part n).steps.filter fun r => sel r.n && r.fate == .open_).foldl (fun s r => abortStep s n r.n) s

/-- A STEP_OPEN held at the gate of a ring. -/
def heldOpen (x : Ring) : Option Flight := x.flights.find? fun f => dOpcode f.d == 0x03 && f.phase == .gate

/-- For the place check alone, a STEP_OPEN n that completes ABORTED places its ring within step n (R339). -/
def holdPlace (s : State) (n : Fin 16) (r : Fin 8) : State :=
  match heldOpen (s.ring n r) with
  | some f => s.modRing n r fun x => { x with openStep := some (fld f.d 8 0 32) }
  | none => s

/-- Held STEP_OPENs complete ABORTED when the partition enters recovery (R339). -/
def abortHeld (s : State) (n : Fin 16) : State :=
  allRings.foldl (fun s r => (holdPlace s n r).modRing n r fun x => { x with
    flights := x.flights.map fun f =>
      if dOpcode f.d == 0x03 && f.phase == .gate then { f with phase := .done, status := stAborted } else f }) s

/-- A check of step k fails (R34): its seal completes CHECK_FAILED, later unsealed steps abort, and the partition holds at its next gate; at that gate its held STEP_OPENs complete ABORTED (R339). -/
def failStep (s : State) (n : Fin 16) (k bits : Nat) : State :=
  match findStep (s.part n) k with
  | some r =>
    match r.fate with
    | .open_ =>
      let s1 := modStep s n k fun r => { r with fate := .failed, failBits := r.failBits ||| bits }
      let s2 := completeSeals s1 n k stCheckFailed (checkDetail (r.failBits ||| bits))
      let s3 := abortSteps s2 n fun m => decide (k < m)
      let s4 := s3.modPart n fun p => { p with recovery := true }
      if (s.part n).openStep.isNone then abortHeld s4 n else s4
    | .failed => modStep s n k fun r => { r with failBits := r.failBits ||| bits }
    | _ => s
  | none => s

/-- Fail the step that a flight belongs to, if any. -/
def failStepOf (s : State) (n : Fin 16) (st : Option Nat) (bits : Nat) : State :=
  match st with
  | some k => failStep s n k bits
  | none => s

/-- DRIVER release (R330). -/
def driverRelease (s : State) (n : Nat) : Bool := (s.force (0x70100 + 4 * n)).getLsbD 0

/-- Steps that count as unsealed (R20, R330): every step that the ledger still holds. -/
def unsealedCount (p : Part) : Nat := p.steps.length

/-- Bytes of the ledger share in use and the share (R328, R329). -/
def ledgerUse (p : Part) : Nat := p.steps.foldl (fun a r => a + r.bytes) 0
def ledgerShare (s : State) (n : Nat) : Nat := 786432 * (partRange s n).2

/-- Whether a flight counts as in flight for R18: a descriptor that only waits to be applied at the gate does not. -/
def inFlight (f : Flight) : Bool := f.phase == .running || f.phase == .waiting || f.phase == .done

/-- No descriptor in flight on any ring. -/
def noFlights (s : State) (n : Fin 16) : Bool := (s.fn n).rings.toList.all fun r => r.flights.all fun f => !inFlight f

/-- R18: no open step and nothing in flight. -/
def idle (s : State) (n : Fin 16) : Bool := (s.part n).openStep.isNone && noFlights s n

/-- Every active ring has issued STEP_SEAL k. -/
def allSealed (p : Part) (k : Nat) : Bool :=
  match p.plan, findStep p k with
  | some pl, some r => (List.range 8).all fun i => !pl.active.testBit i || r.seals.testBit i
  | _, _ => false

/-- No descriptor of step k is still to retire. -/
def stepDrained (s : State) (n : Fin 16) (k : Nat) : Bool :=
  (s.fn n).rings.toList.all fun r => r.flights.all fun f => f.step != some k

/-! ### Work that ends -/

/-- Change the flights of a ring. -/
def modFlights (s : State) (n : Fin 16) (r : Fin 8) (g : Flight → Flight) : State :=
  s.modRing n r fun x => { x with flights := x.flights.map g }

def modFlight (s : State) (n : Fin 16) (r : Fin 8) (seq : Nat) (g : Flight → Flight) : State :=
  modFlights s n r fun f => if f.seq == seq then g f else f

def findFlight (s : State) (n : Fin 16) (r : Fin 8) (seq : Nat) : Option Flight :=
  (s.ring n r).flights.find? fun f => f.seq == seq

/-- The check bits that a completion status of an opcode fails for its step (R327, R225): COPY and CST_READ that abort, a FENCE that times out, a collective that times out, aborts or is fenced. -/
def failingBits (op status : Nat) : Nat :=
  if (op == 0x08 || op == 0x22) && (status == stAborted || status == stTimeout) then 8
  else if op == 0x01 && status != stOk then 8
  else if decide (0x30 ≤ op ∧ op ≤ 0x36) && (status == stTimeout || status == stAborted || status == stFenced) then 10
  else 0

/-- The work of a flight ends with a status and a detail; a status that R327 does not allow fails its step. -/
def endFlight (s : State) (n : Fin 16) (r : Fin 8) (seq status : Nat) (detail : BitVec 160) : State :=
  match findFlight s n r seq with
  | none => s
  | some f =>
    let s1 := modFlight s n r seq fun f => { f with phase := .done, status := status, detail := detail }
    let b := failingBits (dOpcode f.d) status
    if b != 0 then failStepOf s1 n f.step b else s1

/-- Flights of a partition that `sel` selects, with their ring. -/
def flightsWhere (s : State) (n : Fin 16) (sel : Flight → Bool) : List (Fin 8 × Flight) :=
  allRings.flatMap fun r => ((s.ring n r).flights.filter sel).map fun f => (r, f)

end Sys2Proof.Machine
end

