-- ==== Sys2Proof/Machine/Links.lean ====
section
/-! DEFINITION. Planes and sluices: the plane table (R189 to R193), parcels, credits and retry (R270 to R282), and ports that go down, leave or join (R288 to R297). -/
namespace Sys2Proof.Machine

/-! ### The plane table (R191) -/

abbrev PlaneTable := BitVec 2304

def PlaneTable.domain (t : PlaneTable) : Nat := fld t 0 0 32
def PlaneTable.epoch (t : PlaneTable) : Nat := fld t 4 0 32
def PlaneTable.rank (t : PlaneTable) : Nat := fld t 8 0 16
def PlaneTable.size (t : PlaneTable) : Nat := fld t 10 0 16 + 1
def PlaneTable.valid (t : PlaneTable) : Nat := fld t 12 0 8
def PlaneTable.fanout (t : PlaneTable) (p : Nat) : Nat := fld t (32 + 32 * p) 0 4 + 1
def PlaneTable.parentPort (t : PlaneTable) (p : Nat) : Nat := fld t (33 + 32 * p) 0 5
def PlaneTable.noParent (t : PlaneTable) (p : Nat) : Bool := fbit t (33 + 32 * p) 7
def PlaneTable.childPort (t : PlaneTable) (p c : Nat) : Nat := fld t (36 + 32 * p + c) 0 5
def PlaneTable.present (t : PlaneTable) (p c : Nat) : Bool := fbit t (36 + 32 * p + c) 7

def PlaneTable.validPlanes (t : PlaneTable) : List Nat := (List.range 8).filter fun p => t.valid.testBit p

/-- Parent of rank r, and the rank in child slot c (R189). -/
def parentRank (k r : Nat) : Nat := (r - 1) / k
def childRank (k r c : Nat) : Nat := r * k + c + 1

/-- Child slots that hold a rank. -/
def PlaneTable.slots (t : PlaneTable) (p : Nat) : List Nat :=
  (List.range (t.fanout p)).filter fun c => decide (childRank (t.fanout p) t.rank c < t.size)

/-- Present child slots. -/
def PlaneTable.children (t : PlaneTable) (p : Nat) : List Nat := (t.slots p).filter fun c => t.present p c

/-- Sluices that a plane names, absent slots included (R192). -/
def PlaneTable.ports (t : PlaneTable) (p : Nat) : List Nat :=
  (if t.noParent p then [] else [t.parentPort p]) ++ (t.slots p).map (t.childPort p)

def PlaneTable.allPorts (t : PlaneTable) : List Nat := t.validPlanes.flatMap t.ports

/-- What a sluice is to a plane: none = the parent, some c = child slot c. -/
def PlaneTable.role (t : PlaneTable) (port : Nat) : Option (Nat × Option Nat) :=
  t.validPlanes.findSome? fun p =>
    if !t.noParent p && t.parentPort p == port then some (p, none)
    else ((t.slots p).find? fun c => t.childPort p c == port).map fun c => (p, some c)

/-- The rank that R189 places on a role. -/
def PlaneTable.roleRank (t : PlaneTable) (p : Nat) : Option Nat → Nat
  | none => parentRank (t.fanout p) t.rank
  | some c => childRank (t.fanout p) t.rank c

/-- Whether `anc` is `r` or an ancestor of `r` in the heap. -/
def inSubtree (k anc : Nat) : Nat → Nat → Bool
  | 0, r => r == anc
  | f + 1, r => r == anc || (decide (anc < r) && inSubtree k anc f (parentRank k r))

def planeTable (p : Part) : Option PlaneTable := p.plan.map (·.planes)

/-! ### The mirror table (R332) -/

abbrev MirrorTable := BitVec 768

def mirrorTable (p : Part) : Option MirrorTable := p.plan.map (·.mirror)
def MirrorTable.hasPartner (m : MirrorTable) : Bool := fbit m 43 0
def MirrorTable.hosts (m : MirrorTable) : Bool := fbit m 43 1
def MirrorTable.persist (m : MirrorTable) : Bool := fbit m 43 2
def MirrorTable.partnerRank (m : MirrorTable) : Nat := fld m 38 0 16
def MirrorTable.mirrorPorts (m : MirrorTable) : List Nat := (List.range 24).filter fun i => (fld m 40 0 24).testBit i
def MirrorTable.hostedRank (m : MirrorTable) : Nat := fld m 44 0 16
def MirrorTable.hostedPorts (m : MirrorTable) : List Nat := (List.range 24).filter fun i => (fld m 46 0 24).testBit i
def MirrorTable.lstore (m : MirrorTable) : Nat := fld m 32 0 48
def MirrorTable.hstore (m : MirrorTable) : Nat := fld m 52 0 48
def MirrorTable.hgranules (m : MirrorTable) : Nat := fld m 58 0 32
def MirrorTable.lgranules (m : MirrorTable) : Nat := fld m 64 0 32
/-- First granule and count of the extents in use. -/
def MirrorTable.extents (m : MirrorTable) : List (Nat × Nat) :=
  if m.persist then
    ((List.range 8).filter fun i => i == 0 || fld m (4 * i) 0 32 != 0).map fun i => (fld m (4 * i) 0 16, fld m (4 * i + 2) 0 16 + 1)
  else []
/-- SRAM granule numbers of the persistent region in image order. -/
def MirrorTable.granules (m : MirrorTable) : List Nat := m.extents.flatMap fun e => (List.range e.2).map (· + e.1)

/-- Sluices that a plan names. -/
def planPorts (pl : Plan) : List Nat :=
  PlaneTable.allPorts pl.planes ++ MirrorTable.mirrorPorts pl.mirror ++ MirrorTable.hostedPorts pl.mirror

/-- DOMAIN_ID and RANK of a plan's plane table, for the STATE flits of its sluices (R272); a table without a valid plane names no rank. -/
def planIdent (pl : Plan) : Option (Nat × Nat) := some (PlaneTable.domain pl.planes, PlaneTable.rank pl.planes)

/-! ### Ports -/

/-- The function whose event ring hears of a sluice (R297). -/
def portFn (s : State) (n : Fin 24) : Fin 16 := match (s.port n).owner with | some o => fin16 o | none => 0

/-- An event entry of a sluice: byte 12 the port, byte 13 and bytes 14 to 15 as the code gives (R387). -/
def portEvent (s : State) (n : Fin 24) (code b13 b14 : Nat) : State :=
  let f := portFn s n
  event s f code 0xF (stepNow (s.part f)) [(12, 0, 8, n.val), (13, 0, 8, b13), (14, 0, 16, b14)]

def portCtl (s : State) (n : Fin 24) : Word := s.force (0x30000 + 0x800 * n.val)

/-- Receive credits of a virtual lane (R276). -/
def vlCredits (vlbuf : Word) (vl : Nat) : Nat :=
  if vl = 0 then wbits vlbuf 9 0 else if vl = 1 then wbits vlbuf 25 16
  else if vl = 2 then 1984 - wbits vlbuf 9 0 - wbits vlbuf 25 16 else 64

/-- The virtual lane of a parcel that waits. -/
def draftVl (x : Draft) : Nat := fld x.hdr 0 4 2

/-- The parcel that the transmitter starts next: CONTROL, DOWN, UP, MIRROR, each lane in order, when its credits suffice (R275, R276). -/
def nextParcel (p : Port) : Option Draft :=
  if p.st != .joined && p.st != .leaving then none
  else [3, 1, 0, 2].findSome? fun vl =>
    match p.waiting.find? fun x => draftVl x == vl with
    | some x => if decide (parcelCredits x.payload.length ≤ getV p.credits vl) then some x else none
    | none => none

/-- A parcel starts: it takes the next PSEQ of its virtual lane and its credits, its CRC-32C is computed, and it counts as unverified for its step (R274, R278, R280). -/
def startParcel (p : Port) (x : Draft) : Port × List Byte :=
  let vl := draftVl x
  let q := getV p.pseqTx vl
  let hdr := x.hdr ||| packFields 320 [(28, 0, 16, q)]
  ({ p with
     waiting := p.waiting.erase x, credits := subCredits p.credits vl (parcelCredits x.payload.length), pseqTx := setV p.pseqTx vl ((q + 1) % 65536),
     unverified := p.unverified ++ [(vl, q, x.part, x.step)], counters := bump p.counters 13 1 },
   Parcel.bytes { hdr := hdr, payload := x.payload, crc := parcelCrc hdr x.payload })

/-- Fill a DATA flit body from the bytes `bs` and the parcels that may start, back to back; `st` is PSTART (R271). -/
def fillBody : Nat → Port → List Byte → Nat → Port × List Byte × Nat
  | 0, p, bs, st => (p, bs, st)
  | k + 1, p, bs, st =>
    if 626 ≤ bs.length then (p, bs, st)
    else match nextParcel p with
      | none => (p, bs, st)
      | some x => let y := startParcel p x; fillBody k y.1 (bs ++ y.2) (if st = 0x3FF then bs.length else st)

/-- Send DATA flits of sluice i while there are bytes to send and the retry buffer has room; the rest of a body is zero (R271, R282). -/
def pumpPort (i : Nat) : Nat → Port → Port
  | 0, p => p
  | k + 1, p =>
    if 512 ≤ p.retry.length then p
    else
      let b := fillBody 16 p p.txRest 0x3FF
      if b.2.1.isEmpty then p
      else
        let f : DataFlit := { fseq := p.nextFseq, pstart := b.2.2, body := b.2.1.take 626 ++ List.replicate (626 - b.2.1.length) 0 }
        pumpPort i k (({ b.1 with
          txRest := b.2.1.drop 626, retry := b.1.retry ++ [f], nextFseq := (f.fseq + 1) % 4096 } : Port).put i (.data f.fseq f.pstart f.body))

def pump (s : State) (n : Fin 24) : State := s.modPort n (pumpPort n.val 512)

/-- Offer a parcel to a port (R274). A port in LEAVING takes no new parcel (R295); on a port that holds no credits it waits. -/
def sendParcel (s : State) (n : Fin 24) (part : Fin 16) (step vl : Nat) (fields : List (Nat × Nat × Nat × Nat)) (payload : List Byte) : State :=
  let hdr : ParcelHdr := packFields 320 (fields ++ [(0, 4, 2, vl), (2, 0, 14, payload.length)])
  if (s.port n).st == .leaving then s
  else pump (s.modPort n fun p => { p with waiting := p.waiting ++ [{ hdr := hdr, payload := payload, part := part.val, step := step }] }) n

/-- A parcel leaves the receive buffer: its credits go back (R277). -/
def returnCredits (s : State) (n : Fin 24) (x : Parcel) : State :=
  s.modPort n fun p => { p with owedCredits := addCredits p.owedCredits (parcelVl x) (parcelCredits (parcelLen x)) }

/-- Lost parcels, and those that the port has not started, fail the steps that sent them (R280). -/
def loseUnverified (s : State) (n : Fin 24) : State :=
  let p := s.port n
  let u := (p.unverified.map fun x => (x.2.2.1, x.2.2.2)) ++ p.waiting.map fun x => (x.part, x.step)
  u.foldl (fun s x => if x.2 == noStep then s else failStep s (fin16 x.1) x.2 2)
    (s.modPort n fun p => { p with unverified := [], waiting := [], txRest := [] })

/-- Lane maps after training: logical lane l on physical lane l, wavelength l (R264), for `w` lanes. -/
def Dir.trained (w : Nat) : Dir :=
  let v : Vector Nat 8 := Vector.ofFn fun i => if i.val < w then i.val else 0xF
  { Dir.reset with lanes := v, wls := v, homeLanes := v, homeWls := v, width := w }

/-- A direction of a port that is DOWN: no lane is active, and the marks of R284 stand until the next training. -/
def Dir.down (d : Dir) : Dir := { Dir.reset with badLanes := d.badLanes, badWls := d.badWls }

/-- MAX_WIDTH (R299). -/
def maxWidth (ctl : Word) : Nat := match wbits ctl 4 3 with | 1 => 7 | 2 => 4 | _ => 8

/-- Bits set among the low nine of a mask. -/
def popcount9 (m : Nat) : Nat := ((List.range 9).filter fun i => m.testBit i).length

/-- The width that h usable lanes give (R286). -/
def widthOf (h : Nat) : Nat := if 8 ≤ h then 8 else if h = 7 then 7 else if 4 ≤ h then 4 else 0

/-- h of a direction: the lesser of its healthy physical lanes and healthy wavelengths (R286). -/
def Dir.usable (d : Dir) : Nat := min (9 - popcount9 d.badLanes) (9 - popcount9 d.badWls)

/-- A port without traffic state: zero credits either way, nothing held, nothing to retry. -/
def Port.quiet (p : Port) (st : PortSt) : Port :=
  { p with st := st, credits := Vector.replicate 4 0, owedCredits := Vector.replicate 4 0, retry := [], resends := 0, lastNak := none,
           expected := 0, nak := false, nextFseq := 0, txRest := [], rxRest := [], rxbuf := [], held := [], joinReq := false, leave := false,
           partnerJoin := false, pfail := none, fault := none, burst := false, weak := Vector.replicate 9 0,
           pseqTx := Vector.replicate 4 0, pseqRx := Vector.replicate 4 0, verifiedRx := Vector.replicate 4 0 }

/-- A private write to the port's engine (R287). -/
def Port.command (p : Port) (c : List Nat) : Port := if p.present then { p with engine := p.engine ++ [c] } else p

/-- DARK: the engine's transmitters go off or on. -/
def Port.setDark (p : Port) (b : Bool) : Port := if p.dark = b then p else { p.command [4, if b then 1 else 0] with dark := b }

/-- A descriptor of the port ends with a status and a detail: PORT_LEAVE or PORT_JOIN (R293). -/
def endPortOpWith (s : State) (port : Fin 24) (op status : Nat) (detail : BitVec 160) : State :=
  allParts.foldl (fun s n =>
    (flightsWhere s n fun f => dOpcode f.d == op && fld f.d 8 0 5 == port.val && f.phase == .running).foldl
      (fun s x => endFlight s n x.1 x.2.seq status detail) s) s

def endPortOp (s : State) (port : Fin 24) (op status : Nat) : State := endPortOpWith s port op status 0

/-- A flap (R292): flaps older than the window fall out (how many is open, since no time is counted), and COUNT of them quarantine the port. -/
def flap (s : State) (n : Fin 24) : State :=
  let p := s.port n
  let (v, s1) := s.draw
  let k := p.flaps - v % (p.flaps + 1) + 1
  let w := s1.force (0x30000 + 0x800 * n.val + 4)
  if wbits w 3 0 ≤ k then
    portEvent (s1.modPort n fun p => { p.setDark true with st := .quarantined, flaps := min 15 k, quarLeft := wbits w 23 12 }) n evPortQuarantined 0 0
  else s1.modPort n fun p => { p with flaps := k }

/-- R290: the port goes DOWN and seeks again; a transition from TRAINED, JOINED or LEAVING is a flap. -/
def portDown (s : State) (n : Fin 24) : State :=
  let p := s.port n
  match p.st with
  | .dark => s
  | .quarantined => s
  | .seeking => s
  | _ =>
    let up := p.st == .trained || p.st == .joined || p.st == .leaving
    let s1 := portEvent s n evLinkDown 0 0
    let s2 := loseUnverified s1 n
    let s3 := if p.st == .leaving then endPortOp s2 n 0x52 stOk else s2
    let s4 := s3.modPort n fun q =>
      { q.quiet .seeking with
        tx := p.tx.down, rx := p.rx.down,
        rejoin := if p.st == .joined then some (q.partnerDom, q.partnerRank, q.partnerPort) else q.rejoin }
    if up then flap s4 n else s4

/-- The initial credits of a port that becomes JOINED (R277): both ends return every lane in full. -/
def joinPort (s : State) (n : Fin 24) : State :=
  pump (s.modPort n fun p =>
    { p with st := .joined, joinReq := false, leave := false, partnerJoin := false,
             owedCredits := Vector.ofFn fun i => vlCredits p.vlbuf i.val }) n

/-- The port leaves JOINED for TRAINED: zero credits, its unverified parcels are lost (R295, R296). -/
def leavePort (s : State) (n : Fin 24) (flag : Bool) : State :=
  (loseUnverified s n).modPort n fun p => { p.quiet .trained with leave := flag }

/-- Whether every sluice of a plane but those of absent slots is joined (R209). -/
def planeJoined (s : State) (t : PlaneTable) (p : Nat) : Bool :=
  ((if t.noParent p then [] else [t.parentPort p]) ++ (t.children p).map (t.childPort p)).all fun q => (s.port (fin24 q)).st == .joined

end Sys2Proof.Machine
end

