-- ==== Sys2Proof/Machine/Lanes.lean ====
section
/-! DEFINITION. Lanes and wavelengths of a direction (R284 to R286, R298): marks, spares, lane commands, and the width that a direction settles on. -/
namespace Sys2Proof.Machine

/-- An active lane runs on physical lane u, or on wavelength u (R300). -/
def Dir.uses (d : Dir) (u : Nat) : Bool := d.active.any fun l => getV d.lanes l == u
def Dir.usesWl (d : Dir) (u : Nat) : Bool := d.active.any fun l => getV d.wls l == u

/-- The physical lane or wavelength that logical lane l has, or had when it left the rotation. -/
def Dir.home (d : Dir) (cls : LaneClass) (l : Nat) : Nat :=
  match cls with | .electrical => getV d.homeLanes l | .optical => getV d.homeWls l

/-- The logical lane of a physical lane, or of a wavelength. -/
def Dir.onUnit (d : Dir) (cls : LaneClass) (u : Nat) : Option Nat := (List.range 8).find? fun l => d.home cls l == u

/-- A physical lane or a wavelength is marked (R284). -/
def Dir.isBad (d : Dir) (cls : LaneClass) (u : Nat) : Bool :=
  match cls with | .electrical => d.badLanes.testBit u | .optical => d.badWls.testBit u

def Dir.mark (d : Dir) (cls : LaneClass) (u : Nat) : Dir :=
  match cls with
  | .electrical => { d with badLanes := d.badLanes ||| 2 ^ u }
  | .optical => { d with badWls := d.badWls ||| 2 ^ u }

/-- An ADD of logical lane l waits. -/
def Dir.adding (d : Dir) (l : Nat) : Bool := d.cmds.any fun c => c.add && c.lane == l

/-- The spare of a class is free and healthy. -/
def Dir.spareFree (d : Dir) (cls : LaneClass) : Bool :=
  match cls with
  | .electrical => !d.laneSpared && !d.badLanes.testBit 8 && !d.cmds.any fun c => c.add && c.phys == 8
  | .optical => !d.wlSpared && !d.badWls.testBit 8 && !d.cmds.any fun c => c.add && c.wl == 8

/-- A logical lane leaves the rotation: a REMOVE of it has nothing left to do. -/
def Dir.drop (d : Dir) (l : Nat) : Dir :=
  { d with lanes := setV d.lanes l 0xF, wls := setV d.wls l 0xF, cmds := d.cmds.filter fun c => c.add || c.lane != l }

/-- A lane command takes effect (R285). -/
def Dir.run (d : Dir) (c : LaneCmd) : Dir :=
  if c.add then
    { d with lanes := setV d.lanes c.lane c.phys, wls := setV d.wls c.lane c.wl, homeLanes := setV d.homeLanes c.lane c.phys,
             homeWls := setV d.homeWls c.lane c.wl, laneSpared := d.laneSpared || c.phys == 8, wlSpared := d.wlSpared || c.wl == 8 }
  else d.drop c.lane

/-- Lanes that the direction can run once every swap that is due has been made: those in the rotation on healthy units, those whose ADD waits, and those that a free spare of each class they lack brings back (R285, R298). -/
def Dir.prospects (d : Dir) (auto : Bool) : Nat :=
  ((List.range 8).foldl (fun (acc : Nat × Bool × Bool) l =>
    let ne := d.isBad .electrical (d.home .electrical l)
    let no := d.isBad .optical (d.home .optical l)
    if (getV d.lanes l != 0xF && !ne && !no) || d.adding l then (acc.1 + 1, acc.2)
    else if (ne || no) && (!ne || acc.2.1) && (!no || acc.2.2) then (acc.1 + 1, acc.2.1 && !ne, acc.2.2 && !no)
    else acc) (0, auto && d.spareFree .electrical, auto && d.spareFree .optical)).1

/-- The width that the direction comes to (R286). -/
def Dir.target (d : Dir) (auto : Bool) (cap : Nat) : Nat := min cap (widthOf (min d.usable (d.prospects auto)))

/-- REMOVE commands take the highest active lanes away until `w` are left; the commands of a direction are sent one after another, each with an effective slot 16 slots after it is due (R285; 16 is the least that the rule allows: DESIGN CHOICE, assumption 50). -/
def narrowCmds (d : Dir) (w slot : Nat) : Dir :=
  let live := d.active.filter fun l => !d.cmds.any fun c => !c.add && c.lane == l
  { d with cmds := d.cmds ++ (live.drop w).map fun l =>
      { add := false, lane := l, phys := getV d.lanes l, wl := getV d.wls l, slot := (slot + 16) % 2 ^ 32 } }

/-- Narrowing is written to the event ring and to the RAS log (R286, R352). -/
def noteNarrow (s : State) (q : Fin 24) (w : Nat) : State :=
  rasLog (portEvent s q evPortNarrow w 0) rasPortNarrowed actNone ((s.port q).owner.map fin16) 0 0

/-- The transmit direction settles on a width, unless a swap is in progress (R286, R298): REMOVE commands narrow it, and a narrowing is noted. -/
def settleTx (s : State) (q : Fin 24) : State :=
  let p := s.port q
  let w := p.tx.target ((portCtl s q).getLsbD 1) (maxWidth (portCtl s q))
  if p.tx.cmds.any (fun c => c.add) then s
  else
    let s1 := s.modPort q fun p => { p with tx := { narrowCmds p.tx w p.slot with width := min w p.tx.width } }
    if w < p.tx.width then noteNarrow s1 q w else s1

/-- The receive direction notes a narrowing that no spare prevents. -/
def settleRx (s : State) (q : Fin 24) : State :=
  let d := (s.port q).rx
  let w := d.target ((portCtl s q).getLsbD 1) (maxWidth (portCtl s q))
  if w < d.width then noteNarrow (s.modPort q fun p => { p with rx := { p.rx with width := w } }) q w else s

end Sys2Proof.Machine
end

