-- ==== Sys2Proof/Machine/CollFields.lean ====
section
/-! DEFINITION. What a collective names (R378), the codec profiles (R301, R320), and contents that become undefined (R133, R162, R225). -/
namespace Sys2Proof.Machine

/-! ### Fields (R378) -/

def kOperator (d : Desc) : Nat := fld d 8 0 3
def kSrcKind (d : Desc) : Bool := fbit d 8 3
def kOutEn (d : Desc) : Bool := fbit d 8 4
def kPlanes (d : Desc) : Nat := fld d 9 0 8
def kCodec (d : Desc) : Nat := fld d 10 0 4
def kEpoch (d : Desc) : Nat := fld d 12 0 32
def kCount (d : Desc) : Nat := fld d 16 0 32
def kSrc (d : Desc) : Nat := fld d 20 0 32
def kDst (d : Desc) : Nat := fld d 24 0 32
def kOut (d : Desc) : Nat := fld d 28 0 12
def kTmo (d : Desc) : Nat := fld d 30 0 16
def kRows (d : Desc) : Nat := fld d 32 0 24
def kStats (d : Desc) : Nat := fld d 35 0 3
def kStatT (d : Desc) : Nat := fld d 36 0 12
def kCkey (d : Desc) : Nat := fld d 38 0 16
def kSum (d : Desc) : Nat := fld d 40 0 32
def kSq (d : Desc) : Nat := fld d 44 0 32

def isColl (op : Nat) : Bool := decide (0x30 ≤ op ∧ op ≤ 0x36)
def isRed (d : Desc) : Bool := decide (0x30 ≤ dOpcode d ∧ dOpcode d ≤ 0x32)
def isBcast (d : Desc) : Bool := dOpcode d == 0x33
def isGather (d : Desc) : Bool := dOpcode d == 0x34
def isBarrier (d : Desc) : Bool := dOpcode d == 0x35
def isStats (d : Desc) : Bool := dOpcode d == 0x36
def isScatter (d : Desc) : Bool := dOpcode d == 0x32

/-- The destination is a handle (R195, R203). -/
def kDstHandle (d : Desc) : Bool := (isRed d && (kOperator d == 0 || kOperator d == 4)) || (isBcast d && kSrcKind d)

/-- Planes named, in ascending order. -/
def kPlaneList (d : Desc) : List Nat := (List.range 8).filter fun p => (kPlanes d).testBit p

/-- SH of R200. -/
def shardLen (t : PlaneTable) (d : Desc) : Nat := kCount d / PlaneTable.size t

/-- Tensors named, with the elements addressed and the byte of the field. -/
def kTensors (p : Part) (d : Desc) : List (Tensor × Nat × Nat) :=
  let t := (planeTable p).getD 0
  let sh := shardLen t d
  (if (isRed d || isBcast d || isGather d) && !kSrcKind d then [(tensorAt p (kSrc d % 4096), if isGather d then sh else kCount d, 20)] else []) ++
  (if (isRed d || isBcast d || isGather d) && !kDstHandle d then [(tensorAt p (kDst d % 4096), kCount d, 24)] else []) ++
  (if isStats d && (kStats d).testBit 0 then [(tensorAt p (kStatT d), kRows d, 36)] else []) ++
  (if kOutEn d then [(tensorAt p (kOut d), if isScatter d then sh else if isStats d then kRows d else kCount d, 28)] else [])

/-- Handle references with the words addressed and the byte of the field. -/
def kRefs (d : Desc) : List (Nat × Nat × Nat) :=
  (if (isRed d || isBcast d) && kSrcKind d then [(kSrc d, kCount d, 20)] else []) ++
  (if kDstHandle d then [(kDst d, kCount d, 24)] else []) ++
  (if isStats d && (kStats d).testBit 1 then [(kSum d, kRows d, 40)] else []) ++
  (if isStats d && (kStats d).testBit 2 then [(kSq d, kRows d, 44)] else [])

def collTag (n : Fin 16) (r : Fin 8) (f : Flight) : Tag := { fn := n.val, ring := r.val, seq := f.seq }

/-! ### Codec profiles -/

/-- LNK_CODEC_n_CTL_p as the open step's generation has it, or as it is in force; profile 0 is PLAIN (R301, R255). -/
def codecCtl (s : State) (n p : Nat) : Word :=
  if p = 0 then 0
  else match (s.part (fin16 n)).inRun with
    | some x => x.codec.getD p 0
    | none => s.force (0x3C000 + 0x80 * n + 8 * p)
/-- LNK_CODEC_n_STREAM_p, likewise. -/
def codecStream (s : State) (n p : Nat) : Nat :=
  if p = 0 then 0
  else match (s.part (fin16 n)).inRun with
    | some x => wbits (x.streams.getD p 0) 15 0
    | none => wbits (s.force (0x3C004 + 0x80 * n + 8 * p)) 15 0
def ctlEn (w : Word) : Bool := w.getLsbD 0
def ctlQfmt (w : Word) : Nat := wbits w 2 1
def ctlQrnd (w : Word) : Bool := w.getLsbD 3
def ctlResid (w : Word) : Bool := w.getLsbD 4
def ctlDown (w : Word) : Bool := w.getLsbD 5
def ctlPack (w : Word) : Bool := w.getLsbD 6
def ctlTensor (w : Word) : Nat := wbits w 19 8
def ctlLossy (w : Word) : Bool := ctlQfmt w != 0
/-! ### Undefined contents -/

/-- The destination of a failed transfer is undefined in its footprint (R133): each byte of it takes an open value. -/
def scramble (s : State) (n : Fin 16) (st : Option Nat) (rs : List (Nat × Nat)) : State :=
  rs.foldl (fun s r => (List.range r.2).foldl (fun s i =>
    let (v, s1) := s.draw
    stepWrite s1 n st (r.1 + i) [BitVec.ofNat 8 v]) s) s

/-- Words whose contents become undefined: each takes an open value. -/
def scrambleWords (s : State) (ws : List Nat) : State :=
  ws.foldl (fun s w =>
    let (a, s2) := s.draw
    let (b, s3) := s2.draw
    putWord s3 w (mkWord (BitVec.ofNat 128 a) (BitVec.ofNat 3 b))) s

/-- What the collective named becomes undefined: destination, readout, the residuals that it has begun to write, and handle words (R225, R319). -/
def spoilColl (s : State) (n : Fin 16) (r : Fin 8) (f : Flight) : State :=
  let p := s.part n
  let d := f.d
  let ctl := codecCtl s n.val (kCodec d)
  let entered := match f.coll with | some c => c.entered | none => false
  let outs := (if (isRed d || isBcast d || isGather d) && !kDstHandle d then (tensorAt p (kDst d % 4096)).ranges else []) ++
    (if isStats d && (kStats d).testBit 0 then (tensorAt p (kStatT d)).ranges else []) ++
    (if kOutEn d then (tensorAt p (kOut d)).ranges else []) ++
    (if entered && ctlLossy ctl && ctlResid ctl then (tensorAt p (ctlTensor ctl)).ranges else [])
  let ws := (kRefs d).flatMap fun x => match handIn f.hands x.1 with
    | some h => (List.range x.2.1).map fun i => h.word (x.1 % 2 ^ 24 + i)
    | none => []
  let s1 := { s with laneq := s.laneq.filter fun o => o.tag != collTag n r f }
  scrambleWords (scramble s1 n f.step outs) ws

end Sys2Proof.Machine
end

