-- ==== Sys2Proof/Machine/Closure.lean ====
section
/-! DEFINITION. Substitution of failed units (R107 to R110, R163, R321) and the closure of a Shutter (R22 to R28, R164, R224, R296, R494). -/
namespace Sys2Proof.Machine

/-! ### Substitution -/

def bsnMap (s : State) (b : Nat) : Word := Sparse.get (BitVec.ofNat 32 b) s.spares.basinMap b
def bankMap (s : State) (b : Nat) : Word := Sparse.get 0 s.spares.bankMap b

def setBsnMap (s : State) (b : Nat) (w : Word) : State :=
  { s with spares := { s.spares with basinMap := Sparse.put (BitVec.ofNat 32 b) s.spares.basinMap b w } }

/-- Spare banks in use (R167). -/
def banksUsed (s : State) (b : Nat) : Nat := wbits (bankMap s b) 1 0

/-- The physical bank that holds a logical bank: spare 64 or 65 where it serves it (R351). -/
def physBank (s : State) (b bank : Nat) : Nat :=
  let w := bankMap s b
  if w.getLsbD 15 && wbits w 14 9 == bank then 65 else if w.getLsbD 8 && wbits w 7 2 == bank then 64 else bank

/-- The physical array that works as array `a` of a basin: the spare that substitutes it last, or itself (R108, R351). -/
def physArray (s : State) (b a : Nat) : Nat :=
  ((s.spares.arrayMap.reverse.find? fun x => x.1 == b && x.2.1 == a).map fun x => x.2.2).getD a

/-- Cistern words of the handles that stay open through a closure: their contents are undefined until REPLAY (R164). -/
def keptWords (s : State) (n : Option (Fin 16)) : List Nat :=
  match n with
  | some m => (s.part m).handles.flatMap fun h => (List.range h.count).map h.word
  | none => []

/-- Put a spare bank in a logical bank's place: CST_BANK_MAP_n names it (R167). The words move with the bank when `copy`; a spare that is not copied holds the zeros of its wipe, and the open values of the words that stay undefined (R164). -/
def substituteBank (s : State) (n : Option (Fin 16)) (b bank : Nat) (copy : Bool) : State :=
  let k := banksUsed s b
  let w := (bankMap s b).toNat - k
  let w1 := if k = 0 then w + 1 + 4 * bank + 256 else w + 2 + 512 * bank + 32768
  let s1 := { s with spares := { s.spares with
    bankMap := Sparse.put 0 s.spares.bankMap b (BitVec.ofNat 32 w1),
    corrected := s.spares.corrected.filter fun x => !(x.1 == b && x.2.1 == bank) } }
  let s2 := if copy then s1 else
    { s1 with cistern := s1.cistern.filter fun e => !(wordBasin e.1 == b && wordBank e.1 == bank) || (keptWords s n).contains e.1 }
  if 2 ≤ k then s
  else rasLog s2 rasBankSpared actSpared n (wordAddr (32768 * b + bank)) (rasUnit b (physBank s b bank) 0 0)

/-- Bring a spare basin in (R109): BSN_MAP_n names its physical basin, whose number is open; a copy keeps SRAM and cistern slice (R321), a SPARING closure brings the wiped spare. DESIGN CHOICE (assumption 44): no array and no row of the spare is spared yet, so ARRAYS_SPARED and ROWS_SPARED read 0. Failures counted for the basin's rows leave with it; the count of uncorrectable SRAM errors belongs to the logical basin and stays (R323). -/
def substituteBasin (s : State) (n : Option (Fin 16)) (b : Nat) (copy : Bool) : State :=
  let (v, s0) := s.draw
  let s1 := setBsnMap s0 b (BitVec.ofNat 32 (v % 136))
  let s2 := { s1 with spares := { s1.spares with
    spareBasins := s1.spares.spareBasins - 1,
    rowMap := s1.spares.rowMap.filter fun x => x.1 != b,
    arrayMap := s1.spares.arrayMap.filter fun x => x.1 != b,
    bankMap := Sparse.put 0 s1.spares.bankMap b 0,
    rowFails := s1.spares.rowFails.filter fun x => x.1 != b } }
  let s3 := if copy then s2 else
    { s2 with
      sram := s2.sram.filter fun e => basinOf e.1 != b,
      badSram := s2.badSram.filter fun a => basinOf a != b,
      cistern := s2.cistern.filter fun e => wordBasin e.1 != b || (keptWords s n).contains e.1 }
  rasLog s3 rasBasinSpared actSpared n 0 (rasUnit b 0 0 0)

/-- Image granule indices of a basin (R340 rebuilds them). -/
def basinGranules (p : Part) (b : Nat) : List Nat :=
  match mirrorTable p with
  | some m => (List.range m.granules.length).filter fun i => (m.granules.getD i 0) / 512 == b
  | none => []

/-- Substitute an array: a spare array of the basin, else the basin (R108, R110). Arrays 16 and 17 are the spares. Failures counted for the array's rows leave with it. DESIGN CHOICE (assumption 44): ROWS_SPARED goes on counting an array that ran its spare row. -/
def substituteArray (s : State) (n : Fin 16) (b a : Nat) : State :=
  let used := wbits (bsnMap s b) 9 8
  if used < 2 then
    let s1 := { s with spares := { s.spares with
      arrayMap := s.spares.arrayMap ++ [(b, a, 16 + used)],
      rowMap := s.spares.rowMap.filter fun x => !(x.1 == b && x.2.1 == a),
      rowFails := s.spares.rowFails.filter fun x => !(x.1 == b && x.2.1 == a) } }
    rasLog (setBsnMap s1 b (BitVec.ofNat 32 ((bsnMap s b).toNat + 256))) rasArraySpared actSpared (some n) 0 (rasUnit b (physArray s b a) 0 0)
  else if s.spares.spareBasins = 0 then s
  else substituteBasin s (some n) b true

/-- The spare row of an array is in use: by a substitution, or because all 18 arrays of the basin run theirs (R114). DESIGN CHOICE (assumption 44): the arrays that the self-test left on their spare row, which ROWS_SPARED counts and nothing names, are not the ones that fail. -/
def rowTaken (s : State) (b a : Nat) : Bool :=
  (s.spares.rowMap.any fun x => x.1 == b && x.2.1 == a) || decide (18 ≤ wbits (bsnMap s b) 14 10)

/-- Spare a row, or its array when the spare row is in use (R108, R322). -/
def substituteRow (s : State) (n : Fin 16) (b a row : Nat) : State :=
  if rowTaken s b a then substituteArray s n b a
  else
    let s1 := { s with spares := { s.spares with rowMap := s.spares.rowMap ++ [(b, a, row)] } }
    rasLog (setBsnMap s1 b (BitVec.ofNat 32 ((bsnMap s b).toNat + 1024))) rasRowSpared actSpared (some n) 0 (rasUnit b (physArray s b a) row 0)

/-- A substitution made by a SPARING closure: nothing is copied, and the basin's persistent granules wait for REPLAY (R321, R340). -/
def closureSubstitute (s : State) (n : Fin 16) (g : GateReq) : State :=
  match g with
  | .spareRow b a row => substituteRow s n b a row
  | .retireBank b bank => substituteBank s (some n) b bank false
  | .spareBasin b =>
    let s1 := substituteBasin s (some n) b false
    s1.modPart n fun p => { p with mirror := { p.mirror with
      damaged := p.mirror.damaged ++ (basinGranules p b).filter fun i => !p.mirror.damaged.contains i } }

/-- A spare serves a request, with those in use that are in use now. -/
def spareNow (s : State) (g : GateReq) : Bool :=
  match g with
  | .spareRow b a _ => !rowTaken s b a || decide (wbits (bsnMap s b) 9 8 < 2) || decide (0 < s.spares.spareBasins)
  | .spareBasin _ => decide (0 < s.spares.spareBasins)
  | .retireBank b _ => decide (banksUsed s b < 2)

/-- The spares as they will be once every substitution that waits, at a gate or in a closure, has been made: a spare that waits for one request serves no other (R494). -/
def reserved (s : State) : State :=
  allParts.foldl (fun s n => ((s.part n).closureSpares ++ (s.part n).reqs).foldl (fun s g => closureSubstitute s n g) s) s

/-- Whether a planned substitution finds a spare. -/
def hasSpare (s : State) (g : GateReq) : Bool := spareNow (reserved s) g

/-- UNIT, address and cause that name the resource of a request (R27, R351). -/
def reqUnit (s : State) (g : GateReq) : Nat × Nat × Nat :=
  match g with
  | .spareRow b a row => (rasUnit b (physArray s b a) row 0, 0, rasResidueProduct)
  | .spareBasin b => (rasUnit b 0 0 0, 0, rasSramUe)
  | .retireBank b k => (rasUnit b (physBank s b k) 0 0, wordAddr (32768 * b + k), rasCisternUe)

/-! ### Collectives at a closure -/

/-- Ports of a collective's planes on a device: parent and present children. -/
def collPorts (t : PlaneTable) (planes : Nat) : List (Nat × Nat) :=
  (t.validPlanes.filter fun p => planes.testBit p).flatMap fun p =>
    ((if t.noParent p then [] else [t.parentPort p]) ++ (t.children p).map (t.childPort p)).map fun q => (p, q)

/-- Header fields of a collective parcel (R215, R274). -/
def collFields (p : Part) (t : PlaneTable) (kind plane step cseq opcode : Nat) : List (Nat × Nat × Nat × Nat) :=
  [(0, 0, 4, 0), (1, 0, 4, kind), (1, 4, 3, plane), (4, 0, 32, t.domain), (8, 0, 32, p.epoch), (12, 0, 32, step),
   (16, 0, 16, t.rank), (18, 0, 16, cseq), (26, 0, 8, opcode)]

/-- Fields that come from the collective's descriptor (R274). -/
def descFields (d : Desc) : List (Nat × Nat × Nat × Nat) :=
  [(23, 0, 4, fld d 10 0 4), (23, 5, 3, fld d 8 0 3), (32, 0, 32, if dOpcode d = 0x36 then fld d 32 0 24 else fld d 16 0 32)]

def cseqOn (c : Coll) (plane : Nat) : Nat := ((c.cseqs.find? fun x => x.1 == plane).map fun x => x.2).getD 0

/-- Send a CONTROL parcel of an open collective on a port: 2 ABORT, 3 TIMEOUT (R215). -/
def sendControl (s : State) (n : Fin 16) (f : Flight) (c : Coll) (kind plane port : Nat) : State :=
  let p := s.part n
  match planeTable p with
  | none => s
  | some t =>
    sendParcel s (fin24 port) n (f.step.getD noStep) 3
      (collFields p t kind plane (f.step.getD noStep) (cseqOn c plane) (dOpcode f.d) ++ descFields f.d) []

/-- Send ABORT or TIMEOUT for an open collective on every edge of its planes but `skip`, a TIMEOUT once on each (R222, R224). -/
def sendAborts (s : State) (n : Fin 16) (f : Flight) (skip : Option Nat) (kind : Nat) : State :=
  match planeTable (s.part n), f.coll with
  | some t, some c =>
    ((collPorts t (fld f.d 9 0 8)).filter fun e => some e.2 != skip && !(kind == 3 && c.timeoutEdges.contains e.2)).foldl
      (fun s e => sendControl s n f c kind e.1 e.2) s
  | _, _ => s

/-- The record of the collective's planes when it ends (R216, R493). -/
def closePlanes (s : State) (n : Fin 16) (f : Flight) (c : Coll) : State :=
  c.cseqs.foldl (fun s x => s.modPart n fun p => { p with planes := modV p.planes x.1 fun q =>
    { q with lastDone := some (f.step.getD noStep, x.2) } }) s

/-! ### Closing -/

/-- Every cistern word of a handle. -/
def Handle.words (h : Handle) : List Nat := (List.range h.count).map h.word

/-- Lane operations of a partition stop; the words they target are undefined (R162). -/
def dropLaneOps (s : State) (n : Fin 16) : State :=
  let mine := s.laneq.filter fun o => o.tag.fn == n.val
  scrambleWords { s with laneq := s.laneq.filter fun o => o.tag.fn != n.val } (mine.map fun o => o.word)

/-- Retire every flight of a ring ABORTED, with completions (R27); work that had already ended keeps its status. -/
def abortFlights (s : State) (n : Fin 16) (r : Fin 8) : State :=
  let fs := (s.ring n r).flights
  let s1 := holdPlace s n r
  let s2 := s1.modRing n r fun x => { x with flights := [], retired := (x.retired + fs.length) % 2 ^ 64 }
  fs.foldl (fun s f =>
    complete s n r f.seq (if f.phase == .done then f.status else stAborted) (dOpcode f.d) f.step (if f.phase == .done then f.detail else 0) (dIrq f.d)) s2

/-- The mailbox command that waits for an on-demand snapshot of partition n ends. -/
def endSnapRequest (s : State) (n : Fin 16) (ok : Bool) : State :=
  if s.mbx.st == .busy && wbits s.mbx.cmd 7 0 == 0x12 && wbits s.mbx.cmd 11 8 == n.val then
    { s with mbx := { s.mbx with st := if ok then .done else .error, result := if ok then 0 else 6 } }
  else s

/-- The mirror becomes DETACHED (R338): the event ring and the RAS log say so (R351). -/
def detach (s : State) (n : Fin 16) : State :=
  let s1 := s.modPart n fun p => { p with mirror := { p.mirror with st := .detached, awaiting := [] } }
  rasLog (event s1 n evMirrorDetached 0xF (stepNow (s.part n)) []) rasMirrorDetached actNone (some n) 0 0

/-- A running MIRROR_SYNC or SHARD_RESTORE stops with its partition (R350): the one leaves the mirror DETACHED, the other may be issued again. -/
def stopJob (s : State) (n : Fin 16) : State :=
  let p := s.part n
  if p.mirror.job.isNone then s
  else
    let s1 := s.modPart n fun p => { p with mirror := { p.mirror with job := none, st := p.mirror.stBefore } }
    if p.mirror.st == .restoring then s1 else detach s1 n

/-- The part of a closure that every reason shares (steps 1 to 3 of R26): ABORT goes out for open collectives and what collectives name becomes undefined (R225, R319), work stops, handles without CARRY close, and requests at the gate are discarded. -/
def stopWork (s : State) (n : Fin 16) : State :=
  let s0 := (flightsWhere s n fun f => f.coll.isSome && f.phase == .running).foldl (fun s x =>
    let s0 := sendAborts s n x.2 none 2
    match x.2.coll with | some c => closePlanes s0 n x.2 c | none => s0) s
  let s1 := (flightsWhere s0 n fun f => isColl (dOpcode f.d) && f.phase != .done).foldl (fun s x => spoilColl s n x.1 x.2) s0
  let s2 := dropLaneOps s1 n
  let s2' := if (s.part n).snapPending then endSnapRequest s2 n false else s2
  let s3 := { s2' with drains := s2'.drains.filter fun e => e.2.tag.fn != n.val }
  s3.modPart n fun p => { p with
    handles := (p.handles.filter fun h => h.carry).map fun h => { h with closing := false },
    tiles := [], reqs := [], snapPending := false }

/-- Take the partition's JOINED sluices to TRAINED through LEAVE (R296). -/
def leaveSluices (s : State) (n : Fin 16) : State :=
  allPorts.foldl (fun s q =>
    let p := s.port q
    if p.owner == some n.val && (p.st == .joined || p.st == .leaving) then leavePort s q true else s) s

/-- What a function reset adds to a closure: no completion is written, every flight is lost, sluices leave, every handle closes. -/
def resetWork (s : State) (n : Fin 16) : State :=
  let s1 := leaveSluices s n
  let s2 := s1.modFn n fun f => { f with rings := f.rings.map fun x => { x with flights := [], owed := [] } }
  s2.modPart n fun p => { p with
    handles := [], openStep := none, steps := [], recovery := false, mirror := { p.mirror with job := none } }

/-- What FAULT_FENCE and SPARING add: in-flight descriptors and unsealed steps complete ABORTED (R27, R28), and the carried handles stay open with undefined contents (R164). -/
def fenceWork (s : State) (n : Fin 16) : State :=
  let s0 := abortSteps (allRings.foldl (fun s r => abortFlights s n r) (stopJob s n)) n fun _ => true
  let s1 := scrambleWords s0 ((s0.part n).handles.flatMap fun h => h.words)
  s1.modPart n fun p => { p with
    openStep := none, recovery := p.recovery || p.steps.any fun r => r.fate == .aborted }

/-- The event entry of R27. -/
def fenceEvent (s : State) (n : Fin 16) (unit addr cause : Nat) : State :=
  event s n evFenceFault 0xF (stepNow (s.part n)) [(12, 0, 32, unit), (16, 0, 48, addr), (22, 0, 8, cause)]

/-- A closure request (R494): it starts a closure, joins or converts the one under way, or is only logged. -/
def requestClosure (s : State) (n : Fin 16) (why : Reason) (sub : Option GateReq) (unit addr cause : Nat) : State :=
  let p := s.part n
  let join := fun (s : State) => s.modPart n fun p => { p with closureSpares := p.closureSpares ++ sub.toList }
  match p.shutter, p.reason, why with
  | .open_, _, .functionReset =>
    let s1 := (stopWork s n).modPart n fun p => { p with shutter := .closing, reason := .functionReset }
    resetWork s1 n
  | .open_, _, .faultFence =>
    let s1 := fenceEvent (fenceWork (stopWork s n) n) n unit addr cause
    s1.modPart n fun p => { p with shutter := .closing, reason := .faultFence }
  | .open_, _, .sparing =>
    join ((fenceWork (stopWork s n) n).modPart n fun p => { p with shutter := .closing, reason := .sparing })
  | _, .functionReset, .functionReset => s
  | _, .functionReset, .faultFence => s.modPart n fun p => { p with fenceAfter := true }
  | _, .functionReset, .sparing => join s
  | st, _, .functionReset =>
    let s1 := s.modPart n fun p => { p with reason := .functionReset, shutter := if st == .closing then .closing else .wiping }
    resetWork s1 n
  | st, .faultFence, .sparing =>
    if st == .closed then match sub with | some g => closureSubstitute s n g | none => s else join s
  | _, .faultFence, .faultFence => s
  | st, .sparing, .faultFence =>
    let s1 := fenceEvent s n unit addr cause
    s1.modPart n fun p => { p with reason := .faultFence, shutter := if st == .closing then .closing else .closed }
  | _, .sparing, .sparing => join s
  | _, _, _ => s

/-- No spare is left for a unit (R27, R110, R163): the partition is fenced, with an event that names the unit; without a basin to put in its place the number of enabled basins falls. DESIGN CHOICE (assumption 45): no entry of BSN_MAP changes; a plan may no longer name the highest logical basin. -/
def fenceUnit (s : State) (n : Fin 16) (g : GateReq) (unit addr cause : Nat) : State :=
  match g with
  | .retireBank _ _ => requestClosure s n .faultFence none unit addr cause
  | _ =>
    let s1 := rasLog { s with spares := { s.spares with enabled := s.spares.enabled - 1 } } rasBasinLost actFenced (some n) 0 unit
    requestClosure s1 n .faultFence none unit addr cause

/-- A fault of a unit of partition n: SPARING where a spare exists, FAULT_FENCE otherwise (R27, R28). -/
def faultClosure (s : State) (n : Fin 16) (g : GateReq) (unit addr cause : Nat) : State :=
  if hasSpare s g then requestClosure s n .sparing (some g) unit addr cause else fenceUnit s n g unit addr cause

/-- A function reset of partition n (R26, R390); the wipe covers its basins unless CFG_PART_n moves them (R361). -/
def functionReset (s : State) (n : Fin 16) : State :=
  let s1 := if (s.part n).reason == .functionReset && (s.part n).shutter != .open_ then s
    else s.modPart n fun p => { p with wipeRange := [partRange s n.val] }
  requestClosure s1 n .functionReset none 0 0 0

end Sys2Proof.Machine
end

