-- ==== Sys2Proof/Machine/Faults.lean ====
section
/-! DEFINITION. Faults of the data plane: uncorrectable SRAM reads (R323), product residues (R322, R325) and cistern faults (R163). -/
namespace Sys2Proof.Machine

/-- The value that an uncorrectable read delivers is poisoned: the word's contents are open (R323). -/
def poison (s : State) (a : Nat) : State :=
  let w := a / 8 * 8
  let (v, s1) := s.draw
  let s2 := memWrite s1 w (toLE 8 v)
  { s2 with badSram := w :: s2.badSram.filter fun x => x != w }

/-- Image granule indices that hold an SRAM address. -/
def addrGranules (p : Part) (a : Nat) : List Nat :=
  match mirrorTable p with
  | some m => (List.range m.granules.length).filter fun i => m.granules.getD i 0 == a / 8192
  | none => []

/-- An uncorrectable error on a basin SRAM read of partition n in step `st`, the word being poisoned already (R323). -/
def sramFault (s : State) (n : Fin 16) (st : Option Nat) (a : Nat) : State :=
  let b := basinOf a
  let s1 := rasLog (s.count n 1 1) rasSramUe actFailed (some n) a (rasUnit b 0 0 0)
  let s2 := s1.modPart n fun p => { p with mirror := { p.mirror with
    damaged := p.mirror.damaged ++ (addrGranules p a).filter fun i => !p.mirror.damaged.contains i } }
  let k := Sparse.get 0 s2.spares.sramUe b + 1
  let s3 := failStepOf { s2 with spares := { s2.spares with sramUe := Sparse.put 0 s2.spares.sramUe b k } } n st 0
  if 2 ≤ k then faultClosure s3 n (.spareBasin b) (rasUnit b 0 0 0) a rasSramUe else s3

/-- The known uncorrectable words among ranges of addresses. -/
def badIn (s : State) (rs : List (Nat × Nat)) : Option Nat :=
  s.badSram.find? fun a => rs.any fun r => overlap a 8 r.1 r.2

/-- The fault that shows itself while operand ranges are read: an uncorrectable word among them is poisoned, a corrected one is counted (R31, R323, R457); and the uncorrectable word that the reads meet, if any. -/
def readFault (s : State) (n : Fin 16) (fault : UnitFault) (rs : List (Nat × Nat)) : State × Option Nat :=
  let hit := fun a => rs.any fun x => overlap (a / 8 * 8) 8 x.1 x.2
  let s0 := match fault with
    | .sramUe a => if hit a then poison s a else s
    | .sramCe a => if hit a then s.count n 0 1 else s
    | _ => s
  (s0, badIn s0 rs)

/-- The step that read an uncorrectable word fails (R323). -/
def afterRead (s : State) (n : Fin 16) (st : Option Nat) : Option Nat → State
  | some a => sramFault s n st a
  | none => s

/-- A product residue failure in step `st`, attributed to a physical row (R322, R325): the step fails; the original and a replay of one step, or three failures, queue a row spare for the gate. -/
def residueFault (s : State) (n : Fin 16) (st : Option Nat) (b a row col : Nat) : State :=
  let k := st.getD noStep
  let run := match findStep (s.part n) k with | some r => r.runs | none => 0
  let hits := s.spares.rowFails.filter fun x => x.1 == b && x.2.1 == a && x.2.2.1 == row
  let again := hits.any fun x => x.2.2.2.1 == n.val && x.2.2.2.2.1 == k && x.2.2.2.2.2 != run
  let queue := again || decide (2 ≤ hits.length)
  let s1 := rasLog (s.count n 6 1) rasResidueProduct (if queue then actQueued else actFailed) (some n) 0 (rasUnit b (physArray s b a) row col)
  let s2 := { s1 with spares := { s1.spares with rowFails := (b, a, row, n.val, k, run) :: s1.spares.rowFails } }
  let s3 := failStepOf s2 n st 1
  let g := GateReq.spareRow b a row
  if !queue then s3
  else if hasSpare s3 g then
    s3.modPart n fun p => { p with reqs := if p.reqs.contains g then p.reqs else p.reqs ++ [g] }
  else faultClosure s3 n g (rasUnit b (physArray s b a) row col) 0 rasResidueProduct

/-- Steps of a partition, not sealed yet, that have touched a cistern word. -/
def touching (p : Part) (w : Nat) : List Nat := (p.steps.filter fun r => r.fate == .open_ && r.touched.contains w).map fun r => r.n

/-- An uncorrectable cistern error: the word stays as it is, its ECC wrong; the bank is substituted by a SPARING closure, and every step that touched the word fails its check, or without a spare the partition is fenced (R163). -/
def cisternUe (s : State) (n : Fin 16) (w : Nat) : State :=
  let u := rasUnit (wordBasin w) (physBank s (wordBasin w) (wordBank w)) 0 0
  let g := GateReq.retireBank (wordBasin w) (wordBank w)
  let spare := hasSpare s g
  let (v, s0) := s.draw
  let s1 := putWord s0 w { getWord s0 w with ecc := BitVec.ofNat 9 (v % 511 + 1) }
  let s2 := rasLog (s1.count n 3 1) rasCisternUe (if spare then actSpared else actFenced) (some n) (wordAddr w) u
  let s3 := if spare then (touching (s2.part n) w).foldl (fun s k => failStep s n k 1) s2 else s2
  faultClosure s3 n g u (wordAddr w) rasCisternUe

/-- A residue failure of a cistern add: it is logged, and the step that issued the add fails its check (R163). -/
def cisternResidue (s : State) (n : Fin 16) (st : Option Nat) (w : Nat) : State :=
  let u := rasUnit (wordBasin w) (physBank s (wordBasin w) (wordBank w)) 0 0
  failStepOf (rasLog (s.count n 6 1) rasResidueCistern actFailed (some n) (wordAddr w) u) n st 1

/-- A corrected error of a bank: it is counted, and THRESH of them between two gates queue the bank's retirement (R163). -/
def cisternCorrected (s : State) (n : Fin 16) (w : Nat) : State :=
  let b := wordBasin w
  let bank := wordBank w
  let k := ((s.spares.corrected.find? fun x => x.1 == b && x.2.1 == bank).map fun x => x.2.2).getD 0 + 1
  let s1 := (s.count n 2 1)
  let s2 := { s1 with spares := { s1.spares with
    corrected := (b, bank, k) :: s1.spares.corrected.filter fun x => !(x.1 == b && x.2.1 == bank) } }
  let g := GateReq.retireBank b bank
  if wbits (s2.part n).cstRetire 15 0 ≤ k && hasSpare s2 g && !(s2.part n).reqs.contains g then
    s2.modPart n fun p => { p with reqs := p.reqs ++ [g] }
  else s2

end Sys2Proof.Machine
end

