-- ==== Sys2Proof/Machine/Gemm.lean ====
section
/-! DEFINITION. GEMM, GEMM_PACKED, CONV and CASCADE_GEMM descriptors: their fields (R88, R99, R125, R174), the checks of R492 and R179, the sump tiles of R96, and the units of R89 and R99. -/
namespace Sys2Proof.Machine

/-! ### Fields (R375, R376) -/

def gA (d : Desc) : Nat := fld d 8 0 12
def gB (d : Desc) : Nat := fld d 10 0 12
def gM (d : Desc) : Nat := fld d 12 0 24
def gPacked (d : Desc) : Bool := dOpcode d == 0x11
def gConv (d : Desc) : Bool := dOpcode d == 0x12
def gCascade (d : Desc) : Bool := dOpcode d == 0x13
def gN (d : Desc) : Nat := if gPacked d then fld d 15 0 8 else fld d 15 0 24
def gP (d : Desc) : Nat := if gPacked d then fld d 16 0 16 else 1
def gSlices (d : Desc) : Nat := fld d 18 0 4
def gPhase (d : Desc) : Bool := fbit d 18 4
def gKTotal (d : Desc) : Nat := fld d 20 0 32
def gKStart (d : Desc) : Nat := fld d 24 0 32
def gKLen (d : Desc) : Nat := fld d 28 0 32
def gFirst (d : Desc) : Nat := fld d 32 0 7
def gCount (d : Desc) : Nat := fld d 33 0 8
def gMTile (d : Desc) : Nat := fld d 34 0 8
def gSumpRow (d : Desc) : Nat := fld d 35 0 7
def gSump (d : Desc) : Bool := fbit d 35 7
def gHold (d : Desc) : Bool := !gCascade d && fbit d 36 0
def gAcc (d : Desc) : Bool := !gCascade d && fbit d 36 1
def gReset (d : Desc) : Bool := !gCascade d && fbit d 36 2
def gPx (d : Desc) : Nat := fld d 36 3 2
def gDirect (d : Desc) : Bool := fld d 36 5 2 == 1
def gNtrap (d : Desc) : Bool := fbit d 36 7
def gOutFmt (d : Desc) : Nat := fld d 37 0 4
def gRnd (d : Desc) : Nat := fld d 37 4 2
def gStream (d : Desc) : Nat := fld d 38 0 16
def gDst (d : Desc) : Nat := fld d 40 0 32
def gStats (d : Desc) : Nat := if gConv d then 0 else fld d 45 4 3
def gStatsInit (d : Desc) : Bool := fbit d 45 7
def gStatTensor (d : Desc) : Nat := fld d 44 0 12
def gStatSum (d : Desc) : Nat := fld d 48 0 32
def gStatSq (d : Desc) : Nat := fld d 52 0 32
/-- Height of the sump tile (R93). -/
def gHeight (d : Desc) : Nat := if gSump d then gMTile d else 32

/-- One dimension of a CONV's addressing (R125): output extent, window, stride, dilation, origin, edge mode, input extent. -/
structure ConvDim where
  out : Nat
  win : Nat
  str : Nat
  dil : Nat
  org : Int
  edge : Nat
  ext : Nat
  deriving DecidableEq, Repr

def convDim (d : Desc) (x : Tensor) : Nat → ConvDim
  | 0 => ⟨fld d 44 0 16, fld d 50 0 4 + 1, fld d 52 0 3 + 1, fld d 53 3 3 + 1, signed 8 (fld d 55 0 8), fld d 58 0 2, x.ext 1⟩
  | 1 => ⟨fld d 46 0 16, fld d 50 4 4 + 1, fld d 52 3 3 + 1, fld d 54 0 3 + 1, signed 8 (fld d 56 0 8), fld d 58 2 2, x.ext 2⟩
  | _ => ⟨fld d 48 0 16, fld d 51 0 4 + 1, fld d 53 0 3 + 1, fld d 54 3 3 + 1, signed 8 (fld d 57 0 8), fld d 58 4 2, x.ext 3⟩

def convTable (d : Desc) : Nat := fld d 51 4 4

/-- The taps of tap table t (R128): empty where absent. -/
def tapsOf (p : Part) (t : Nat) : List (Int × Int × Int) :=
  match p.plan with
  | none => []
  | some pl =>
    let rec' := pl.taps.getD (t - 1) []
    (List.range (ofLE (rec'.take 1))).map fun i =>
      let w := ofLE ((rec'.drop (2 + 2 * i)).take 2)
      (signed 4 (w % 16), signed 4 (w / 16 % 16), signed 4 (w / 256 % 16))

/-- Number of taps of a CONV's window (R126). -/
def convTaps (p : Part) (d : Desc) (x : Tensor) : Nat :=
  if convTable d = 0 then (convDim d x 0).win * (convDim d x 1).win * (convDim d x 2).win else (tapsOf p (convTable d)).length

/-- The offset of tap `t` along dimension `i` (R126). -/
def convOffset (p : Part) (d : Desc) (x : Tensor) (t i : Nat) : Int :=
  let w := convDim d x 0
  let h := convDim d x 1
  if convTable d = 0 then
    let k := if i = 0 then t % w.win else if i = 1 then t / w.win % h.win else t / (w.win * h.win)
    (k * (convDim d x i).dil : Nat)
  else
    let o := (tapsOf p (convTable d)).getD t (0, 0, 0)
    if i = 0 then o.1 else if i = 1 then o.2.1 else o.2.2

/-- The input element of output row m and reduction index k; none = padding (R126, R127). -/
def convIndex (p : Part) (d : Desc) (x : Tensor) (m k : Nat) : Option Idx :=
  let t := k / x.ext 0
  let w := convDim d x 0
  let h := convDim d x 1
  let z := convDim d x 2
  let coord := fun (i o : Nat) => ((o * (convDim d x i).str : Nat) : Int) + (convDim d x i).org + convOffset p d x t i
  let cw := coord 0 (m % w.out)
  let ch := coord 1 (m / w.out % h.out)
  let cz := coord 2 (m / (w.out * h.out) % z.out)
  let pad := fun (c : ConvDim) (v : Int) => c.edge == 1 && (decide (v < 0) || decide ((c.ext : Int) ≤ v))
  let fix := fun (c : ConvDim) (v : Int) => if c.edge = 2 then (v % (c.ext : Int)).toNat else v.toNat
  if pad w cw || pad h ch || pad z cz then none
  else some ⟨k % x.ext 0, fix w cw, fix h ch, fix z cz, m / (w.out * h.out * z.out)⟩

/-- A NONE dimension stays in range at its extreme output points and offsets (R127). -/
def convInRange (p : Part) (d : Desc) (x : Tensor) (i : Nat) : Bool :=
  let c := convDim d x i
  let offs := (List.range (convTaps p d x)).map fun t => convOffset p d x t i
  c.edge != 0 || offs.all fun o =>
    decide (0 ≤ c.org + o) && decide (((c.out - 1) * c.str : Nat) + c.org + o < (c.ext : Int))

/-! ### Settings in force -/

def chunkOf (p : Part) : Nat := 256 * 2 ^ wbits p.arrayModeNow 2 0
def groupOf (p : Part) : Nat := 4 * 2 ^ wbits p.arrayModeNow 5 4
/-- CFG_NUMERICS.SUBN. -/
def subnOf (p : Part) : Bool := p.numericsNow.getLsbD 0

/-! ### Units (R89, R99, R178) -/

def gMTiles (d : Desc) : Nat := ceilDiv (gM d) (gMTile d)
def gSupers (d : Desc) : Nat := ceilDiv (gN d) 1024
def gChunk0 (p : Part) (d : Desc) : Nat := gKStart d / chunkOf p
def gChunks (p : Part) (d : Desc) : Nat := ceilDiv (gKStart d + gKLen d) (chunkOf p) - gChunk0 p d

/-- Slice pairs of a MULTIPLY unit in order (R178): ascending i + j, then i. -/
def slicePairs (s : Nat) : List (Nat × Nat) :=
  (List.range s).flatMap fun t => (List.range (t + 1)).map fun i => (i + 1, t - i + 1)

/-- Units of a descriptor: (mt, nt, j), or (p, mt, j) for GEMM_PACKED. -/
def gUnits (p : Part) (d : Desc) : Nat :=
  if gPacked d then gP d * gMTiles d * gChunks p d else gMTiles d * gSupers d * gChunks p d

/-- What a basin begins one after another: units, rounds of 64 quarter units (R99), or slice pairs of a unit (R178). -/
def gBlocks (p : Part) (d : Desc) : Nat := if gPacked d then ceilDiv (gUnits p d) 64 else gUnits p d
def gSub (d : Desc) : Nat := if gCascade d then (slicePairs (gSlices d)).length else 1

/-- How many of the blocks fall to basin b: block u goes to BASIN_FIRST + (u mod BASIN_COUNT). -/
def blocksOn (p : Part) (d : Desc) (b : Nat) : Nat :=
  let i := b - gFirst d
  if gFirst d ≤ b ∧ i < gCount d ∧ i < gBlocks p d then (gBlocks p d - 1 - i) / gCount d + 1 else 0

/-- A tile of work: first row, rows, first column, columns, first and end K position, chunk index, problem. -/
structure AUnit where
  m0 : Nat
  rows : Nat
  n0 : Nat
  cols : Nat
  k0 : Nat
  k1 : Nat
  j : Nat
  prob : Nat
  deriving DecidableEq, Repr

/-- Unit u of a descriptor. -/
def unitAt (p : Part) (d : Desc) (u : Nat) : AUnit :=
  let nc := gChunks p d
  let j := gChunk0 p d + u % nc
  let c := chunkOf p
  let hi := u / nc
  let mt := if gPacked d then hi % gMTiles d else hi / gSupers d
  let n0 := if gPacked d then 0 else hi % gSupers d * 1024
  { m0 := mt * gMTile d, rows := min (gMTile d) (gM d - mt * gMTile d), n0 := n0, cols := min 1024 (gN d - n0),
    k0 := max (gKStart d) (j * c), k1 := min (gKStart d + gKLen d) ((j + 1) * c), j := j,
    prob := if gPacked d then hi / gMTiles d else 0 }

/-- Units that run side by side in block u: the unit itself, or the units of the round with their quarter slots. -/
def blockUnits (p : Part) (d : Desc) (u : Nat) : List (Nat × AUnit) :=
  if gPacked d then (List.range (min 64 (gUnits p d - 64 * u))).map fun q => (q, unitAt p d (64 * u + q))
  else [(0, unitAt p d u)]

/-- Passes of a unit over its chunk (R90, R171). -/
def unitPasses (d : Desc) (fa : Fmt) (x : AUnit) : Nat :=
  ceilDiv (x.k1 - x.k0) (ktOf fa) * (if gCascade d then 1 else (pxPasses (gPx d)).length)

/-- Beats of a block (R90, R99). -/
def blockBeats (p : Part) (d : Desc) (fa : Fmt) (u : Nat) : Nat :=
  (blockUnits p d u).foldl (fun a x => max a (unitPasses d fa x.2 * max x.2.rows 32)) 0

/-- Array rows that a block drains, in the order of R94. -/
def drainRows (p : Part) (d : Desc) (u : Nat) : List (Nat × Nat) :=
  let us := blockUnits p d u
  if gPacked d then
    (List.range (ceilDiv us.length 4)).flatMap fun a =>
      (List.range (((us.drop (4 * a)).take 4).foldl (fun m x => max m x.2.rows) 0)).map fun i => (a, i)
  else
    us.flatMap fun x => (List.range (ceilDiv x.2.cols 64)).flatMap fun a => (List.range x.2.rows).map fun i => (a, i)

/-! ### Checks -/

/-- The first failing condition of a list. -/
def firstFail (l : List (Bool × Nat × Nat)) : Option (Nat × Nat) := (l.find? fun c => c.1).map fun c => c.2

def orElse (a b : Option (Nat × Nat)) : Option (Nat × Nat) := match a with | some x => some x | none => b

def basinRange (d : Desc) : List Nat := (List.range (gCount d)).map (· + gFirst d)

/-- The tensor has a copy in every basin of the descriptor's range (R119). -/
def copiesInRange (t : Tensor) (d : Desc) : Bool := (basinRange d).all fun b => (t.copyIn b).isSome

/-- Every logical basin that a tensor's ranges touch. -/
def tensorBasins (t : Tensor) : List Nat :=
  t.ranges.flatMap fun x => (List.range (basinOf (x.1 + x.2 - 1) + 1 - basinOf x.1)).map (· + basinOf x.1)

/-- Extent of B along K and along N (R121). -/
def bExtK (t : Tensor) : Nat := if t.kdim = 1 then t.ext 1 else t.ext 0
def bExtN (t : Tensor) : Nat := if t.kdim = 1 then t.ext 0 else t.ext 1

def bLayoutOk (t : Tensor) : Bool :=
  t.kdim == 0 || (t.kdim == 1 && [Fmt.fp16, .bf16, .fp32, .int8].contains t.fmt)

/-- STRIDE1 a multiple of 32 bytes; a tensor of rank 1 does not use it (R117). -/
def strideOk (t : Tensor) : Bool := t.rank == 1 || t.stride 1 % 32 == 0

/-- R121 for A and B as matrices, and for a DIRECT output. -/
def checkTensors (d : Desc) (a b : Tensor) (out : Option Tensor) : Option (Nat × Nat) :=
  let oOk := match out with | some o => o.inSram && o.copies == 1 | none => true
  let oM := match out with | some o => decide (gM d ≤ o.ext 1) | none => true
  let oN := match out with | some o => decide (gN d ≤ o.ext 0) | none => true
  firstFail
    [(!a.inSram, stBadField, 8), (!b.inSram, stBadField, 10), (!oOk, stBadField, 40),
     (a.kdim != 0, stBadField, 8), (!bLayoutOk b, stBadField, 10),
     (!gConv d && decide (a.ext 0 < gKTotal d), stBadField, 0xFF), (decide (bExtK b < gKTotal d), stBadField, 0xFF),
     (!gConv d && decide (a.ext 1 < gM d), stBadField, 0xFF), (!oM, stBadField, 0xFF),
     (decide (bExtN b < gN d), stBadField, 0xFF), (!oN, stBadField, 0xFF),
     (!gConv d && !copiesInRange a d, stBadField, 0xFF), (!copiesInRange b d, stBadField, 0xFF),
     (!gConv d && !strideOk a, stMisaligned, 8), (!strideOk b, stMisaligned, 10)]

/-- R88, R93 row 1, R122, R125, R127, R128: field ranges and codes. -/
def checkFields (p : Part) (d : Desc) (x : Tensor) : Option (Nat × Nat) :=
  orElse (firstFail
    [(gM d == 0, stBadField, 12), (gN d == 0 || (gPacked d && decide (16 < gN d)), stBadField, 15), (gP d == 0, stBadField, 16),
     (gCount d == 0 || decide (128 < gCount d), stBadField, 33), (decide (128 < gFirst d + gCount d), stBadField, 0xFF),
     (gMTile d == 0 || decide (128 < gMTile d), stBadField, 34), (decide (127 < gSumpRow d + gHeight d - 1), stBadField, 0xFF),
     (decide (2 ≤ fld d 36 5 2), stBadField, 36), (decide (13 < gOutFmt d) || decide (2 ≤ gRnd d), stBadField, 37)])
    (if gConv d then firstFail
      [((convDim d x 0).out == 0, stBadField, 44), ((convDim d x 1).out == 0, stBadField, 46), ((convDim d x 2).out == 0, stBadField, 48),
       ([0, 1, 2].any fun i => (convDim d x i).edge == 3, stBadField, 58),
       (convTable d != 0 && (tapsOf p (convTable d)).isEmpty, stBadField, 51)]
     else none)

/-- R85: the K range. -/
def checkK (p : Part) (d : Desc) : Option (Nat × Nat) :=
  let c := chunkOf p
  let e := gKStart d + gKLen d
  firstFail
    [(gKLen d == 0, stBadField, 28), (decide (gKTotal d < e), stBadField, 0xFF),
     (!gAcc d && gKStart d % c != 0, stMisaligned, 24), (!gHold d && e % c != 0 && e != gKTotal d, stMisaligned, 0xFF),
     (gHold d && (e % 64 != 0 || e / c != gKStart d / c), stMisaligned, 0xFF)]

/-- R41. -/
def pairOk (fa fb : Fmt) : Bool :=
  match fa, fb with
  | .bf16, .bf16 => true | .fp16, .fp16 => true | .fp32, .fp32 => true | .fp32, .bf16 => true | .int8, .int8 => true
  | .bp8, .bp8 => true | .bp8, .bp6 => true | .bp6, .bp8 => true | .bp6, .bp6 => true | .bp4, .bp4 => true
  | _, _ => false

/-- R168. -/
def pxOk (px : Nat) (fa fb : Fmt) : Bool :=
  if px = 0 then fa != .fp32 else if px = 1 then fa == .fp32
  else if px = 2 then fa == .fp32 && fb == .bf16 else fa == .fp32 && fb == .fp32

/-- R41, R168 and the format rules of R92. -/
def checkFormats (d : Desc) (a b : Tensor) (out : Option Tensor) : Option (Nat × Nat) :=
  let resv := fun (t : Tensor) => decide (13 < t.fmtCode)
  let of' := Fmt.ofCode (gOutFmt d)
  firstFail
    [(resv a, stBadField, 8), (resv b, stBadField, 10), (!pairOk a.fmt b.fmt, stFormatMismatch, 0xFF),
     (!pxOk (gPx d) a.fmt b.fmt, stFormatMismatch, 0xFF),
     (match out with | some o => gOutFmt d != o.fmtCode | none => false, stFormatMismatch, 0xFF),
     (out.isSome && !([some Fmt.fp32, some .bf16, some .fp16, some .bp8, some .bp6, some .bp4].contains of'), stFormatMismatch, 37),
     (out.isSome && a.fmt == .int8 && !([some Fmt.fp32, some .bf16, some .fp16].contains of'), stFormatMismatch, 0xFF)]

/-- The path rules (R92, R93, R96, R100, R102, R171). -/
def checkPaths (p : Part) (d : Desc) : Option (Nat × Nat) :=
  firstFail
    [(gDirect d && decide (chunkOf p < gKTotal d), stBadField, 0xFF), (!gSump d && decide (32 < gMTile d), stBadField, 0xFF),
     ((gHold d || gAcc d) && !gSump d, stBadField, 0xFF), ((gHold d || gAcc d) && decide (gCount d < gUnits p d), stBadField, 0xFF),
     (gPacked d && gSump d, stBadField, 35), (gPacked d && fld d 36 0 3 != 0, stBadField, 36),
     (gStats d != 0 && (gPacked d || !gDirect d), stBadField, 45),
     (decide (2 ≤ gPx d) && (gHold d || gAcc d), stBadField, 36)]

/-- R245: a DIRECT output under stochastic rounding draws no word for an element index of 2^48 or above. -/
def checkDraws (d : Desc) (out : Option Tensor) : Option (Nat × Nat) :=
  match out with
  | none => none
  | some o => firstFail [(gRnd d == 1 && decide (2 ^ 48 ≤ o.lin ⟨gN d - 1, gM d - 1, gP d - 1, 0, 0⟩), stBadField, 0xFF)]

/-- R129. -/
def checkConv (p : Part) (d : Desc) (x : Tensor) : Option (Nat × Nat) :=
  if gConv d then firstFail
    [(gM d != (convDim d x 0).out * (convDim d x 1).out * (convDim d x 2).out * x.ext 4, stBadField, 0xFF),
     (gKTotal d != x.ext 0 * convTaps p d x, stBadField, 0xFF), (x.fmt.isBopoyr && x.ext 0 % 16 != 0, stBadField, 8),
     (!(x.inSram && copiesInRange x d), stBadField, 0xFF),
     (!([0, 1, 2].all fun i => convInRange p d x i), stBadField, 0xFF)]
  else none

/-- STAT_TENSOR under R102. -/
def checkStat (p : Part) (d : Desc) : Option (Nat × Nat) :=
  let t := tensorAt p (gStatTensor d)
  if (gStats d).testBit 0 then firstFail
    [(!t.valid, stBadField, 44), (t.fmt != .fp32, stFormatMismatch, 44),
     (!t.inSram || t.copies != 1 || decide (t.ext 0 < gM d), stBadField, 44)]
  else none

/-- R155 for DST, STAT_SUM and STAT_SQ. -/
def checkHandles (p : Part) (r : Fin 8) (d : Desc) : Option (Nat × Nat) :=
  orElse (if gDirect d then none else handleRef p r (gDst d) (gP d * gM d * gN d) 40)
    (orElse (if (gStats d).testBit 1 then handleRef p r (gStatSum d) (gM d) 48 else none)
      (if (gStats d).testBit 2 then handleRef p r (gStatSq d) (gM d) 52 else none))

/-- R93 row 4 and R102: basins and the statistics tensor owned by the ring. -/
def checkOwner (p : Part) (r : Fin 8) (d : Desc) : Option (Nat × Nat) :=
  firstFail
    [(!(basinRange d).all (ringOwnsBasin p r.val), stNotOwned, 0xFF),
     ((gStats d).testBit 0 && !(tensorBasins (tensorAt p (gStatTensor d))).all (ringOwnsBasin p r.val), stNotOwned, 44)]

/-- OPEN tiles of the ring that the descriptor's sump tile meets (R96, R98). -/
def openTiles (p : Part) (r : Fin 8) (d : Desc) : List Tile :=
  p.tiles.filter fun t => t.ring == r.val && overlap t.first t.count (gFirst d) (min (gCount d) (gBlocks p d))
    && overlap t.row t.height (gSumpRow d) (gHeight d)

/-- Fields that an ACCUMULATE has to repeat (R96). -/
def tileSig (d : Desc) : List Nat :=
  [gA d, gB d, gM d, gN d, gKTotal d, gFirst d, gCount d, gMTile d, gSumpRow d]

/-- The table of R96. -/
def checkTile (p : Part) (r : Fin 8) (d : Desc) : Option (Nat × Nat) :=
  let ts := openTiles p r d
  firstFail
    [(gReset d && gAcc d, stBadField, 36), (!gReset d && !gAcc d && !ts.isEmpty, stInUse, 35),
     (!gReset d && gAcc d && ts.isEmpty, stBadField, 36),
     (!gReset d && gAcc d && ts.any fun t => t.sig != tileSig d, stBadField, 0xFF),
     (!gReset d && gAcc d && ts.any fun t => t.kEnd != gKStart d, stMisaligned, 24)]

/-- R492: a GEMM, GEMM_PACKED or CONV descriptor. -/
def checkGemm (s : State) (n : Fin 16) (r : Fin 8) (d : Desc) : Option (Nat × Nat) :=
  let p := s.part n
  let a := tensorAt p (gA d)
  let b := tensorAt p (gB d)
  let out := if gDirect d then some (tensorAt p (gDst d % 4096)) else none
  orElse (checkFields p d a) (orElse (checkK p d) (orElse (checkFormats d a b out) (orElse (checkPaths p d)
    (orElse (firstFail
      [(!a.valid, stBadField, 8), (!b.valid, stBadField, 10), (match out with | some o => !o.valid | none => false, stBadField, 40)])
    (orElse (checkTensors d a b out)
    (orElse (if gPacked d then firstFail
        [(decide (a.ext 2 < gP d) || decide (b.ext 2 < gP d) || (match out with | some o => decide (o.ext 2 < gP d) | none => false),
          stBadField, 0xFF)] else none)
    (orElse (checkConv p d a) (orElse (checkStat p d) (orElse (checkHandles p r d) (orElse (checkDraws d out) (orElse (checkOwner p r d) (checkTile p r d))))))))))))

/-- The sump tiles after an accepted descriptor (R96). -/
def acceptTile (s : State) (n : Fin 16) (r : Fin 8) (d : Desc) : State :=
  let p := s.part n
  let mine := openTiles p r d
  let t : Tile := { ring := r.val, first := gFirst d, count := min (gCount d) (gUnits p d), row := gSumpRow d, height := gHeight d,
                    sig := tileSig d, kEnd := gKStart d + gKLen d }
  s.setPart n { p with tiles := p.tiles.filter (fun t => !mine.contains t) ++ (if gHold d then [t] else []) }

/-! ### CASCADE_GEMM (R174 to R179) -/

/-- A slice tensor of R175. -/
def sliceShape (t : Tensor) (s : Nat) : Bool := t.rank == 3 && t.kdim == 0 && decide (s ≤ t.ext 2)

/-- Bytes of one copy's exponent array: one entry per row and chunk (R175). -/
def expLen (p : Part) (t : Tensor) : Nat := 2 * ceilDiv (t.ext 0) (chunkOf p) * t.ext 1

/-- A copy of a slice tensor with its exponent array in basin b. -/
def sliceIn (p : Part) (t : Tensor) (b : Nat) : Bool :=
  match t.copyIn b with
  | none => false
  | some c => basinOf (t.fineBase + c * 0x400000) == b && basinOf (t.fineBase + c * 0x400000 + expLen p t - 1) == b

/-- Fields of the shared layout that the phase does not list must be zero: (byte, lsb, width) of the first nonzero one (R174). -/
def cascadeZero (d : Desc) : Option (Nat × Nat) :=
  let always := [(36, 0, 1), (36, 1, 1), (36, 2, 1), (36, 3, 2), (36, 5, 2), (36, 7, 1), (37, 0, 4), (37, 4, 2), (38, 0, 16),
    (44, 0, 12), (45, 4, 3), (45, 7, 1), (48, 0, 32), (52, 0, 32)]
  let slice := [(12, 0, 24), (15, 0, 24), (20, 0, 32), (24, 0, 32), (28, 0, 32), (34, 0, 8), (35, 0, 7), (35, 7, 1)]
  let fs := if gPhase d then always else slice ++ always ++ [(40, 0, 32)]
  (fs.find? fun (f : Nat × Nat × Nat) => fld d f.1 f.2.1 f.2.2 != 0).map fun f => (stBadField, f.1)

/-- Basin ranges under R88. -/
def checkBasins (d : Desc) : Option (Nat × Nat) :=
  firstFail [(gCount d == 0 || decide (128 < gCount d), stBadField, 33), (decide (128 < gFirst d + gCount d), stBadField, 0xFF)]

/-- R177: the SLICE phase. Its table, like those of R179 and R184, does not list the VALID of R115: the model looks at it before the formats (DESIGN CHOICE, assumption 46). -/
def checkSlice (p : Part) (r : Fin 8) (d : Desc) : Option (Nat × Nat) :=
  let a := tensorAt p (gA d)
  let b := tensorAt p (gB d)
  let srcIn := a.inSram && copiesInRange a d
  let dstIn := b.inSram && (basinRange d).all (sliceIn p b)
  firstFail
    [(!a.valid, stBadField, 8), (!b.valid, stBadField, 10),
     (a.fmt != .fp64 || b.fmt != .int8, stFormatMismatch, 0xFF),
     (a.kdim != 0 || decide (2 < a.rank), stBadField, 8), (b.rank != 3 || b.kdim != 0, stBadField, 10),
     (a.ext 0 != b.ext 0 || a.ext 1 != b.ext 1, stBadField, 0xFF), (decide (gSlices d < 3) || decide (8 < gSlices d), stBadField, 18),
     (decide (b.ext 2 < gSlices d), stBadField, 0xFF),
     (!srcIn || !dstIn, stBadField, 0xFF), (b.fineBase % 2 != 0, stMisaligned, 10),
     (!(basinRange d).all (ringOwnsBasin p r.val), stNotOwned, 0xFF)]

/-- R179: the MULTIPLY phase; VALID comes before the formats (DESIGN CHOICE, assumption 46). -/
def checkMultiply (p : Part) (r : Fin 8) (d : Desc) : Option (Nat × Nat) :=
  let a := tensorAt p (gA d)
  let b := tensorAt p (gB d)
  orElse (firstFail
    [(gM d == 0, stBadField, 12), (gN d == 0, stBadField, 15), (gMTile d == 0 || decide (128 < gMTile d), stBadField, 34),
     (decide (127 < gSumpRow d + gHeight d - 1), stBadField, 0xFF), (!gSump d && decide (32 < gMTile d), stBadField, 0xFF),
     (!a.valid, stBadField, 8), (!b.valid, stBadField, 10),
     (a.fmt != .int8 || b.fmt != .int8, stFormatMismatch, 0xFF),
     (!sliceShape a (gSlices d) || !a.inSram, stBadField, 8), (!sliceShape b (gSlices d) || !b.inSram, stBadField, 10),
     (decide (a.ext 0 < gKTotal d) || decide (b.ext 0 < gKTotal d) || decide (a.ext 1 < gM d) || decide (b.ext 1 < gN d), stBadField, 0xFF),
     (!((basinRange d).all fun k => sliceIn p a k && sliceIn p b k), stBadField, 0xFF),
     (decide (gSlices d < 3) || decide (8 < gSlices d), stBadField, 18)])
   (orElse (checkK p d) (orElse
     (firstFail [(!(basinRange d).all (ringOwnsBasin p r.val), stNotOwned, 0xFF)])
     (orElse (handleRef p r (gDst d) (gM d * gN d) 40) (checkTile p r d))))

/-- CASCADE_GEMM: R174, R88's basin range, then the phase's own table. -/
def checkCascade (s : State) (n : Fin 16) (r : Fin 8) (d : Desc) : Option (Nat × Nat) :=
  orElse (cascadeZero d) (orElse (checkBasins d) (if gPhase d then checkMultiply (s.part n) r d else checkSlice (s.part n) r d))

/-- R184: STRICT_GEMM; VALID comes before the formats (DESIGN CHOICE, assumption 46). -/
def checkStrict (s : State) (n : Fin 16) (r : Fin 8) (d : Desc) : Option (Nat × Nat) :=
  let p := s.part n
  let a := tensorAt p (gA d)
  let b := tensorAt p (gB d)
  let o := tensorAt p (gDst d % 4096)
  orElse (firstFail [(gM d == 0, stBadField, 12), (gN d == 0, stBadField, 15)])
  (orElse (checkBasins d)
  (orElse (firstFail
    [(!a.valid, stBadField, 8), (!b.valid, stBadField, 10), (!o.valid, stBadField, 40),
     (a.fmt != b.fmt || a.fmt != o.fmt || (a.fmt != .fp32 && a.fmt != .fp64), stFormatMismatch, 0xFF),
     (!gDirect d, stBadField, 36), (gKStart d != 0, stBadField, 24), (gKLen d != gKTotal d || gKLen d == 0, stBadField, 28),
     (gPx d != 0 || gHold d || gAcc d || gNtrap d, stBadField, 36), (gStats d != 0, stBadField, 45)])
  (orElse (checkTensors d a b (some o))
    (firstFail [(!(basinRange d).all (ringOwnsBasin p r.val), stNotOwned, 0xFF)]))))

end Sys2Proof.Machine
end

