-- ==== Sys2Proof/Machine/Array.lean ====
section
/-! DEFINITION. What a basin does with its units: reading operands, computing a unit into the chunk registers or the sump, and draining one array row to its destination (R74 to R106, R178, R182). -/
namespace Sys2Proof.Machine

/-! ### Operands -/

/-- An operand element with its scale byte from copy c of a tensor. -/
def opndAt (s : State) (t : Tensor) (c : Nat) (x : Idx) : Opnd :=
  (elemCode s t c x, if t.fmt.isBlock then fineCode s t c x else 0)

/-- Element (m, k) of A for a descriptor: padding of a CONV reads +0, and a zero block for Bopoyr (R127). -/
def aOpnd (s : State) (p : Part) (d : Desc) (t : Tensor) (c prob slice m k : Nat) : Opnd :=
  if gConv d then match convIndex p d t m k with | some x => opndAt s t c x | none => (0, 0)
  else opndAt s t c ⟨k, m, if gCascade d then slice - 1 else prob, 0, 0⟩

/-- Element (k, n) of B. -/
def bOpnd (s : State) (d : Desc) (t : Tensor) (c prob slice k n : Nat) : Opnd :=
  let z := if gCascade d then slice - 1 else prob
  if t.kdim = 1 then opndAt s t c ⟨n, k, z, 0, 0⟩ else opndAt s t c ⟨k, n, z, 0, 0⟩

/-- The slice pair of a running number (R178). -/
def pairOf (d : Desc) (k : Nat) : Nat × Nat := (slicePairs (gSlices d)).getD (k % gSub d) (1, 1)

/-- Basin SRAM ranges that a unit reads: its rows of A and its columns of B, with their scales. -/
def unitRanges (p : Part) (d : Desc) (a b : Tensor) (ca cb : Nat) (ij : Nat × Nat) (x : AUnit) : List (Nat × Nat) :=
  let za := if gCascade d then ij.1 - 1 else x.prob
  let zb := if gCascade d then ij.2 - 1 else x.prob
  let one := fun (t : Tensor) (c : Nat) (i : Idx) =>
    (t.addr c i, elemSpan t.fmt) :: (if t.fmt.isBlock then [(t.fineAddr c i, 1)] else [])
  let ks := (List.range (x.k1 - x.k0)).map (· + x.k0)
  ((List.range x.rows).flatMap fun i => ks.flatMap fun k =>
    if gConv d then match convIndex p d a (x.m0 + i) k with | some y => one a ca y | none => []
    else one a ca ⟨k, x.m0 + i, za, 0, 0⟩) ++
  ((List.range x.cols).flatMap fun i => ks.flatMap fun k =>
    one b cb (if b.kdim = 1 then ⟨x.n0 + i, k, zb, 0, 0⟩ else ⟨k, x.n0 + i, zb, 0, 0⟩))

/-! ### Stores of an array -/

def sumpKey (b a row col : Nat) : Nat := (b * 16 + a) * 8192 + row * 64 + col
def chunkKey (b a row col : Nat) : Nat := (b * 16 + a) * 2048 + row * 64 + col

def sumpAcc (s : State) (k : Nat) : Acc := ((Sparse.get 0 s.sump k).toNat, Sparse.get 0 s.sumpNan k)
def chunkAcc (s : State) (k : Nat) : Acc := ((Sparse.get 0 s.chunk k).toNat, Sparse.get 0 s.chunkNan k)

def putSump (s : State) (k : Nat) (v : Acc) : State :=
  { s with sump := Sparse.put 0 s.sump k (BitVec.ofNat 32 v.1), sumpNan := Sparse.put 0 s.sumpNan k v.2 }
def putChunk (s : State) (k : Nat) (v : Acc) : State :=
  { s with chunk := Sparse.put 0 s.chunk k (BitVec.ofNat 32 v.1), chunkNan := Sparse.put 0 s.chunkNan k v.2 }

/-- The cells (array, row, column) of unit x: an array's 64 columns, or the quarter of slot q (R89, R99). -/
def unitCells (d : Desc) (q : Nat) (x : AUnit) : List (Nat × Nat × Nat) :=
  (List.range x.rows).flatMap fun i => (List.range x.cols).map fun c =>
    if gPacked d then (q / 4, i, 16 * (q % 4) + c) else (c / 64, i, c % 64)

/-- Output column of a cell inside its unit. -/
def cellCol (d : Desc) (a c : Nat) : Nat := if gPacked d then c % 16 else 64 * a + c

/-- Compute running number k of basin b: every cell's accumulator, into the chunk registers or the sump tile (R82, R94, R95). It starts at +0, or in the open chunk that an ACCUMULATE continues from the sump's value (R82, R83). -/
def computeBlock (s : State) (n : Fin 16) (d : Desc) (b u k : Nat) : State :=
  let p := s.part n
  let ta := tensorAt p (gA d)
  let tb := tensorAt p (gB d)
  let ca := (ta.copyIn b).getD 0
  let cb := (tb.copyIn b).getD 0
  let ij := pairOf d k
  let px := if gCascade d then 0 else gPx d
  (blockUnits p d u).foldl (fun s' qx =>
    let x := qx.2
    let ks := (List.range (x.k1 - x.k0)).map (· + x.k0)
    (unitCells d qx.1 x).foldl (fun s' cell =>
      let m := x.m0 + cell.2.1
      let col := x.n0 + cellCol d cell.1 cell.2.2
      let xs := ks.map fun kk => (aOpnd s p d ta ca x.prob ij.1 m kk, bOpnd s d tb cb x.prob ij.2 kk col)
      let key := sumpKey b cell.1 (gSumpRow d + cell.2.1) cell.2.2
      let init := if gAcc d && x.k0 % chunkOf p != 0 then sumpAcc s key else accZero
      let v := columnAcc ta.fmt tb.fmt px (groupOf p) (subnOf p) init xs
      if gSump d then putSump s' key v else putChunk s' (chunkKey b cell.1 cell.2.1 cell.2.2) v) s') s

/-- The B element that array a's column holds at K position kk of block u: of the unit that owns the column, +0 where no unit does (R89, R99). -/
def tileOpnd (s : State) (n : Fin 16) (d : Desc) (b u k a col kk : Nat) : Opnd :=
  let p := s.part n
  let tb := tensorAt p (gB d)
  match (blockUnits p d u).find? fun qx => if gPacked d then qx.1 == 4 * a + col / 16 else true with
  | none => (0, 0)
  | some qx =>
    let c := cellCol d a col
    if c < qx.2.cols ∧ qx.2.k0 + kk < qx.2.k1 then
      bOpnd s d tb ((tb.copyIn b).getD 0) qx.2.prob (pairOf d k).2 (qx.2.k0 + kk) (qx.2.n0 + c)
    else (0, 0)

/-- Tile i of block u in array a: Kt × 64 element codes, K position first, and Kt / 16 fine-scale bytes a column (R75). -/
def weightTile (s : State) (n : Fin 16) (d : Desc) (b u k a i : Nat) : List Nat × List Nat :=
  let fa := (tensorAt (s.part n) (gA d)).fmt
  let kt := ktOf fa
  let at' := fun kk col => tileOpnd s n d b u k a col (i * kt + kk)
  ((List.range (kt * 64)).map fun x => (at' (x / 64) (x % 64)).1,
   if fa.isBopoyr then (List.range (kt / 16 * 64)).map fun x => (at' (16 * (x / 64)) (x % 64)).2 else [])

/-- The weight registers after running number k of basin b: the last tile is active, and the shadow registers hold the first tile of the basin's next block, or what moved up last (R75). -/
def loadWeights (s : State) (n : Fin 16) (d : Desc) (b u k : Nat) : State :=
  let p := s.part n
  let kt := ktOf (tensorAt p (gA d)).fmt
  let tiles := (blockUnits p d u).foldl (fun m qx => max m (ceilDiv (qx.2.k1 - qx.2.k0) kt)) 1
  let u' := (b - gFirst d) + (k + 1) / gSub d * gCount d
  let more := decide (k + 1 < blocksOn p d b * gSub d)
  (List.range 16).foldl (fun s' a =>
    let act := weightTile s n d b u k a (tiles - 1)
    let sh := if more then weightTile s n d b u' (k + 1) a 0 else act
    let w : Weights := { active := act.1, activeFine := act.2, shadow := sh.1, shadowFine := sh.2 }
    { s' with weights := Sparse.put Weights.none s'.weights (16 * b + a) w }) s

/-- A product that fails its residue check spoils the accumulators of its column in the block: they take open values (R325). -/
def garbleColumn (s : State) (n : Fin 16) (d : Desc) (b u a col : Nat) : State :=
  (blockUnits (s.part n) d u).foldl (fun s qx =>
    ((unitCells d qx.1 qx.2).filter fun c => c.1 == a && c.2.2 == col).foldl (fun s cell =>
      let (v, s1) := s.draw
      let w := v % 2 ^ 32
      let src := if (fp32.decode w).isNan && (tensorAt (s.part n) (gA d)).fmt != .int8 then v / 2 ^ 32 % 3 + 1 else 0
      if gSump d then putSump s1 (sumpKey b cell.1 (gSumpRow d + cell.2.1) cell.2.2) (w, src)
      else putChunk s1 (chunkKey b cell.1 cell.2.1 cell.2.2) (w, src)) s) s

/-- Chunk register rows move to the sump tile (R94). -/
def chunkToSump (s : State) (n : Fin 16) (d : Desc) (b u : Nat) : State :=
  if gSump d then s
  else
    (blockUnits (s.part n) d u).foldl (fun s qx =>
      (unitCells d qx.1 qx.2).foldl (fun s cell =>
        putSump s (sumpKey b cell.1 (gSumpRow d + cell.2.1) cell.2.2) (chunkAcc s (chunkKey b cell.1 cell.2.1 cell.2.2))) s) s

/-- Products and scale products that residues check in a block (R325). -/
def blockChecks (p : Part) (d : Desc) (fa : Fmt) (u : Nat) : Nat :=
  (blockUnits p d u).foldl (fun acc qx =>
    let x := qx.2
    let len := x.k1 - x.k0
    let per := if fa.isBopoyr then len + ceilDiv len (groupOf p) else len * (if gCascade d then 1 else (pxPasses (gPx d)).length)
    acc + x.rows * x.cols * per) 0

/-! ### Draining -/

/-- Source, row, column, chunk and problem of a NaN against the lowest so far: (p, m, n, j) ascending (R104). -/
def lowerTrap (a : Option Trap) (b : Trap) : Option Trap :=
  match a with
  | none => some b
  | some a =>
    if a.prob < b.prob ∨ (a.prob = b.prob ∧ (a.m < b.m ∨ (a.m = b.m ∧ (a.n < b.n ∨ (a.n = b.n ∧ a.j ≤ b.j))))) then some a else some b

/-- What a drained value carries: unit, output row and column, value and NaN source. -/
structure Drained where
  x : AUnit
  m : Nat
  n : Nat
  v : Val
  src : Nat

/-- The values of one drained array row, in ascending column (R84, R94). -/
def drainValues (s : State) (p : Part) (d : Desc) (b u a row : Nat) : List Drained :=
  let ta := tensorAt p (gA d)
  let tb := tensorAt p (gB d)
  (blockUnits p d u).flatMap fun qx =>
    ((unitCells d qx.1 qx.2).filter fun c => c.1 == a && c.2.1 == row).map fun c =>
      let acc := sumpAcc s (sumpKey b a (gSumpRow d + row) c.2.2)
      { x := qx.2, m := qx.2.m0 + row, n := qx.2.n0 + cellCol d a c.2.2,
        v := partialVal ta.fmt tb.fmt ta.coarse tb.coarse (subnOf p) acc.1, src := acc.2 - 1 }

/-- The exponent entry of a row (or column) and chunk of a slice tensor copy (R175). -/
def expEntry (s : State) (p : Part) (t : Tensor) (c row j : Nat) : Nat :=
  ofLE (memRead s (t.fineBase + c * 0x400000 + 2 * (j + ceilDiv (t.ext 0) (chunkOf p) * row)) 2)

/-- The exponent of an entry, or none where the row-chunk is special or was sliced under another CHUNK (R178). -/
def expOf (p : Part) (e : Nat) : Option Int :=
  if e / 32768 % 2 = 1 ∨ e / 4096 % 8 ≠ wbits p.arrayModeNow 2 0 then none else some (signed 12 (e % 4096))

/-- What a MULTIPLY pair partial contributes: P × 2^SW, or NaN (R178). -/
def cascadeVal (s : State) (p : Part) (d : Desc) (b k : Nat) (y : Drained) : Val :=
  let ta := tensorAt p (gA d)
  let tb := tensorAt p (gB d)
  let ij := pairOf d k
  match expOf p (expEntry s p ta ((ta.copyIn b).getD 0) y.m y.x.j), expOf p (expEntry s p tb ((tb.copyIn b).getD 0) y.n y.x.j) with
  | some ea, some eb => y.v.mul (Val.dyadic false 1 (ea + eb - 7 * ((ij.1 + ij.2 : Nat) : Int)))
  | _, _ => .nan

/-- An element of the output tensor: column, row, problem (R92). -/
def outIdx (y : Drained) : Idx := ⟨y.n, y.m, y.x.prob, 0, 0⟩

/-- The output block that a drained value falls in: problem, row and 16-column group (R92). -/
def Drained.block (y : Drained) : Nat × Nat × Nat := (y.x.prob, y.m, y.n / 16)

/-- The first value of every output block of a drained row, in order. -/
def blockHeads (ys : List Drained) : List Drained :=
  ys.foldl (fun l y => if l.any fun z => z.block == y.block then l else l ++ [y]) []

/-- The destination writes of a DIRECT drain: state and, for each drained value, its exact value as written and whether it is a NaN to report. -/
def drainDirect (s : State) (n : Fin 16) (dr : Drain) (o : Tensor) (ys : List Drained) : State × List (Drained × Val) :=
  let p := s.part n
  let d := dr.d
  let rnd := fun i => rndOf (gRnd d) (gStream d) dr.seed (dr.step.getD noStep) i
  match o.fmt.ieee with
  | some f =>
    ys.foldl (fun (acc : State × List (Drained × Val)) y =>
      let c := f.encodeFlush (subnOf p) (rnd (o.lin (outIdx y))) y.v
      (writeCode acc.1 n dr.step o (outIdx y) c, acc.2 ++ [(y, f.decode c)])) (s, [])
  | none =>
    match o.fmt.mini with
    | none => (s, [])
    | some m =>
      (blockHeads ys).foldl (fun acc y0 =>
        let base := y0.n / 16 * 16
        let mine := ys.filter fun y => y.block == y0.block
        let cols := (List.range 16).map (· + base)
        let vs := cols.map fun c => match mine.find? fun y => y.n == c with
          | some y => (rnd (o.lin (outIdx y)), y.v)
          | none => (Rnd.rne, Val.fin false 0 1)
        let e := encodeBp m o.coarse vs
        let s1 := (List.range 16).foldl (fun s i => writeCode s n dr.step o { outIdx y0 with i0 := base + i } (e.2.getD i 0)) acc.1
        let s2 := writeFine s1 n dr.step o (outIdx y0) e.1
        (s2, acc.2 ++ mine.map fun y => (y, bpVal m e.1 o.coarse (e.2.getD (y.n - base) 0)))) (s, [])

/-- The NaNs that a drained row reports: for a Bopoyr output one for each block, at its lowest column, with the source of its lowest NaN element (R104). -/
def rowTraps (o : Option Tensor) (ys : List Drained) : List Trap :=
  match o with
  | some t =>
    if t.fmt.isBopoyr then
      (blockHeads (ys.filter fun y => y.v.isNan)).map fun y => { m := y.m, n := y.n / 16 * 16, j := y.x.j, src := y.src, prob := y.x.prob }
    else (ys.filter fun y => y.v.isNan).map fun y => { m := y.m, n := y.n, j := y.x.j, src := y.src, prob := y.x.prob }
  | none => (ys.filter fun y => y.v.isNan).map fun y => { m := y.m, n := y.n, j := y.x.j, src := y.src, prob := y.x.prob }

/-- Statistics of the elements written by a row (R103): cistern adds for SUM and SUMSQ, and the row maximum. -/
def drainStats (s : State) (n : Fin 16) (r : Fin 8) (dr : Drain) (ws : List (Drained × Val)) : State :=
  let d := dr.d
  let p := s.part n
  let hs := ((findFlight s n r dr.tag.seq).map fun f => f.hands).getD []
  let s1 := if (gStats d).testBit 1 then s.enqueue (ws.flatMap fun w => addOp hs dr.tag (gStatSum d) w.1.m w.2) else s
  let s2 := if (gStats d).testBit 2 then s1.enqueue (ws.flatMap fun w => addOp hs dr.tag (gStatSq d) w.1.m (w.2.mul w.2)) else s1
  if (gStats d).testBit 0 then
    match ws with
    | [] => s2
    | w :: rest =>
      let t := tensorAt p (gStatTensor d)
      let m := w.1.m
      let here := fp32.encode .rne (rest.foldl (fun a y => a.maximum y.2) w.2)
      let so := ((findFlight s2 n r dr.tag.seq).bind fun f => (f.rowMax.find? fun x => x.1 == m).map fun x => x.2)
      let mx := match so with | some v => fp32.encode .rne ((fp32.decode v).maximum (fp32.decode here)) | none => here
      let old := elemVal s2 t 0 ⟨m, 0, 0, 0, 0⟩
      let out := if gStatsInit d then mx else fp32.encode .rne (old.maximum (fp32.decode mx))
      let s3 := modFlight s2 n r dr.tag.seq fun f => { f with rowMax := (m, mx) :: f.rowMax.filter fun x => x.1 != m }
      writeCode s3 n dr.step t ⟨m, 0, 0, 0, 0⟩ out
  else s2

/-- Drain one array row of a block (R94). -/
def drainRow (s : State) (b : Nat) (dr : Drain) (a row : Nat) : State :=
  let n := fin16 dr.tag.fn
  let r := fin8 dr.tag.ring
  let p := s.part n
  let d := dr.d
  let hs := ((findFlight s n r dr.tag.seq).map fun f => f.hands).getD []
  let ys := drainValues s p d b (dr.unit / gSub d) a row
  let s1 :=
    if gDirect d then
      let o := tensorAt p (gDst d % 4096)
      let w := drainDirect s n dr o ys
      drainStats w.1 n r dr w.2
    else if gCascade d then
      s.enqueue (ys.flatMap fun y => addOp hs dr.tag (gDst d) (y.m * gN d + y.n) (cascadeVal s p d b dr.unit y))
    else
      s.enqueue (ys.flatMap fun y => addOp hs dr.tag (gDst d) (y.x.prob * gM d * gN d + y.m * gN d + y.n) y.v)
  if gNtrap d then
    let ts := rowTraps (if gDirect d then some (tensorAt p (gDst d % 4096)) else none) ys
    modFlight s1 n r dr.tag.seq fun f => { f with trap := ts.foldl lowerTrap f.trap }
  else s1

/-! ### Progress of a descriptor on its basins -/

def begunOn (f : Flight) (b : Nat) : Nat := Sparse.get 0 f.begun b

/-- An array descriptor whose units the basins run one at a time: GEMM, GEMM_PACKED, CONV and the MULTIPLY phase. -/
def hasUnits (d : Desc) : Bool :=
  dOpcode d == 0x10 || dOpcode d == 0x11 || dOpcode d == 0x12 || (dOpcode d == 0x13 && gPhase d)

/-- Every opcode that runs on basins. -/
def onBasins (d : Desc) : Bool := decide (0x10 ≤ dOpcode d ∧ dOpcode d ≤ 0x14)

/-- Blocks (with slice pairs) that basin b still has to begin. -/
def leftOn (p : Part) (f : Flight) (b : Nat) : Nat := blocksOn p f.d b * gSub f.d - begunOn f b

/-- Whether an earlier descriptor still needs basin b: it has units to begin there, or it waits to run there (R89, R187). -/
def needsBasin (p : Part) (f : Flight) (b : Nat) : Bool :=
  onBasins f.d && f.phase != .done && decide (gFirst f.d ≤ b) && decide (b < gFirst f.d + gCount f.d)
    && (if hasUnits f.d then decide (0 < leftOn p f b) else true)

/-- Sump tiles of two descriptors alias on basin b: both have units there and their rows meet (R98). -/
def aliases (p : Part) (e d : Desc) (b : Nat) : Bool :=
  hasUnits e && hasUnits d && decide (0 < blocksOn p e b) && decide (0 < blocksOn p d b)
    && overlap (gSumpRow e) (gHeight e) (gSumpRow d) (gHeight d)

def setBegun (s : State) (n : Fin 16) (r : Fin 8) (seq b k : Nat) : State :=
  modFlight s n r seq fun f => { f with begun := Sparse.put 0 f.begun b k }

/-- Beats of a logical basin. -/
def addBeats (s : State) (n : Fin 16) (b k : Nat) : State :=
  s.modPart n fun p => { p with beats := Sparse.put 0 p.beats b ((Sparse.get 0 p.beats b + k) % 2 ^ 64) }

/-- The NUMERIC_TRAP detail of R381. -/
def trapDetail (t : Trap) : BitVec 160 :=
  packFields 160 [(0, 0, 32, t.m), (4, 0, 32, t.n), (8, 0, 32, t.j), (12, 0, 2, t.src), (14, 0, 16, t.prob)]

/-- Lane operations of a descriptor still wait. -/
def hasLaneOps (s : State) (tag : Tag) : Bool := s.laneq.any fun o => o.tag == tag

/-- A descriptor with units ends when every basin has run its blocks, drained them, and its adds have entered the cistern (R148, R104). -/
def endIfDone (s : State) (n : Fin 16) (r : Fin 8) (seq : Nat) : State :=
  match findFlight s n r seq with
  | none => s
  | some f =>
    let p := s.part n
    let tag : Tag := { fn := n.val, ring := r.val, seq := seq }
    if hasUnits f.d && f.phase == .running && (basinRange f.d).all (fun b => leftOn p f b == 0)
        && !(s.drains.any fun e => e.2.tag == tag) && !hasLaneOps s tag then
      match f.trap with
      | some t => endFlight s n r seq stNumericTrap (trapDetail t)
      | none => endFlight s n r seq stOk 0
    else s

/-! ### The next block of a basin -/

/-- Drains of basin b, in order. -/
def drainsOf (s : State) (b : Nat) : List Drain := (s.drains.filter fun e => e.1 == b).map fun e => e.2

/-- A block of `d` may begin beside the drains of its basin: none is left, or the chunk registers are free and the drain under way is of the chunk-register path too (R94, R95, R99). -/
def drainAllows (ds : List Drain) (d : Desc) : Bool :=
  match ds with
  | [] => true
  | [x] => !gSump d && !gSump x.d && !gPacked d && !gPacked x.d
  | _ => false

/-- The flight of a ring that begins the next block on basin b. -/
def nextOnBasin (s : State) (n : Fin 16) (r : Fin 8) (b : Nat) : Option Flight :=
  let p := s.part n
  match (s.ring n r).flights.find? fun f => needsBasin p f b with
  | none => none
  | some f =>
    let earlier := (s.ring n r).flights.takeWhile fun e => e.seq != f.seq
    if hasUnits f.d && f.phase == .running && drainAllows (drainsOf s b) f.d && !(earlier.any fun e => aliases p e.d f.d b) then some f
    else none

/-- Begin the next block of flight f on basin b: compute it, count its beats, and start its drain unless HOLD keeps the tile open. -/
def beginBlock (s : State) (n : Fin 16) (r : Fin 8) (f : Flight) (b : Nat) (fault : UnitFault) : State :=
  let p := s.part n
  let d := f.d
  let k := begunOn f b
  let u := (b - gFirst d) + k / gSub d * gCount d
  let fa := (tensorAt p (gA d)).fmt
  let s0 := computeBlock (loadWeights s n d b u k) n d b u k
  let s1 := setBegun (match fault with | .residue a _ col => garbleColumn s0 n d b u (a % 16) (col % 64) | _ => s0) n r f.seq b (k + 1)
  let s2 := (addBeats s1 n b (blockBeats p d fa u + if k = 0 then 37 else 0)).count n 5 (blockChecks p d fa u)
  if gHold d then s2
  else
    let seed := match f.step.bind (findStep p) with | some st => st.seed | none => 0
    let dr : Drain := { tag := { fn := n.val, ring := r.val, seq := f.seq }, d := d, seed := seed, step := f.step,
                        unit := u * gSub d + k % gSub d, next := 0 }
    let s3 := if (drainsOf s b).isEmpty then chunkToSump s2 n d b u else s2
    { s3 with drains := s3.drains ++ [(b, dr)] }

/-- ARRAY_UNIT_BEGIN (R89): the basin begins its next block; a fault that shows itself fails the step (R323, R325). -/
def unitBegin (s : State) (n : Fin 16) (r : Fin 8) (b : Nat) (fault : UnitFault) : State :=
  match nextOnBasin s n r b with
  | none => s
  | some f =>
    let p := s.part n
    let d := f.d
    let u := (b - gFirst d) + begunOn f b / gSub d * gCount d
    let ta := tensorAt p (gA d)
    let tb := tensorAt p (gB d)
    let rs := (blockUnits p d u).flatMap fun qx =>
      unitRanges p d ta tb ((ta.copyIn b).getD 0) ((tb.copyIn b).getD 0) (pairOf d (begunOn f b)) qx.2
    let fl := readFault s n fault rs
    let s2 := afterRead (endIfDone (beginBlock fl.1 n r f b fault) n r f.seq) n f.step fl.2
    match fault with
    | .residue a row col => residueFault s2 n f.step b (a % 16) (row % 17) (col % 64)
    | _ => s2

/-- SUMP_ROW_DRAIN (R94): the basin's output stages drain the next array row; after the last one the tile waiting in the chunk registers moves up. -/
def rowDrain (s : State) (b : Nat) : State :=
  match drainsOf s b with
  | [] => s
  | dr :: rest =>
    let n := fin16 dr.tag.fn
    let r := fin8 dr.tag.ring
    let p := s.part n
    let rows := drainRows p dr.d (dr.unit / gSub dr.d)
    let s1 := match rows[dr.next]? with | some x => drainRow s b dr x.1 x.2 | none => s
    let others := s1.drains.filter fun e => e.1 != b
    if dr.next + 1 < rows.length then
      { s1 with drains := others ++ ({ dr with next := dr.next + 1 } :: rest).map fun e => (b, e) }
    else
      let s2 := { s1 with drains := others ++ rest.map fun e => (b, e) }
      let s3 := match rest with
        | e :: _ => chunkToSump s2 (fin16 e.tag.fn) e.d b (e.unit / gSub e.d)
        | [] => s2
      endIfDone s3 n r dr.tag.seq

def execArrayUnitBegin (fn : Fin 16) (ring : Fin 8) (basin : Fin 128) (fault : UnitFault) (s : State) : Result :=
  .next (unitBegin s fn ring basin.val fault)

def execSumpRowDrain (basin : Fin 128) (s : State) : Result := .next (rowDrain s basin.val)

end Sys2Proof.Machine
end

