-- ==== Sys2Proof/Machine/Copy.lean ====
section
/-! DEFINITION. COPY: its checks (R131), conversions (R42, R60 to R71) and transfer faults (R133, R491). -/
namespace Sys2Proof.Machine

/-- The conditions of COPY in order: status and failing byte, or none. -/
def checkCopy (s : State) (n : Fin 16) (_r : Fin 8) (d : Desc) : Option (Nat × Nat) :=
  let p := s.part n
  let a := tensorAt p (fld d 8 0 12)
  let b := tensorAt p (fld d 10 0 12)
  if 2 ≤ fld d 12 0 2 then some (stBadField, 12)
  else if !a.valid then some (stBadField, 8)
  else if !b.valid then some (stBadField, 10)
  else if a.rank != b.rank || (List.range 5).any (fun k => a.ext k != b.ext k) then some (stBadField, 0xFF)
  else if fld d 12 0 2 == 1 && decide (2 ^ 48 < b.count) then some (stBadField, 0xFF)
  else if b.fmt == .int8 && a.fmt != .int8 then some (stFormatMismatch, 0xFF)
  else none

/-- Same codes on both sides: FMT equal, and COARSE for Bopoyr (R131). -/
def sameCoding (a b : Tensor) : Bool := a.fmt == b.fmt && (!a.fmt.isBopoyr || a.coarse == b.coarse)

/-- The exponent k of a positive value 2^k, or none. -/
def pow2Exp (v : Nat × Nat) : Option Int :=
  let k := exRat v.1 v.2 - 1
  if v.1 * (Val.dyadic false 1 k).mag.2 = v.2 * (Val.dyadic false 1 k).mag.1 then some k else none

/-- Fine-scale code of 2^j for j from −17 to 16 (R68). -/
def fineOfPow (j : Int) : Nat := if -14 ≤ j then ((j + 15) * 8).toNat else (Val.dyadic false 1 (j + 17)).mag.1

/-- R68: a Bopoyr block from the elements of a Microscaling block with shared exponent X. -/
def mxToBp (src : Fmt) (m : Mini) (coarse x : Nat) (es : List (Rnd × Nat)) : Nat × List Nat :=
  if es.any fun e => (mxVal src x e.2).isNan then (0xFF, es.map fun _ => 0)
  else
    let general := encodeBp m coarse (es.map fun e => (e.1, mxVal src x e.2))
    match pow2Exp (fp32.decode coarse).mag with
    | some k =>
      let j := (x : Int) - 127 - k
      if src.elemBits = m.nbits ∧ -17 ≤ j ∧ j ≤ 16 then (fineOfPow j, es.map fun e => e.2) else general
    | none => general

/-- R69: a Microscaling block from Bopoyr elements with their fine scales. -/
def bpToMx (m : Mini) (dst : Fmt) (coarse : Nat) (es : List (Rnd × Nat × Nat)) : Nat × List Nat :=
  if es.any fun e => e.2.1 == 0xFF then (0xFF, es.map fun _ => 0)
  else
    let general := encodeMx dst (es.map fun e => (e.1, bpVal m e.2.1 coarse e.2.2))
    let f0 := match es with | e :: _ => e.2.1 | [] => 0
    let same := m.nbits == dst.elemBits && (es.all fun e => e.2.1 == f0) && f0 != 0
    match pow2Exp (((fineVal f0).mul (fp32.decode coarse)).mag) with
    | some p =>
      if same ∧ -127 ≤ p ∧ p ≤ 127 ∧ (dst.elemBits = 8 → (es.all fun e => e.2.2 % 128 != 0x7F) = true) then
        ((p + 127).toNat, es.map fun e => e.2.2)
      else general
    | none => general

/-- The rows (i1, i2, i3, i4) of a tensor. -/
def Tensor.rows (t : Tensor) : List Idx :=
  (List.range (t.ext 1 * t.ext 2 * t.ext 3 * t.ext 4)).map fun i =>
    ⟨0, i % t.ext 1, i / t.ext 1 % t.ext 2, i / t.ext 1 / t.ext 2 % t.ext 3, i / t.ext 1 / t.ext 2 / t.ext 3⟩

/-- A scale byte and codes of a destination block converted from the source elements of its positions; positions beyond the extent are +0. -/
def copyBlock (s : State) (a b : Tensor) (rnd : Nat → Rnd) (row : Idx) (blk : Nat) : Nat × List Nat :=
  let bs := b.fmt.blockSize
  let pos := (List.range bs).map (· + blk * bs)
  let src := fun i => if i < b.ext 0 then elemVal s a 0 { row with i0 := i } else .fin false 0 1
  let code := fun i => if i < b.ext 0 then elemCode s a 0 { row with i0 := i } else 0
  let fine := fun i => if i < b.ext 0 then fineCode s a 0 { row with i0 := i } else fineCode s a 0 { row with i0 := b.ext 0 - 1 }
  let r := fun i => rnd (b.lin { row with i0 := i })
  match b.fmt.mini with
  | none => (0, [])
  | some m =>
    if b.fmt.isBopoyr then
      if a.fmt.isMx then mxToBp a.fmt m b.coarse (fine (blk * bs)) (pos.map fun i => (r i, code i))
      else encodeBp m b.coarse (pos.map fun i => (r i, src i))
    else if a.fmt.isBopoyr then
      match a.fmt.mini with
      | some ma => bpToMx ma b.fmt a.coarse (pos.map fun i => (r i, fine i, code i))
      | none => (0, [])
    else encodeMx b.fmt (pos.map fun i => (r i, src i))

/-- Write a block's codes and scale byte. -/
def writeBlock (s : State) (n : Fin 16) (st : Option Nat) (b : Tensor) (row : Idx) (blk : Nat) (x : Nat × List Nat) : State :=
  let s1 := (List.range x.2.length).foldl (fun s i =>
    writeCode s n st b { row with i0 := blk * b.fmt.blockSize + i } (x.2.getD i 0)) s
  writeFine s1 n st b { row with i0 := blk * b.fmt.blockSize } x.1

/-- Copy one row; the source is read from the state `s0` before the COPY. -/
def copyRow (s0 : State) (n : Fin 16) (st : Option Nat) (a b : Tensor) (rnd : Nat → Rnd) (s : State) (row : Idx) : State :=
  if sameCoding a b then
    let s1 := (List.range (b.ext 0)).foldl (fun s i =>
      writeCode s n st b { row with i0 := i } (elemCode s0 a 0 { row with i0 := i })) s
    if b.fmt.isBlock then
      (List.range (ceilDiv (b.ext 0) b.fmt.blockSize)).foldl (fun s k =>
        let x : Idx := { row with i0 := k * b.fmt.blockSize }
        padBlock (writeFine s n st b x (fineCode s0 a 0 x)) n st b x) s1
    else s1
  else if b.fmt.isBlock then
    (List.range (ceilDiv (b.ext 0) b.fmt.blockSize)).foldl (fun s k => writeBlock s n st b row k (copyBlock s0 a b rnd row k)) s
  else
    (List.range (b.ext 0)).foldl (fun s i =>
      let x : Idx := { row with i0 := i }
      match b.fmt.ieee with
      | some f => writeCode s n st b x (f.encode (rnd (b.lin x)) (elemVal s0 a 0 x))
      | none => s) s

/-- DMA_FAULT (R387): the descriptor's SEQ and the failed data address. -/
def dmaFault (s : State) (n : Fin 16) (r : Fin 8) (seq a : Nat) (st : Option Nat) : State :=
  event s n evDmaFault r.val (st.getD noStep) [(12, 0, 32, seq), (16, 0, 48, a)]

/-- Detail byte 12 of an ABORTED transfer: 1 = DMA_FAULT, 2 = LSTORE_FAULT (R381). -/
def abortDetail (k : Nat) : BitVec 160 := BitVec.ofNat 160 k

/-- The seed and step number of a flight's step (R249); outside a step no word is drawn. -/
def flightSeed (s : State) (n : Fin 16) (f : Flight) : BitVec 128 × Nat :=
  match f.step with
  | some k => match findStep (s.part n) k with | some r => (r.seed, k) | none => (0, k)
  | none => (0, noStep)

/-- COPY does its work: it fails on a transfer that fails, reads every element of the source and writes every copy of the destination. Of a failed transfer R133 and R491 leave open which address of the range DMA_FAULT names and what a destination outside the partition's window takes: the model names the first byte of the range, and gives every byte of the footprint an open value (DESIGN CHOICE, assumption 48). -/
def beginCopy (s : State) (n : Fin 16) (r : Fin 8) (f : Flight) : State :=
  let p := s.part n
  let a := tensorAt p (fld f.d 8 0 12)
  let b := tensorAt p (fld f.d 10 0 12)
  match (a.ranges.take (if a.fineLen == 0 then 1 else 2) ++ b.ranges).find? fun x => xferFault s n.val x.1 x.2 with
  | some x =>
    let s1 := dmaFault (scramble s n f.step b.ranges) n r f.seq x.1 f.step
    endFlight s1 n r f.seq stAborted (abortDetail 1)
  | none =>
    let fl := readFault s n f.fault a.ranges
    let (seed, k) := flightSeed s n f
    let rnd := fun i => rndOf (fld f.d 12 0 2) (fld f.d 14 0 16) seed k i
    let s1 := a.rows.foldl (fun s row => copyRow fl.1 n f.step a b rnd s row) fl.1
    endFlight (afterRead s1 n f.step fl.2) n r f.seq stOk 0

end Sys2Proof.Machine
end

