-- ==== Sys2Proof/Machine/Strict.lean ====
section
/-! DEFINITION. The SLICE phase of CASCADE_GEMM (R176, R177) and the strict lanes (R185 to R187): each does its work when it begins. -/
namespace Sys2Proof.Machine

/-- Slices and exponent of a row-chunk of FP64 values (R176): SPECIAL, EXP, and for every element the S slices as INT8 codes. -/
def sliceChunk (s : Nat) (xs : List Val) : Bool × Int × List (List Nat) :=
  let zero := xs.map fun _ => List.replicate s 0
  if xs.any fun v => v.isNan || v.isInf then (true, 0, zero)
  else
    match xs.filter Val.isNonzero with
    | [] => (false, 0, zero)
    | v :: vs =>
      let e := vs.foldl (fun e w => max e (exRat w.mag.1 w.mag.2)) (exRat v.mag.1 v.mag.2)
      (false, e, xs.map fun w =>
        let t := roundAt .down w.mag.1 w.mag.2 (e - 7 * (s : Int))
        (List.range s).map fun i =>
          let q := t / 2 ^ (7 * (s - 1 - i)) % 128
          if w.sign then (256 - q) % 256 else q)

/-- The exponent entry of R175. -/
def expWord (p : Part) (special : Bool) (e : Int) : Nat :=
  (e % 4096).toNat + 4096 * wbits p.arrayModeNow 2 0 + (if special then 32768 else 0)

/-- Slice row `row`, chunk `c`, and write every copy of the slices and of the exponent entry. -/
def sliceUnit (s0 : State) (n : Fin 16) (f : Flight) (s : State) (row c : Nat) : State :=
  let p := s0.part n
  let d := f.d
  let src := tensorAt p (gA d)
  let dst := tensorAt p (gB d)
  let nc := ceilDiv (src.ext 0) (chunkOf p)
  let b := gFirst d + (row * nc + c) % gCount d
  let k0 := c * chunkOf p
  let len := min (chunkOf p) (src.ext 0 - k0)
  let cp := (src.copyIn b).getD 0
  let r := sliceChunk (gSlices d) ((List.range len).map fun i => elemVal s0 src cp ⟨k0 + i, row, 0, 0, 0⟩)
  let s1 := (List.range len).foldl (fun s i =>
    (List.range (gSlices d)).foldl (fun s j =>
      writeCode s n f.step dst ⟨k0 + i, row, j, 0, 0⟩ ((r.2.2.getD i []).getD j 0)) s) s
  let s2 := (List.range dst.copies).foldl (fun s k =>
    stepWrite s n f.step (dst.fineBase + k * 0x400000 + 2 * (c + nc * row)) (toLE 2 (expWord p r.1 r.2.1))) s1
  addBeats s2 n b (2 * ceilDiv len 16)

/-- The SLICE phase (R177). -/
def beginSlice (s : State) (n : Fin 16) (r : Fin 8) (f : Flight) : State :=
  let p := s.part n
  let src := tensorAt p (gA f.d)
  let fl := readFault s n f.fault src.ranges
  let nc := ceilDiv (src.ext 0) (chunkOf p)
  let s1 := (List.range (src.ext 1 * nc)).foldl (fun s u => sliceUnit fl.1 n f s (u / nc) (u % nc)) fl.1
  endFlight (afterRead s1 n f.step fl.2) n r f.seq stOk 0

/-- One strict dot product: result code and flags (R185, R186). -/
def strictDot (f : Ieee) (xs : List (Nat × Nat)) : Nat × Nat :=
  xs.foldl (fun acc x => let y := fmaFlags f x.1 x.2 acc.1; (y.1, acc.2 ||| y.2)) (f.signBit true, 0)

/-- One output row of a STRICT_GEMM on its basin: state and flags so far (R187). -/
def strictRow (s0 : State) (n : Fin 16) (f : Flight) (ie : Ieee) (acc : State × Nat) (m : Nat) : State × Nat :=
  let p := s0.part n
  let d := f.d
  let a := tensorAt p (gA d)
  let b := tensorAt p (gB d)
  let o := tensorAt p (gDst d % 4096)
  let bsn := gFirst d + m % gCount d
  let ca := (a.copyIn bsn).getD 0
  let cb := (b.copyIn bsn).getD 0
  let row := (List.range (gN d)).foldl (fun (acc : State × Nat) col =>
    let x := strictDot ie ((List.range (gKTotal d)).map fun k =>
      ((aOpnd s0 p d a ca 0 1 m k).1, (bOpnd s0 d b cb 0 1 k col).1))
    (writeCode acc.1 n f.step o ⟨col, m, 0, 0, 0⟩ x.1, acc.2 ||| x.2)) acc
  (addBeats row.1 n bsn ((if a.fmt = .fp64 then gN d else ceilDiv (gN d) 2) * gKTotal d + if m < gCount d then 8 else 0), row.2)

/-- A residue failure of a strict lane's multiplication: it is logged for its basin, and the step fails (R325, R327). -/
def strictResidue (s : State) (n : Fin 16) (st : Option Nat) (b : Nat) : State :=
  failStepOf (rasLog (s.count n 6 1) rasResidueProduct actFailed (some n) 0 (rasUnit b 0 0 0)) n st 1

/-- STRICT_GEMM does its work; the completion carries the OR of the flags; a multiplication that fails its residue check spoils one output element. -/
def beginStrict (s : State) (n : Fin 16) (r : Fin 8) (f : Flight) : State :=
  let p := s.part n
  let a := tensorAt p (gA f.d)
  let b := tensorAt p (gB f.d)
  let ie := (a.fmt.ieee).getD fp64
  let fl := readFault s n f.fault (a.ranges ++ b.ranges)
  let w := (List.range (gM f.d)).foldl (strictRow fl.1 n f ie) (fl.1, 0)
  let s1 := w.1.count n 5 (gM f.d * gN f.d * gKTotal f.d)
  match f.fault with
  | .residue _ row col =>
    let (v, s2) := s1.draw
    let o := tensorAt p (gDst f.d % 4096)
    let m := row % gM f.d
    let s3 := writeCode s2 n f.step o ⟨col % gN f.d, m, 0, 0, 0⟩ v
    strictResidue (endFlight s3 n r f.seq stOk (BitVec.ofNat 160 (w.2 ||| (v &&& 0x1D)))) n f.step (gFirst f.d + m % gCount f.d)
  | _ =>
    afterRead (endFlight s1 n r f.seq stOk (BitVec.ofNat 160 w.2)) n f.step fl.2

end Sys2Proof.Machine
end

