-- ==== Sys2Proof/Machine/Cistern.lean ====
section
/-! DEFINITION. The cistern descriptors (R153 to R158), the add lanes (R137, R148 to R152) and the scrubber (R140). -/
namespace Sys2Proof.Machine

/-! ### CST_OPEN -/

def coHandle (d : Desc) : Nat := fld d 8 0 8
def coBase (d : Desc) : Nat := fld d 12 0 22
def coCount (d : Desc) : Nat := fld d 16 0 23

/-- The handle that a CST_OPEN makes (R153). -/
def openHandle (s : State) (n : Fin 16) (r : Fin 8) (d : Desc) : Handle :=
  { num := coHandle d, fn := n.val, ring := r.val, base := coBase d, count := coCount d, wexp := signed 16 (fld d 20 0 16),
    crnd := fbit d 22 0, stripe := fbit d 22 1, carry := fbit d 22 2, closing := false, step := ((s.ring n r).openStep).getD noStep }

/-- A handle is in use for a CST_OPEN of ring r: one that an earlier CST_CLOSE of its own ring names is not, though it may not have retired yet (R153, R155). -/
def inUse (r : Fin 8) (h : Handle) : Bool := !(h.closing && h.ring == r.val)

/-- R153. -/
def checkCstOpen (s : State) (n : Fin 16) (r : Fin 8) (d : Desc) : Option (Nat × Nat) :=
  let p := s.part n
  firstFail
    [(coCount d == 0, stBadField, 16), (decide (4194304 < coBase d + coCount d), stBadField, 0xFF),
     (fbit d 22 1 && coBase d % 32768 != 0, stMisaligned, 12), (fbit d 22 1 && coCount d % 32768 != 0, stMisaligned, 16),
     (!ringOwnsWords p r.val (coBase d) (coCount d), stNotOwned, 0xFF),
     (p.handles.any fun h => inUse r h && h.num == coHandle d, stInUse, 8),
     (p.handles.any fun h => inUse r h && overlap h.base h.count (coBase d) (coCount d), stInUse, 0xFF)]

/-- The handle is open from its CST_OPEN's issue on (R155). -/
def acceptCstOpen (s : State) (n : Fin 16) (r : Fin 8) (d : Desc) : State :=
  s.modPart n fun p => { p with handles := p.handles ++ [openHandle s n r d] }

/-- Zeroing writes go to every word of the region (R153). -/
def beginCstOpen (s : State) (n : Fin 16) (r : Fin 8) (f : Flight) : State :=
  s.enqueue ((List.range (coCount f.d)).map fun i =>
    { tag := { fn := n.val, ring := r.val, seq := f.seq }, word := coBase f.d + i, kind := .zero })

/-! ### CST_ADD -/

def cRaw (d : Desc) : Bool := fbit d 10 0
def cRef (d : Desc) : Nat := fld d 12 0 32
def cRawAddr (d : Desc) : Nat := fld d 16 0 48
def cCount (d : Desc) : Nat := fld d 24 0 23

/-- Raw images lie in basins of the partition (R25, R360). -/
def rawOwned (s : State) (n : Fin 16) (a cnt : Nat) : Bool :=
  ownsBasin s n.val (basinOf a) && ownsBasin s n.val (basinOf (a + 32 * cnt - 1))

/-- R156. -/
def checkCstAdd (s : State) (n : Fin 16) (r : Fin 8) (d : Desc) : Option (Nat × Nat) :=
  let p := s.part n
  let t := tensorAt p (fld d 8 0 12)
  orElse (firstFail
    [(cRaw d && cCount d == 0, stBadField, 24), (!cRaw d && !t.valid, stBadField, 8), (!cRaw d && t.fmt == .int8, stFormatMismatch, 8),
     (!cRaw d && !t.inSram, stBadField, 8), (cRaw d && decide (2 ^ 29 < cRawAddr d + 32 * cCount d), stBadField, 16),
     (cRaw d && cRawAddr d % 32 != 0, stMisaligned, 16), (cRaw d && !rawOwned s n (cRawAddr d) (cCount d), stNotOwned, 16)])
    (handleRef p r (cRef d) (if cRaw d then cCount d else t.count) 12)

/-- The contributions of a CST_ADD go to the add lanes. -/
def beginCstAdd (s : State) (n : Fin 16) (r : Fin 8) (f : Flight) : State :=
  let d := f.d
  let t := tensorAt (s.part n) (fld d 8 0 12)
  let tag : Tag := { fn := n.val, ring := r.val, seq := f.seq }
  let fl := readFault s n f.fault (if cRaw d then [(cRawAddr d, 32 * cCount d)] else t.ranges.take 2)
  let ops :=
    if cRaw d then (List.range (cCount d)).flatMap fun j =>
      let w := ofRaw (memRead fl.1 (cRawAddr d + 32 * j) 32)
      addWordOp f.hands tag (cRef d) j w.data w.spec
    else (List.range t.count).flatMap fun i => addOp f.hands tag (cRef d) i (elemVal fl.1 t 0 (t.idx i))
  afterRead (fl.1.enqueue ops) n f.step fl.2

/-! ### CST_READ -/

def cClear (d : Desc) : Bool := fbit d 10 1

/-- R157, then R155. -/
def checkCstRead (s : State) (n : Fin 16) (r : Fin 8) (d : Desc) : Option (Nat × Nat) :=
  let p := s.part n
  let t := tensorAt p (fld d 8 0 12)
  let sp := spaceOf (cRawAddr d)
  orElse (firstFail
    [(cCount d == 0, stBadField, 24), (!cRaw d && !t.valid, stBadField, 8),
     (!cRaw d && !([Fmt.fp32, .bf16, .fp64].contains t.fmt), stFormatMismatch, 8), (!cRaw d && t.count != cCount d, stBadField, 0xFF),
     (cRaw d && sp != 0 && sp != 4 && sp != 8, stBadField, 16), (cRaw d && sp == 0 && decide (2 ^ 29 < cRawAddr d + 32 * cCount d), stBadField, 16),
     (cRaw d && cRawAddr d % 32 != 0, stMisaligned, 16),
     (cRaw d && sp == 0 && !rawOwned s n (cRawAddr d) (cCount d), stNotOwned, 16)])
    (handleRef p r (cRef d) (cCount d) 12)

/-- Address ranges that a CST_READ writes. -/
def readTargets (p : Part) (d : Desc) : List (Nat × Nat) :=
  if cRaw d then [(cRawAddr d, 32 * cCount d)] else (tensorAt p (fld d 8 0 12)).ranges

/-- Handle words of a CST_READ. -/
def readWords (f : Flight) : List Nat :=
  match handIn f.hands (cRef f.d) with
  | some h => (List.range (cCount f.d)).map fun i => h.word (cRef f.d % 2 ^ 24 + i)
  | none => []

/-- A CST_READ with CLEAR whose transfer failed leaves each word as it was or zero (R157). -/
def maybeClear (s : State) (ws : List Nat) : State :=
  ws.foldl (fun s w =>
    let (v, s1) := s.draw
    if v % 2 = 0 then s1 else putWord s1 w wordZero) s

/-- Readout reads go to the lanes, or the transfer fails (R157, R491). -/
def beginCstRead (s : State) (n : Fin 16) (r : Fin 8) (f : Flight) : State :=
  let d := f.d
  let rs := readTargets (s.part n) d
  match rs.find? fun x => xferFault s n.val x.1 x.2 with
  | some x =>
    let s1 := scramble s n f.step rs
    let s2 := if cClear d then maybeClear s1 (readWords f) else s1
    endFlight (dmaFault s2 n r f.seq x.1 f.step) n r f.seq stAborted (abortDetail 1)
  | none =>
    let ws := readWords f
    s.enqueue ((List.range ws.length).map fun i =>
      { tag := { fn := n.val, ring := r.val, seq := f.seq }, word := ws.getD i 0, kind := .read i (cClear d) })

/-! ### CST_CLOSE -/

/-- R158, with R155's conditions on the handle. -/
def checkCstClose (s : State) (n : Fin 16) (r : Fin 8) (d : Desc) : Option (Nat × Nat) :=
  match findHandle (s.part n) (coHandle d) with
  | none => some (stBadField, 8)
  | some h => if h.ring ≠ r.val then some (stNotOwned, 8) else none

/-- Later references of the ring find the handle closed (R155); it stays open until the CST_CLOSE takes effect. -/
def acceptCstClose (s : State) (n : Fin 16) (d : Desc) : State :=
  s.modPart n fun p => { p with handles := p.handles.map fun h => if h.num == coHandle d && !h.closing then { h with closing := true } else h }

/-- CST_CLOSE, once earlier descriptors that name the handle have retired, frees the handle number and the region (R158). -/
def beginCstClose (s : State) (n : Fin 16) (r : Fin 8) (f : Flight) : State :=
  endFlight (s.modPart n fun p => { p with
    handles := p.handles.eraseP fun h => h.closing && h.ring == r.val && h.num == coHandle f.d }) n r f.seq stOk 0

/-! ### Lanes -/

/-- DATA and SPEC after an add, with the residue that R137 predicts; the check bits are made anew. -/
def addWord (w : CWord) (data : BitVec 128) (spec : BitVec 3) : CWord :=
  let sum := w.data.toNat + data.toNat
  let carry := sum / 2 ^ 128
  { data := w.data + data, spec := w.spec ||| spec,
    res := BitVec.ofNat 7 ((w.res.toNat + data.toNat % 127 + 127 * 4 - 4 * carry) % 127), ecc := 0 }

/-- The residue check of R137: the predicted residue is the sum's. -/
def residueOk (w : CWord) : Bool := w.res.toNat == w.data.toNat % 127

/-- An operation leaves a word whose residue check fails. -/
def misadds (s : State) (o : LaneOp) : Bool :=
  match o.kind with
  | .add data spec => !residueOk (addWord (getWord s o.word) data spec)
  | _ => false

/-- The fault that an operation meets: a zeroing write reads nothing, only an add has a residue check, and a word whose check bits are wrong stays uncorrectable (R137, R163). -/
def faultOf (s : State) (o : LaneOp) (fault : LaneFault) : LaneFault :=
  match o.kind with
  | .zero => .none
  | .add _ _ => if (getWord s o.word).ecc = 0 then fault else .uncorrectable
  | .read _ _ => if (getWord s o.word).ecc = 0 then (if fault = .residue then .none else fault) else .uncorrectable

/-- The step has touched a cistern word (R163). -/
def noteTouch (s : State) (n : Fin 16) (st : Option Nat) (w : Nat) : State :=
  match st with
  | some k => modStep s n k fun r => { r with touched := if r.touched.contains w then r.touched else r.touched ++ [w] }
  | none => s

/-- The readout write of handle word `i` of a CST_READ (R157). -/
def readOut (s : State) (n : Fin 16) (f : Flight) (i : Nat) (w : CWord) : State :=
  let d := f.d
  if cRaw d then stepWrite s n f.step (cRawAddr d + 32 * i) (rawImage w)
  else
    let t := tensorAt (s.part n) (fld d 8 0 12)
    match t.fmt.ieee, handIn f.hands (cRef d) with
    | some ie, some h => writeCode s n f.step t (t.idx i) (ie.encode .rne (wordVal h.wexp w))
    | _, _ => s

/-- One lane operation on its word. -/
def applyLane (s : State) (n : Fin 16) (f : Flight) (o : LaneOp) : State :=
  let w := getWord s o.word
  match o.kind with
  | .add data spec => (putWord s o.word (addWord w data spec)).count n 5 (if misadds s o then 0 else 1)
  | .zero => putWord s o.word wordZero
  | .read i clear =>
    let s1 := readOut s n f i w
    if clear then putWord s1 o.word wordZero else s1

/-- A residue failure applies the add as computed (R163): DATA is what the faulty lane made of it, an open value, and RES is the predicted one. -/
def applyFaulty (s : State) (n : Fin 16) (f : Flight) (o : LaneOp) : State :=
  match o.kind with
  | .add data spec =>
    let w := addWord (getWord s o.word) data spec
    let (v, s1) := s.draw
    putWord s1 o.word { w with data := BitVec.ofNat 128 v }
  | _ => applyLane s n f o

/-- A cistern descriptor ends with its last lane operation (R150). -/
def endCistern (s : State) (n : Fin 16) (r : Fin 8) (seq : Nat) : State :=
  match findFlight s n r seq with
  | none => s
  | some f =>
    if [0x20, 0x21, 0x22].contains (dOpcode f.d) && f.phase == .running && !hasLaneOps s { fn := n.val, ring := r.val, seq := seq } then
      endFlight s n r seq stOk 0
    else s

/-- The scrubber reads and corrects one word of a partition (R140, R163, R166); it is off while CST_SCRUB.ENABLE is 0. -/
def scrub (s : State) (word : Nat) (fault : LaneFault) : State :=
  let w := word % 4194304
  match basinPart s (wordBasin w) with
  | none => s
  | some n =>
    if (s.force 0x60100).getLsbD 0 && (s.part n).shutter == .open_ then
      let s1 := s.count n 4 1
      match (if (getWord s w).ecc = 0 then fault else .uncorrectable) with
      | .none => s1
      | .corrected => cisternCorrected s1 n w
      | .uncorrectable => cisternUe s1 n w
      | .residue => cisternResidue s1 n none w
    else s

end Sys2Proof.Machine
end

