-- ==== Sys2Proof/Machine/Codec.lean ====
section
/-! DEFINITION. The Louvre codec: profiles (R301, R320), segment forms (R304, R305), lossless packing (R308) and source quantisation (R309, R310). -/
namespace Sys2Proof.Machine

/-- The element format of QFMT. -/
def qFmt (w : Word) : Fmt := match ctlQfmt w with | 1 => .bp8 | 2 => .bp6 | _ => .bp4

/-! ### Forms -/

/-- The segment header of R304. -/
structure SegHdr where
  form : Nat
  fmt : Nat
  nelem : Nat
  specf : Bool
  width : Nat
  shift : Nat
  cexp : Int
  deriving DecidableEq, Repr

def hdrBytes (h : SegHdr) : List Byte :=
  toLE 8 (packFields 64 [(0, 0, 4, h.form), (0, 4, 4, h.fmt), (1, 0, 9, h.nelem), (2, 1, 1, if h.specf then 1 else 0),
    (3, 0, 8, h.width), (4, 0, 7, h.shift), (6, 0, 16, (h.cexp % 65536).toNat)] : BitVec 64).toNat

def hdrOf (bs : List Byte) : SegHdr :=
  let x : BitVec 64 := BitVec.ofNat 64 (ofLE (bs.take 8))
  { form := fld x 0 0 4, fmt := fld x 0 4 4, nelem := fld x 1 0 9, specf := fbit x 2 1, width := fld x 3 0 8, shift := fld x 4 0 7,
    cexp := signed 16 (fld x 6 0 16) }

/-- Reserved header bits are zero (R307). -/
def hdrReservedOk (bs : List Byte) : Bool :=
  let x : BitVec 64 := BitVec.ofNat 64 (ofLE (bs.take 8))
  fld x 2 2 6 == 0 && fld x 4 7 9 == 0

/-- Pack `w`-bit fields from the least significant bit upwards into `k` bytes. -/
def packBits (w k : Nat) (xs : List Nat) : List Byte :=
  toLE k ((xs.foldl (fun (a : Nat × Nat) x => (a.1 + (x % 2 ^ w) * 2 ^ a.2, a.2 + w)) (0, 0)).1)

def unpackBits (w n : Nat) (bs : List Byte) : List Nat :=
  let x := ofLE bs
  (List.range n).map fun i => (x >>> (w * i)) % 2 ^ w

/-- Bytes of n element codes packed as stored (R56). -/
def codeBytes (f : Fmt) (n : Nat) : Nat :=
  if f.elemBits = 4 then ceilDiv n 2 else if f.elemBits = 6 then 3 * ceilDiv n 4 else n * (f.elemBits / 8)

/-- The SPEC bitmap of R305. -/
def specBytes (n : Nat) : Nat := ceilDiv (3 * n) 8

/-- Trailing zero bits of a nonzero word. -/
def ctz (x : Nat) : Nat := ((List.range 128).find? fun i => x.testBit i).getD 0

/-- SHIFT and WIDTH of R308. -/
def packShape (ds : List (BitVec 128)) : Nat × Nat :=
  match ds.filter (· != 0) with
  | [] => (0, 0)
  | d :: rest =>
    let shift := rest.foldl (fun m x => min m (ctz x.toNat)) (ctz d.toNat)
    let fits := fun (w : Nat) => ds.all fun x =>
      let v := x.toInt / 2 ^ shift
      decide (-((2 ^ (w - 1) : Nat) : Int) ≤ v) && decide (v < ((2 ^ (w - 1) : Nat) : Int))
    (shift, (((List.range 128).map (· + 1)).find? fits).getD 128)

/-- Encode words (R305, R308). -/
def encodeWords (pack : Bool) (ws : List CWord) : List Byte :=
  let n := ws.length
  let sf := ws.any fun w => w.spec != 0
  let spec := if sf then packBits 3 (specBytes n) (ws.map fun w => w.spec.toNat) else []
  if pack then
    let sh := packShape (ws.map (·.data))
    hdrBytes { form := 2, fmt := 0, nelem := n, specf := sf, width := sh.2, shift := sh.1, cexp := 0 } ++
      packBits sh.2 (ceilDiv (sh.2 * n) 8) (ws.map fun w => w.data.toNat / 2 ^ sh.1) ++ spec
  else
    hdrBytes { form := 1, fmt := 0, nelem := n, specf := sf, width := 0, shift := 0, cexp := 0 } ++
      ws.flatMap (fun w => toLE 16 w.data.toNat) ++ spec

/-- Bytes that R305 gives a words segment. -/
def wordsLen (h : SegHdr) : Nat :=
  8 + (if h.form = 2 then ceilDiv (h.width * h.nelem) 8 else 16 * h.nelem) + (if h.specf then specBytes h.nelem else 0)

/-- The words of a WORDS_PLAIN or WORDS_PACKED payload: DATA and SPEC. -/
def decodeWords (bs : List Byte) : List (BitVec 128 × BitVec 3) :=
  let h := hdrOf bs
  let body := bs.drop 8
  let dl := if h.form = 2 then ceilDiv (h.width * h.nelem) 8 else 16 * h.nelem
  let specs := if h.specf then unpackBits 3 h.nelem (body.drop dl) else List.replicate h.nelem 0
  let datas : List (BitVec 128) :=
    if h.form = 2 then
      (unpackBits h.width h.nelem (body.take dl)).map fun x =>
        BitVec.ofInt 128 ((if h.width = 0 then 0 else signed h.width x) * 2 ^ h.shift)
    else (List.range h.nelem).map fun i => BitVec.ofNat 128 (ofLE ((body.drop (16 * i)).take 16))
  datas.zip (specs.map fun x => BitVec.ofNat 3 x)

/-- A QUANT payload: codes of whole blocks, one fine byte per block (R305). -/
def encodeQuant (f : Fmt) (n : Nat) (k : Int) (blocks : List (Nat × List Nat)) : List Byte :=
  hdrBytes { form := 3, fmt := f.code, nelem := n, specf := false, width := 0, shift := 0, cexp := k } ++
    blocks.flatMap (fun b => packBits f.elemBits (codeBytes f 16) b.2) ++ blocks.map fun b => BitVec.ofNat 8 b.1

def quantLen (f : Fmt) (n : Nat) : Nat := 8 + ceilDiv n 16 * (codeBytes f 16 + 1)

/-- FP32 code of the coarse scale 2^k (R309). -/
def coarseOf (k : Int) : Nat := (k + 127).toNat * 2 ^ 23

/-- The exact values of a QUANT payload (R307). -/
def decodeQuant (bs : List Byte) : List Val :=
  let h := hdrOf bs
  let f := (Fmt.ofCode h.fmt).getD .bp4
  let nb := ceilDiv h.nelem 16
  let cb := codeBytes f 16
  let body := bs.drop 8
  match f.mini with
  | none => []
  | some m =>
    (List.range h.nelem).map fun i =>
      let codes := (body.drop (i / 16 * cb)).take cb
      let fine := ofLE ((body.drop (nb * cb + i / 16)).take 1)
      let e := (unpackBits f.elemBits 16 codes).getD (i % 16) 0
      if fine = 0xFF then .nan else if fine = 0 then .fin (m.neg e) 0 1
      else ((m.decode e).mul (fineVal fine)).mul (Val.dyadic false 1 h.cexp)

/-! ### Quantisation (R309, R310) -/

/-- Exponent of the coarse scale of a segment of exact values. -/
def segExp (f : Fmt) (vs : List Val) : Int :=
  let exE : Int := match f with | .bp8 => 9 | .bp6 => 5 | _ => 3
  let amax := (vs.filter fun v => match v with | .fin .. => true | _ => false).foldl (fun a v => maxMag a v.mag) (0, 1)
  if amax.1 = 0 then 0 else max (-126) (min 127 (exRat amax.1 amax.2 - exE))

/-- Quantise a segment: k, the blocks (fine scale and codes), and the decoded values. -/
def quantise (w : Word) (rnd : Nat → Rnd) (e0 : Nat) (vs : List Val) : Int × List (Nat × List Nat) × List Val :=
  let f := qFmt w
  let k := segExp f vs
  match f.mini with
  | none => (0, [], [])
  | some m =>
    let blocks := (List.range (ceilDiv vs.length 16)).map fun b =>
      encodeBp m (coarseOf k) ((List.range 16).map fun i =>
        (rnd (e0 + 16 * b + i), vs.getD (16 * b + i) (.fin false 0 1)))
    (k, blocks, (List.range vs.length).map fun i =>
      let b := blocks.getD (i / 16) (0, [])
      bpVal m b.1 (coarseOf k) (b.2.getD (i % 16) 0))

/-- The rounding of element e under a profile and a contribution key (R310). -/
def codecRnd (s : State) (n : Fin 16) (prof : Nat) (seed : BitVec 128) (step key e : Nat) : Rnd :=
  if ctlQrnd (codecCtl s n.val prof) then
    .sr (genWord seed.toNat step (codecStream s n.val prof) classCodec (key * 2 ^ 32 + e))
  else .rne

end Sys2Proof.Machine
end

