-- ==== Sys2Proof/Machine/Coll.lean ====
section
/-! DEFINITION. Collectives: fields and checks (R208, R209, R303), segments (R211), what a node contributes, merges, sends and writes (R200 to R206, R212, R213), and how a collective ends (R222 to R225). -/
namespace Sys2Proof.Machine

/-! ### Checks -/

/-- Every basin of a tensor is owned by the ring. -/
def ownsTensor (p : Part) (r : Fin 8) (t : Tensor) : Bool := (tensorBasins t).all (ringOwnsBasin p r.val)

/-- Open and in range under R155. -/
def refOpen (p : Part) (ref len : Nat) : Bool :=
  match findHandle p (ref / 2 ^ 24) with | some h => decide (ref % 2 ^ 24 + len ≤ h.count) | none => false
def refOwned (p : Part) (r : Fin 8) (ref : Nat) : Bool :=
  match findHandle p (ref / 2 ^ 24) with | some h => h.ring == r.val | none => false

/-- Formats under R195, R203, R206 and the second row of R303. -/
def collFormatsOk (p : Part) (d : Desc) (ctl : Word) : Bool :=
  let a := tensorAt p (kSrc d % 4096)
  let b := tensorAt p (kDst d % 4096)
  let o := tensorAt p (kOut d)
  let base :=
    if isRed d then
      match kOperator d with
      | 0 => kSrcKind d || a.fmt != .int8
      | 4 => !kSrcKind d && a.fmt != .int8
      | 1 => !kSrcKind d && a.fmt == .fp32 && b.fmt == .fp32
      | 5 => !kSrcKind d && a.fmt == .int8 && b.fmt == .int8
      | _ => !kSrcKind d && a.fmt == b.fmt && a.fmt.ieee.isSome
    else if isBcast d then kSrcKind d || a.fmt == b.fmt
    else if isGather d then !kSrcKind d && a.fmt == b.fmt
    else if isStats d then !(kStats d).testBit 0 || (tensorAt p (kStatT d)).fmt == .fp32
    else true
  let outOk := !kOutEn d || [Fmt.fp32, .bf16, .fp64].contains o.fmt
  let lossyOk := !ctlLossy ctl || (isRed d && kOperator d == 0 && !kSrcKind d && [Fmt.fp32, .bf16, .fp16].contains a.fmt
    && (!ctlResid ctl || (tensorAt p (ctlTensor ctl)).fmt == .fp32))
  base && outOk && lossyOk

/-- R209 with R303. -/
def checkColl (s : State) (n : Fin 16) (r : Fin 8) (d : Desc) : Option (Nat × Nat) :=
  let p := s.part n
  let t := (planeTable p).getD 0
  let sz := PlaneTable.size t
  let ctl := codecCtl s n.val (kCodec d)
  let a := tensorAt p (kSrc d % 4096)
  let b := tensorAt p (kDst d % 4096)
  let res := tensorAt p (ctlTensor ctl)
  let resid := ctlLossy ctl && ctlResid ctl
  let nc := if a.rank = 1 then 1 else a.ext 1
  let body := !isBarrier d && !isStats d
  firstFail
    [((isRed d && decide (5 < kOperator d)) || (!isRed d && kOperator d != 0), stBadField, 8),
     (!body && (kSrcKind d || kCount d != 0), stBadField, if kSrcKind d then 8 else 16),
     (!body && kSrc d != 0, stBadField, 20), (!body && kDst d != 0, stBadField, 24),
     (!kDstHandle d && !isStats d && (kOutEn d || kOut d != 0), stBadField, if kOutEn d then 8 else 28),
     (!isStats d && kRows d != 0, stBadField, 32), (!isStats d && kStats d != 0, stBadField, 35),
     (!isStats d && kStatT d != 0, stBadField, 36), (!isStats d && kSum d != 0, stBadField, 40), (!isStats d && kSq d != 0, stBadField, 44),
     (body && kCount d == 0, stBadField, 16), ((isScatter d || isGather d) && kCount d % sz != 0, stBadField, 16),
     (isStats d && kStats d == 0, stBadField, 35), (isStats d && kRows d == 0, stBadField, 32),
     (kCodec d != 0 && (isBarrier d || !ctlEn ctl), stBadField, 10), (!ctlLossy ctl && kCkey d != 0, stBadField, 38),
     (resid && !res.valid, stBadField, 10),
     (!collFormatsOk p d ctl, stFormatMismatch, 0xFF),
     ((kTensors p d).any fun x => !x.1.valid || !x.1.inSram || decide (x.1.count < x.2.1), stBadField,
       ((kTensors p d).find? fun x => !x.1.valid || !x.1.inSram || decide (x.1.count < x.2.1)).elim 0xFF fun x => x.2.2),
     ((kRefs d).any fun x => !refOpen p x.1 x.2.1, stBadField, ((kRefs d).find? fun x => !refOpen p x.1 x.2.1).elim 0xFF fun x => x.2.2),
     (isRed d && kSrcKind d && kSrc d != kDst d, stBadField, 0xFF),
     ((isBcast d || isGather d) && !kSrcKind d && a.fmt.isBlock && a.coarse != b.coarse, stBadField, 0xFF),
     (isGather d && shardLen t d % a.fmt.blockSize != 0, stBadField, 16),
     (ctlLossy ctl && (a.ext 0 != kCount d || a.ext 2 != 1 || a.ext 3 != 1 || a.ext 4 != 1), stBadField, 0xFF),
     (ctlLossy ctl && decide (0xFFFE < kCkey d + nc - 1), stBadField, 38),
     (resid && (!res.inSram || decide (res.ext 0 < kCount d) || decide (res.ext 1 < nc)), stBadField, 10),
     (kPlanes d == 0 || (kPlaneList d).any (fun q => !(PlaneTable.valid t).testBit q), stBadField, 9),
     (decide (kEpoch d < p.epoch), stStaleEpoch, 12), (kEpoch d != p.epoch, stBadField, 12),
     ((kPlaneList d).any (fun q => planeRing p q != some r.val), stNotOwned, 9),
     ((kTensors p d).any fun x => !ownsTensor p r x.1, stNotOwned, 0xFF), ((kRefs d).any fun x => !refOwned p r x.1, stNotOwned, 0xFF),
     (resid && !ownsTensor p r res, stNotOwned, 10),
     ((kPlaneList d).any (fun q => !planeJoined s t q), stNotJoined, 9)]

/-! ### Ranks and segments -/

/-- Whether rank j is absent, as far as the device's table or the domain says (R192, R202). -/
def rankAbsent (t : PlaneTable) (epoch j : Nat) : Bool :=
  let pl := (PlaneTable.validPlanes t).headD 0
  let k := PlaneTable.fanout t pl
  let r := PlaneTable.rank t
  if j = r then false
  else if 1 ≤ j ∧ parentRank k j = r then !PlaneTable.present t pl (j - (r * k + 1))
  else if inSubtree k j (PlaneTable.size t) r then false
  else if j * k + 1 < PlaneTable.size t then false
  else Config.remoteAbsent (PlaneTable.domain t) epoch j

/-- The present child slot whose subtree holds rank j. -/
def childTo (t : PlaneTable) (pl j : Nat) : Option Nat :=
  (PlaneTable.children t pl).find? fun c => inSubtree (PlaneTable.fanout t pl) (childRank (PlaneTable.fanout t pl) (PlaneTable.rank t) c) (PlaneTable.size t) j

/-- Rank j lies in this device's subtree. -/
def inMySubtree (t : PlaneTable) (pl j : Nat) : Bool :=
  inSubtree (PlaneTable.fanout t pl) (PlaneTable.rank t) (PlaneTable.size t) j

/-- Pieces of 256 elements of a run: first element and length. -/
def pieces (first len : Nat) : List (Nat × Nat) :=
  (List.range (ceilDiv len 256)).map fun i => (first + 256 * i, min 256 (len - 256 * i))

/-- The segments of a collective before numbering: vector, first, length, shard. -/
def rawSegs (t : PlaneTable) (d : Desc) : List (Nat × Nat × Nat × Nat) :=
  if isBarrier d then [(0, 0, 0, 0)]
  else if isScatter d || isGather d then
    (List.range (PlaneTable.size t)).flatMap fun j =>
      (pieces (j * shardLen t d) (shardLen t d)).map fun x => (0, x.1, x.2, j)
  else if isStats d then
    ((List.range 3).filter fun v => (kStats d).testBit v).flatMap fun v => (pieces 0 (kRows d)).map fun x => (v, x.1, x.2, 0)
  else (pieces 0 (kCount d)).map fun x => (0, x.1, x.2, 0)

/-- R211: segment s travels on the (s mod n)-th plane named. -/
def mkSegs (t : PlaneTable) (d : Desc) : List Seg :=
  let ps := kPlaneList d
  (rawSegs t d).zipIdx.map fun x =>
    { idx := x.2, vec := x.1.1, first := x.1.2.1, len := x.1.2.2.1, shard := x.1.2.2.2, plane := ps.getD (x.2 % max 1 ps.length) 0,
      merged := 0, childData := [], quant := [], upSent := false, got := false }

/-- The segment has an up phase at this node (R200, R202). -/
def upNeed (t : PlaneTable) (epoch : Nat) (d : Desc) (g : Seg) : Bool :=
  if isBcast d then false
  else if isGather d then inMySubtree t g.plane g.shard && !rankAbsent t epoch g.shard
  else true

/-- The segment has a down phase at this node. -/
def downNeed (t : PlaneTable) (epoch : Nat) (d : Desc) (g : Seg) : Bool :=
  if dOpcode d = 0x30 then false
  else if isScatter d then inMySubtree t g.plane g.shard && !rankAbsent t epoch g.shard
  else if isGather d then !rankAbsent t epoch g.shard
  else true

/-- Child slots whose up segment the node waits for. -/
def upChildren (t : PlaneTable) (d : Desc) (g : Seg) : List Nat :=
  if isGather d then (if g.shard = PlaneTable.rank t then [] else (childTo t g.plane g.shard).toList) else PlaneTable.children t g.plane

/-- Child slots that a down segment goes to (R212). -/
def downChildren (t : PlaneTable) (epoch : Nat) (d : Desc) (g : Seg) : List Nat :=
  if isScatter d then
    if rankAbsent t epoch g.shard || g.shard == PlaneTable.rank t then [] else (childTo t g.plane g.shard).toList
  else PlaneTable.children t g.plane

/-- The handle reference that a segment's words lie in, or none for a tensor segment. -/
def segRef (d : Desc) (g : Seg) : Option Nat :=
  if isStats d then (if g.vec = 1 then some (kSum d) else if g.vec = 2 then some (kSq d) else none)
  else if kDstHandle d then some (kDst d) else none

/-- The tensor that a segment's elements lie in. -/
def segTensor (p : Part) (d : Desc) : Tensor := if isStats d then tensorAt p (kStatT d) else tensorAt p (kDst d % 4096)

def segHandle (f : Flight) (g : Seg) : Option Handle := (segRef f.d g).bind fun ref => handIn f.hands ref

/-- Cistern words of a segment. -/
def segWords (f : Flight) (g : Seg) : List Nat :=
  match segRef f.d g, segHandle f g with
  | some ref, some h => (List.range g.len).map fun i => h.word (ref % 2 ^ 24 + g.first + i)
  | _, _ => []

/-- The operator that merges a segment. -/
def segOp (d : Desc) (g : Seg) : Nat := if isStats d then (if g.vec = 0 then 2 else 0) else kOperator d

/-- Lane operations of the collective on the segment's words are all done. -/
def segSettled (s : State) (n : Fin 16) (r : Fin 8) (f : Flight) (g : Seg) : Bool :=
  let ws := segWords f g
  !(s.laneq.any fun o => o.tag == collTag n r f && ws.contains o.word)

/-- R212: own contribution and every awaited child's merge are complete. -/
def segReady (s : State) (n : Fin 16) (r : Fin 8) (t : PlaneTable) (f : Flight) (g : Seg) : Bool :=
  (upChildren t f.d g).all (fun c => g.merged.testBit c) && segSettled s n r f g

/-- Change one segment of an open collective. -/
def modSeg (s : State) (n : Fin 16) (r : Fin 8) (seq idx : Nat) (m : Seg → Seg) : State :=
  modFlight s n r seq fun f => { f with coll := f.coll.map fun c =>
    { c with segs := c.segs.map fun g => if g.idx == idx then m g else g } }

/-! ### Elements of tensor segments -/

/-- Linear indices of one element of each block that a segment touches, in order. -/
def segBlocks (t : Tensor) (first len : Nat) : List Nat :=
  if t.fmt.isBlock then
    ((List.range len).map (· + first)).foldl (fun (l : List Nat) i =>
      if l.any fun j => t.fineAddr 0 (t.idx j) == t.fineAddr 0 (t.idx i) then l else l ++ [i]) []
  else []

def segCodes (s : State) (t : Tensor) (first len : Nat) : List Nat :=
  (List.range len).map fun i => elemCode s t 0 (t.idx (first + i))

def writeCodes (s : State) (n : Fin 16) (st : Option Nat) (t : Tensor) (first : Nat) (cs : List Nat) : State :=
  (cs.zipIdx).foldl (fun s x => writeCode s n st t (t.idx (first + x.2)) x.1) s

def writeFines (s : State) (n : Fin 16) (st : Option Nat) (t : Tensor) (blocks : List Nat) (fs : List Nat) : State :=
  (blocks.zip fs).foldl (fun s x => padBlock (writeFine s n st t (t.idx x.1) x.2) n st t (t.idx x.1)) s

/-- A CODES payload (R305). -/
def encodeCodes (s : State) (t : Tensor) (g : Seg) : List Byte :=
  hdrBytes { form := 0, fmt := t.fmtCode, nelem := g.len, specf := false, width := 0, shift := 0, cexp := 0 } ++
    packBits t.fmt.elemBits (codeBytes t.fmt g.len) (segCodes s t g.first g.len) ++
    (segBlocks t g.first g.len).map fun i => BitVec.ofNat 8 (fineCode s t 0 (t.idx i))

def codesLen (t : Tensor) (g : Seg) : Nat := 8 + codeBytes t.fmt g.len + (segBlocks t g.first g.len).length

def payloadCodes (t : Tensor) (g : Seg) (bs : List Byte) : List Nat := unpackBits t.fmt.elemBits g.len (bs.drop 8)
def payloadFines (t : Tensor) (g : Seg) (bs : List Byte) : List Nat :=
  ((bs.drop (8 + codeBytes t.fmt g.len)).take (segBlocks t g.first g.len).length).map fun b => b.toNat

/-- One merge of MAX, MIN, OR or SUM_ORDERED on element codes (R197, R213). -/
def mergeCode (f : Fmt) (op a b : Nat) : Nat :=
  if op = 5 then a ||| b
  else match f.ieee with
    | none => a
    | some ie =>
      if op = 1 then fp32AddRne a b
      else ie.encode .rne (if op = 2 then (ie.decode a).maximum (ie.decode b) else (ie.decode a).minimum (ie.decode b))

/-! ### Sending -/

/-- The payload of a segment as it leaves this node (R306). -/
def segPayload (s : State) (n : Fin 16) (t : PlaneTable) (f : Flight) (g : Seg) (up : Bool) : List Byte :=
  let d := f.d
  let ctl := codecCtl s n.val (kCodec d)
  if isBarrier d then []
  else match segHandle f g with
    | none => encodeCodes s (segTensor (s.part n) d) g
    | some _ =>
      let quant := ctlLossy ctl && !g.quant.isEmpty &&
        (if up then (PlaneTable.children t g.plane).isEmpty else dOpcode d == 0x31 && ctlDown ctl)
      if quant then g.quant else encodeWords (kCodec d != 0 && ctlPack ctl) ((segWords f g).map (getWord s))

/-- Codec counters (R457): segments encoded, and the bytes that the form saves against WORDS_PLAIN. -/
def countCodec (s : State) (n : Fin 16) (f : Flight) (g : Seg) (bs : List Byte) : State :=
  if bs.isEmpty then s
  else
    let plain := if (segHandle f g).isSome then (encodeWords false ((segWords f g).map (getWord s))).length else bs.length
    (s.count n 14 1).count n 15 (plain - bs.length)

/-- Send one segment or token on a port. -/
def sendSeg (s : State) (n : Fin 16) (t : PlaneTable) (f : Flight) (g : Seg) (kind port : Nat) (bs : List Byte) : State :=
  let p := s.part n
  let cs := match f.coll with | some c => cseqOn c g.plane | none => 0
  let h := segHandle f g
  sendParcel (countCodec s n f g bs) (fin24 port) n (f.step.getD noStep) kind
    (collFields p t kind g.plane (f.step.getD noStep) cs (dOpcode f.d) ++ descFields f.d ++
      [(20, 0, 24, g.idx), (23, 4, 1, match h with | some h => if h.crnd then 1 else 0 | none => 0),
       (24, 0, 16, match h with | some h => (h.wexp % 65536).toNat | none => 0)]) bs

/-- Send a down segment to the children that take it. -/
def sendDown (s : State) (n : Fin 16) (t : PlaneTable) (f : Flight) (g : Seg) (bs : List Byte) : State :=
  (downChildren t (s.part n).epoch f.d g).foldl (fun s c => sendSeg s n t f g 1 (PlaneTable.childPort t g.plane c) bs) s

/-- Words of a segment take new values. -/
def setWords (s : State) (ws : List Nat) (xs : List (BitVec 128 × BitVec 3)) : State :=
  (ws.zip xs).foldl (fun s x => putWord s x.1 (mkWord x.2.1 x.2.2)) s

/-- R315: rank 0 quantises a result segment, and the words take the decoded values. -/
def downQuantise (s : State) (n : Fin 16) (r : Fin 8) (f : Flight) (g : Seg) : State :=
  let ctl := codecCtl s n.val (kCodec f.d)
  match segHandle f g with
  | some h =>
    if ctlLossy ctl && ctlDown ctl && dOpcode f.d == 0x31 then
      let (seed, k) := flightSeed s n f
      let vs := (segWords f g).map fun w => wordVal h.wexp (getWord s w)
      let q := quantise ctl (codecRnd s n (kCodec f.d) seed k 0xFFFF) g.first vs
      let s1 := setWords s (segWords f g) (q.2.2.map (entryOf h.wexp h.crnd))
      modSeg s1 n r f.seq g.idx fun g => { g with quant := encodeQuant (qFmt ctl) g.len q.1 q.2.1 }
    else s
  | none => s

/-- The open collective of a flight with its plane table. -/
def openColl (s : State) (n : Fin 16) (r : Fin 8) (seq : Nat) : Option (Flight × Coll × PlaneTable) :=
  match findFlight s n r seq, planeTable (s.part n) with
  | some f, some t => if f.phase == .running then f.coll.map fun c => (f, c, t) else none
  | _, _ => none

def getSeg (c : Coll) (idx : Nat) : Option Seg := c.segs.find? fun g => g.idx == idx

/-- Segment idx is complete at this node: it goes to the parent, or rank 0 starts its down phase (R212, R315). -/
def passUp (s : State) (n : Fin 16) (r : Fin 8) (seq idx : Nat) : State :=
  match openColl s n r seq with
  | none => s
  | some (f, c, t) =>
    match getSeg c idx with
    | none => s
    | some g =>
      if PlaneTable.noParent t g.plane then
        let s1 := downQuantise s n r f g
        match openColl s1 n r seq with
        | none => s1
        | some (f1, c1, _) =>
          let g1 := (getSeg c1 idx).getD g
          let s2 := if downNeed t (s.part n).epoch f.d g || !(downChildren t (s.part n).epoch f.d g).isEmpty && dOpcode f.d != 0x30 then
              sendDown s1 n t f1 g1 (segPayload s1 n t f1 g1 false) else s1
          modSeg s2 n r seq idx fun g => { g with upSent := true, got := true }
      else
        modSeg (sendSeg s n t f g 0 (PlaneTable.parentPort t g.plane) (segPayload s n t f g true)) n r seq idx
          fun g => { g with upSent := true }

/-- The next up segment of a plane: the lowest not yet sent. -/
def nextUp (t : PlaneTable) (epoch : Nat) (d : Desc) (c : Coll) (plane : Nat) : Option Seg :=
  c.segs.find? fun g => g.plane == plane && upNeed t epoch d g && !g.upSent

/-- Pass one ready segment of a plane up. -/
def upStep (s : State) (n : Fin 16) (r : Fin 8) (seq plane : Nat) : State :=
  match openColl s n r seq with
  | none => s
  | some (f, c, t) =>
    match nextUp t (s.part n).epoch f.d c plane with
    | some g => if segReady s n r t f g then passUp s n r seq g.idx else s
    | none => s

/-- Rank 0 has no parent to send to: its complete segments go on at once. -/
def rootAdvance (s : State) (n : Fin 16) (r : Fin 8) (seq : Nat) : State :=
  match openColl s n r seq with
  | none => s
  | some (f, c, t) =>
    if PlaneTable.rank t = 0 then
      (kPlaneList f.d).foldl (fun s q => (List.range c.segs.length).foldl (fun s _ => upStep s n r seq q) s) s
    else s

/-! ### Ends -/

/-- Words that the OUT_EN conversion reads: element of OUT_TENSOR and cistern word (R206). -/
def outWords (s : State) (t : PlaneTable) (f : Flight) (c : Coll) : State × List (Nat × Handle × Nat) :=
  let d := f.d
  let of' := fun (ref base len : Nat) => match handIn f.hands ref with
    | some h => (List.range len).map fun i => (i, h, h.word (ref % 2 ^ 24 + base + i))
    | none => []
  let _ := c
  if !kOutEn d then (s, [])
  else if isStats d then
    if (kStats d).testBit 1 && (kStats d).testBit 2 then
      let (v, s1) := s.draw
      (s1, if v % 2 = 0 then of' (kSum d) 0 (kRows d) else of' (kSq d) 0 (kRows d))
    else if (kStats d).testBit 1 then (s, of' (kSum d) 0 (kRows d))
    else (s, of' (kSq d) 0 (kRows d))
  else if dOpcode d = 0x30 then (s, if PlaneTable.rank t = 0 then of' (kDst d) 0 (kCount d) else [])
  else if isScatter d then (s, of' (kDst d) (PlaneTable.rank t * shardLen t d) (shardLen t d))
  else (s, of' (kDst d) 0 (kCount d))

/-- A collective ends when every segment has gone up and come down as its operation needs; the readout of R206 is then written (R201). -/
def endCollIfDone (s : State) (n : Fin 16) (r : Fin 8) (seq : Nat) : State :=
  match openColl s n r seq with
  | none => s
  | some (f, c, t) =>
    let ep := (s.part n).epoch
    if c.segs.all (fun g => (!upNeed t ep f.d g || g.upSent) && (!downNeed t ep f.d g || g.got)) && !hasLaneOps s (collTag n r f) then
      let o := tensorAt (s.part n) (kOut f.d)
      let ws := outWords s t f c
      let s1 := match o.fmt.ieee with
        | some ie => ws.2.foldl (fun s x => writeCode s n f.step o (o.idx x.1) (ie.encode .rne (wordVal x.2.1.wexp (getWord s x.2.2)))) ws.1
        | none => ws.1
      endFlight (closePlanes s1 n f c) n r seq stOk 0
    else s

/-- A collective ends TIMEOUT, ABORTED or FENCED (R220, R222, R224, R225): its step fails its check. -/
def breakColl (s : State) (n : Fin 16) (r : Fin 8) (f : Flight) (status : Nat) (detail : BitVec 160) : State :=
  let s1 := spoilColl s n r f
  let s2 := match f.coll with | some c => closePlanes s1 n f c | none => s1
  let s3 := if status = stTimeout then s2.count n 17 1 else if status = stFenced then s2.count n 18 1 else s2
  endFlight s3 n r f.seq status detail

/-- ABORT or TIMEOUT travels on, and the collective ends (R222, R224). -/
def stopColl (s : State) (n : Fin 16) (r : Fin 8) (f : Flight) (kind : Nat) (skip : Option Nat) : State :=
  let s1 := sendAborts s n f skip kind
  let s2 := modFlight s1 n r f.seq fun f => { f with coll := f.coll.map fun c =>
    { c with timeoutEdges := if kind = 3 then List.range 24 else c.timeoutEdges } }
  breakColl s2 n r ((findFlight s2 n r f.seq).getD f) (if kind = 3 then stTimeout else stAborted) 0

/-- A collective fenced by an epoch that a STALE parcel named (R220). -/
def fenceColl (s : State) (n : Fin 16) (r : Fin 8) (f : Flight) (epoch port : Nat) : State :=
  let s1 := event s n evEpochFenced r.val (f.step.getD noStep) [(12, 0, 8, port), (16, 0, 32, epoch)]
  breakColl s1 n r f stFenced (BitVec.ofNat 160 epoch)

/-! ### Beginning -/

/-- Own contribution of a lossy collective (R309, R312). -/
def lossyEnter (s : State) (n : Fin 16) (r : Fin 8) (f : Flight) (ctl : Word) (c : Coll) : State :=
  let d := f.d
  let p := s.part n
  let a := tensorAt p (kSrc d % 4096)
  let res := tensorAt p (ctlTensor ctl)
  let nc := if a.rank = 1 then 1 else a.ext 1
  let (seed, k) := flightSeed s n f
  let s0 := c.segs.foldl (fun s g => setWords s (segWords f g) (List.replicate g.len (0, 0))) s
  (List.range nc).foldl (fun s j =>
    c.segs.foldl (fun s g =>
      let el := fun i => (⟨g.first + i, j, 0, 0, 0⟩ : Idx)
      let xs := (List.range g.len).map fun i => elemVal s a 0 (el i)
      let rs := (List.range g.len).map fun i => if ctlResid ctl then elemVal s res 0 (el i) else .fin false 0 1
      let vs := (xs.zip rs).map fun x => x.1.add x.2
      let q := quantise ctl (codecRnd s n (kCodec d) seed k (kCkey d + j)) g.first vs
      let s1 := s.enqueue ((q.2.2.zipIdx).flatMap fun y => addOp f.hands (collTag n r f) (kDst d) (g.first + y.2) y.1)
      let s2 := if ctlResid ctl then
          (List.range g.len).foldl (fun s i =>
            let x := xs.getD i .nan
            let y := q.2.2.getD i .nan
            let bad := x.isNan || x.isInf || (q.2.1.getD (i / 16) (0, [])).1 == 0xFF
            writeCode s n f.step res (el i) (if bad then 0 else fp32.encode .rne ((vs.getD i .nan).add y.neg))) s1
        else s1
      if nc = 1 then modSeg s2 n r f.seq g.idx fun g => { g with quant := encodeQuant (qFmt ctl) g.len q.1 q.2.1 } else s2) s) s0

/-- Zero bytes at the shards of absent ranks (R202). -/
def zeroAbsent (s : State) (n : Fin 16) (f : Flight) (t : PlaneTable) (c : Coll) : State :=
  let b := tensorAt (s.part n) (kDst f.d % 4096)
  (c.segs.filter fun g => rankAbsent t (s.part n).epoch g.shard).foldl (fun s g =>
    let bl := segBlocks b g.first g.len
    writeFines (writeCodes s n f.step b g.first (List.replicate g.len 0)) n f.step b bl (bl.map fun _ => 0)) s

/-- This rank's contribution enters the destination (R196, R197, R201, R203). -/
def ownContribution (s : State) (n : Fin 16) (r : Fin 8) (f : Flight) (t : PlaneTable) (c : Coll) : State :=
  let d := f.d
  let p := s.part n
  let a := tensorAt p (kSrc d % 4096)
  let b := tensorAt p (kDst d % 4096)
  let ctl := codecCtl s n.val (kCodec d)
  let copyTo := fun (s : State) (from' to' len : Nat) =>
    let bs := segBlocks b to' len
    writeFines (writeCodes s n f.step b to' (segCodes s a from' len)) n f.step b bs
      (bs.map fun i => fineCode s a 0 (a.idx (from' + (i - to'))))
  if isBarrier d || isStats d then s
  else if isRed d then
    if kDstHandle d then
      if kSrcKind d then s
      else if ctlLossy ctl then lossyEnter s n r f ctl c
      else s.enqueue ((List.range (kCount d)).flatMap fun i =>
        let v := elemVal s a 0 (a.idx i)
        addOp f.hands (collTag n r f) (kDst d) i (if kOperator d = 4 then v.mul v else v))
    else copyTo s 0 0 (kCount d)
  else if isBcast d then
    if PlaneTable.rank t = 0 then
      if kSrcKind d then
        match handIn f.hands (kSrc d), handIn f.hands (kDst d) with
        | some ha, some hb =>
          let src := (List.range (kCount d)).map fun i => getWord s (ha.word (kSrc d % 2 ^ 24 + i))
          setWords s ((List.range (kCount d)).map fun i => hb.word (kDst d % 2 ^ 24 + i)) (src.map fun w => (w.data, w.spec))
        | _, _ => s
      else copyTo s 0 0 (kCount d)
    else s
  else copyTo (zeroAbsent s n f t c) 0 (PlaneTable.rank t * shardLen t d) (shardLen t d)

/-- Rank 0 of a BROADCAST sends every segment (R212). -/
def bcastDown (s : State) (n : Fin 16) (r : Fin 8) (seq : Nat) : State :=
  match openColl s n r seq with
  | none => s
  | some (f, c, t) =>
    if isBcast f.d && PlaneTable.rank t == 0 then
      c.segs.foldl (fun s g => modSeg (sendDown s n t f g (segPayload s n t f g false)) n r seq g.idx
        fun g => { g with got := true }) s
    else s

/-- CSEQ of a collective that begins on a plane (R215). -/
def nextCseqOn (p : Part) (step plane : Nat) : Nat :=
  match (p.planes.toList.getD plane PlaneRec.reset).nextCseq with
  | some x => if x.1 = step then x.2 else 0
  | none => 0

/-- Basin SRAM that a collective reads at this rank: the source of its contribution, the residuals, and the row maxima that STATS_REDUCE merges (R197, R203, R205, R309, R323). -/
def collReads (s : State) (n : Fin 16) (t : PlaneTable) (d : Desc) : List (Nat × Nat) :=
  let p := s.part n
  let ctl := codecCtl s n.val (kCodec d)
  let src := (isRed d || isGather d || (isBcast d && PlaneTable.rank t == 0)) && !kSrcKind d
  (if src then (tensorAt p (kSrc d % 4096)).ranges.take 2 else []) ++
  (if isRed d && ctlLossy ctl && ctlResid ctl then (tensorAt p (ctlTensor ctl)).ranges.take 2 else []) ++
  (if isStats d && (kStats d).testBit 0 then (tensorAt p (kStatT d)).ranges.take 2 else [])

/-- The contribution of this rank enters, and what can move on at once does; an uncorrectable word among those read fails the step (R243, R309, R323). -/
def enterColl (s : State) (n : Fin 16) (r : Fin 8) (f : Flight) (t : PlaneTable) (c : Coll) : State :=
  let fl := readFault s n f.fault (collReads s n t f.d)
  let s1 := modFlight fl.1 n r f.seq fun f => { f with coll := f.coll.map fun c => { c with entered := true } }
  let s2 := endCollIfDone (rootAdvance (bcastDown (ownContribution s1 n r f t c) n r f.seq) n r f.seq) n r f.seq
  afterRead s2 n f.step fl.2

/-- A collective begins: it takes its CSEQ on every plane, ends at once where an abort or a fence is recorded, and otherwise enters its contribution (R210, R220, R224, R309). -/
def beginColl (s : State) (n : Fin 16) (r : Fin 8) (f : Flight) : State :=
  let p := s.part n
  let t := (planeTable p).getD 0
  let st := f.step.getD noStep
  let cseqs := (kPlaneList f.d).map fun q => (q, nextCseqOn p st q)
  let c : Coll := { cseqs := cseqs, segs := mkSegs t f.d, timeoutEdges := [], entered := false }
  let s1 := s.modPart n fun p => { p with planes := cseqs.foldl (fun v x =>
    modV v x.1 fun q => { q with nextCseq := some (st, x.2 + 1) }) p.planes }
  let s2 := modFlight s1 n r f.seq fun f => { f with phase := .running, coll := some c }
  let f1 : Flight := { f with phase := .running, coll := some c }
  let rec' := fun q => p.planes.toList.getD q PlaneRec.reset
  match cseqs.findSome? fun x => (rec' x.1).abortNext.bind fun a => if a.1 = st ∧ a.2.1 = x.2 then some a.2.2 else none with
  | some q => stopColl s2 n r f1 2 (some q)
  | none =>
    match cseqs.findSome? fun x => (rec' x.1).fencedBy.bind fun e => if p.epoch < e.1 then some e else none with
    | some e => fenceColl s2 n r f1 e.1 e.2
    | none => enterColl s2 n r f1 t c

end Sys2Proof.Machine
end

