-- ==== Sys2Proof/Machine/CollRx.lean ====
section
/-! DEFINITION. Collective parcels at the receiver (R216, R219 to R224, R307), the merges of R213, and the commands UP_SEGMENT_SEND and COLLECTIVE_TIMEOUT; a lane operation of a collective moves it on. -/
namespace Sys2Proof.Machine

/-! ### Header fields of a collective parcel (R274) -/

def xPtype (x : Parcel) : Nat := fld x.hdr 0 0 4
def xKind (x : Parcel) : Nat := fld x.hdr 1 0 4
def xPlane (x : Parcel) : Nat := fld x.hdr 1 4 3
def xDomain (x : Parcel) : Nat := fld x.hdr 4 0 32
def xEpoch (x : Parcel) : Nat := fld x.hdr 8 0 32
def xStep (x : Parcel) : Nat := fld x.hdr 12 0 32
def xRank (x : Parcel) : Nat := fld x.hdr 16 0 16
def xCseq (x : Parcel) : Nat := fld x.hdr 18 0 16
def xSeg (x : Parcel) : Nat := fld x.hdr 20 0 24
def xCodec (x : Parcel) : Nat := fld x.hdr 23 0 4
def xCrnd (x : Parcel) : Nat := fld x.hdr 23 4 1
def xOperator (x : Parcel) : Nat := fld x.hdr 23 5 3
def xWexp (x : Parcel) : Nat := fld x.hdr 24 0 16
def xOpcode (x : Parcel) : Nat := fld x.hdr 26 0 8
def xCount (x : Parcel) : Nat := fld x.hdr 32 0 32

/-- Order of (STEP, CSEQ). -/
def pairLt (a b : Nat × Nat) : Bool := decide (a.1 < b.1) || (a.1 == b.1 && decide (a.2 < b.2))

/-- The open collective of a plane: ring, flight and collective (R210 allows one). -/
def openOn (s : State) (n : Fin 16) (plane : Nat) : Option (Fin 8 × Flight × Coll) :=
  (flightsWhere s n fun f => f.phase == .running && f.coll.isSome && (kPlanes f.d).testBit plane).head?.bind fun x =>
    x.2.coll.map fun c => (x.1, x.2, c)

def planeRec (s : State) (n : Fin 16) (plane : Nat) : PlaneRec := ((s.part n).planes.toList).getD plane PlaneRec.reset
def modPlane (s : State) (n : Fin 16) (plane : Nat) (g : PlaneRec → PlaneRec) : State :=
  s.modPart n fun p => { p with planes := modV p.planes plane g }

/-- A discarded parcel: its credits go back, and sluice counter `i` counts it. -/
def discard (s : State) (q : Fin 24) (x : Parcel) (i : Nat) : State := (returnCredits s q x).countPort q i 1

/-! ### Row 1 of R216 -/

/-- The edge check: domain, sender rank, plane, an absent slot, or a KIND of the wrong direction. -/
def edgeMismatch (t : PlaneTable) (q : Fin 24) (x : Parcel) : Bool :=
  match PlaneTable.role t q.val with
  | none => true
  | some (pl, role) =>
    xDomain x != PlaneTable.domain t || xRank x != PlaneTable.roleRank t pl role || xPlane x != pl
      || (match role with
          | none => xKind x == 0
          | some c => !PlaneTable.present t pl c || xKind x == 1)

/-- EDGE_MISMATCH is entered once per collective and port. -/
def noteEdge (s : State) (n : Fin 16) (q : Fin 24) (x : Parcel) : State :=
  let key := (xEpoch x, xStep x, xCseq x, q.val)
  let s1 := discard s q x 11
  if (planeRec s n (xPlane x)).edgeNoted.contains key then s1
  else
    event (modPlane s1 n (xPlane x) fun r => { r with edgeNoted := key :: r.edgeNoted }) n evEdgeMismatch 0xF (stepNow (s.part n))
      [(12, 0, 8, q.val), (13, 0, 8, xPlane x), (16, 0, 32, xDomain x)]

/-- A stale parcel: discarded, and the first of its collective on the port is answered with a STALE parcel (R220). -/
def answerStale (s : State) (n : Fin 16) (q : Fin 24) (t : PlaneTable) (x : Parcel) : State :=
  let key := (xEpoch x, xStep x, xCseq x, q.val)
  let s1 := discard s q x 8
  if (planeRec s n (xPlane x)).staleSent.contains key then s1
  else
    sendParcel (modPlane s1 n (xPlane x) fun r => { r with staleSent := key :: r.staleSent }) q n noStep 3
      (collFields (s.part n) t 4 (xPlane x) (xStep x) (xCseq x) (xOpcode x) ++ [(32, 0, 32, xCount x)]) []

/-- A STALE parcel (R220): an epoch above the partition's fences the plane; the highest one named stands. -/
def takeStale (s : State) (n : Fin 16) (q : Fin 24) (x : Parcel) : State :=
  if (s.part n).epoch < xEpoch x then
    let s1 := modPlane (returnCredits s q x) n (xPlane x) fun r => { r with
      fencedBy := match r.fencedBy with | some e => if xEpoch x ≤ e.1 then some e else some (xEpoch x, q.val) | none => some (xEpoch x, q.val) }
    match openOn s1 n (xPlane x) with
    | some (r, f, _) => fenceColl s1 n r f (xEpoch x) q.val
    | none => s1
  else discard s q x 8

/-! ### Row 7 of R216 and R307 -/

/-- Header fields agree with the local descriptor: WEXP, CRND, COUNT, operator class and CODEC. -/
def headerAgrees (f : Flight) (g : Seg) (x : Parcel) : Bool :=
  let d := f.d
  let h := segHandle f g
  xOpcode x == dOpcode d && xOperator x == kOperator d && xCodec x == kCodec d
    && xCount x == (if isStats d then kRows d else kCount d)
    && xCrnd x == (match h with | some h => if h.crnd then 1 else 0 | none => 0)
    && xWexp x == (match h with | some h => (h.wexp % 65536).toNat | none => 0)

/-- FORM, NELEM, reserved bits, WIDTH + SHIFT and LENGTH (R307). -/
def payloadAgrees (s : State) (n : Fin 16) (f : Flight) (g : Seg) (x : Parcel) : Bool :=
  let d := f.d
  let bs := x.payload
  let h := hdrOf bs
  let ctl := codecCtl s n.val (kCodec d)
  if isBarrier d then bs.isEmpty
  else
    let words := (segHandle f g).isSome
    let downQuant := xKind x == 1 && dOpcode d == 0x31 && ctlLossy ctl && ctlDown ctl
    let formOk :=
      if !words then h.form == 0
      else if downQuant then h.form == 3
      else h.form == 1 || h.form == 2 || (h.form == 3 && xKind x == 0 && ctlLossy ctl)
    let t := segTensor (s.part n) d
    let len := if h.form = 0 then codesLen t g else if h.form = 3 then quantLen (qFmt ctl) g.len else wordsLen h
    decide (8 ≤ bs.length) && formOk && h.nelem == g.len && hdrReservedOk bs && decide (h.width + h.shift ≤ 128)
      && (h.form != 0 || h.fmt == t.fmtCode) && (h.form != 3 || h.fmt == (qFmt ctl).code) && bs.length == len

/-- The segment that an UP or DOWN parcel brings, where this node awaits it on that edge. -/
def segAwaited (t : PlaneTable) (epoch : Nat) (f : Flight) (c : Coll) (x : Parcel) (role : Option Nat) : Option Seg :=
  match getSeg c (xSeg x) with
  | none => none
  | some g =>
    if g.plane != xPlane x then none
    else match role with
      | some slot => if upNeed t epoch f.d g && (upChildren t f.d g).contains slot then some g else none
      | none => if downNeed t epoch f.d g then some g else none

/-- COLL_MISMATCH: the parcel is discarded and the collective completes ABORTED. -/
def collMismatch (s : State) (n : Fin 16) (r : Fin 8) (f : Flight) (q : Fin 24) (x : Parcel) : State :=
  let s1 := event (discard s q x 11) n evCollMismatch r.val (f.step.getD noStep)
    [(12, 0, 8, q.val), (13, 0, 8, xPlane x), (14, 0, 16, xCseq x)]
  breakColl s1 n r f stAborted 0

/-! ### Merges and writes (R213) -/

/-- The whole words of a handle segment's payload: WORDS forms as they are, QUANT values under R141. -/
def payloadWords (h : Handle) (bs : List Byte) : List (BitVec 128 × BitVec 3) :=
  if (hdrOf bs).form = 3 then (decodeQuant bs).map (entryOf h.wexp h.crnd) else decodeWords bs

/-- SUM_ORDERED at a node: own element, then each child's in ascending slot (R197). -/
def sumOrdered (own : Nat) (cs : List Nat) : Nat := cs.foldl fp32AddRne own

/-- Child slot `c` brings segment g upwards. -/
def mergeUp (s : State) (n : Fin 16) (r : Fin 8) (t : PlaneTable) (f : Flight) (g : Seg) (c : Nat) (bs : List Byte) : State :=
  let d := f.d
  let mark := fun (s : State) => modSeg s n r f.seq g.idx fun g => { g with merged := g.merged ||| 2 ^ c }
  if isBarrier d then mark s
  else match segHandle f g, segRef d g with
    | some h, some ref =>
      let ws := payloadWords h bs
      mark (s.enqueue ((ws.zipIdx).flatMap fun w => addWordOp f.hands (collTag n r f) ref (g.first + w.2) w.1.1 w.1.2))
    | _, _ =>
      let tn := segTensor (s.part n) d
      let cs := payloadCodes tn g bs
      if isGather d then
        mark (writeFines (writeCodes s n f.step tn g.first cs) n f.step tn (segBlocks tn g.first g.len) (payloadFines tn g bs))
      else if segOp d g = 1 then
        let data := (c, cs) :: g.childData
        let want := upChildren t d g
        let s1 := modSeg s n r f.seq g.idx fun g => { g with childData := data }
        if want.all fun k => data.any fun y => y.1 == k then
          let own := segCodes s tn g.first g.len
          let out := (own.zipIdx).map fun y => sumOrdered y.1 (want.map fun k => (((data.find? fun z => z.1 == k).map fun z => z.2).getD []).getD y.2 0)
          modSeg (writeCodes s1 n f.step tn g.first out) n r f.seq g.idx
            fun g => { g with childData := [], merged := want.foldl (fun m k => m ||| 2 ^ k) 0 }
        else s1
      else
        let own := segCodes s tn g.first g.len
        mark (writeCodes s n f.step tn g.first ((own.zip cs).map fun y => mergeCode tn.fmt (segOp d g) y.1 y.2))

/-- The parent brings segment g downwards: it is written where this node takes it, and forwarded (R212, R213, R316). -/
def writeDown (s : State) (n : Fin 16) (r : Fin 8) (t : PlaneTable) (f : Flight) (g : Seg) (bs : List Byte) : State :=
  let d := f.d
  let ep := (s.part n).epoch
  let own := !isScatter d || g.shard == PlaneTable.rank t
  let ctl := codecCtl s n.val (kCodec d)
  let got := fun (s : State) => modSeg s n r f.seq g.idx fun g => { g with got := true }
  if isBarrier d then got (sendDown s n t f g [])
  else match segHandle f g with
    | some h =>
      let ws := payloadWords h bs
      let s1 := if own then setWords s (segWords f g) ws else s
      let out :=
        if (hdrOf bs).form = 3 then bs
        else encodeWords (kCodec d != 0 && ctlPack ctl) (ws.map fun w => mkWord w.1 w.2)
      got (sendDown s1 n t f g out)
    | none =>
      let tn := segTensor (s.part n) d
      let s1 := if own then
          writeFines (writeCodes s n f.step tn g.first (payloadCodes tn g bs)) n f.step tn (segBlocks tn g.first g.len) (payloadFines tn g bs)
        else s
      let _ := ep
      got (sendDown s1 n t f g bs)

/-- A segment of SUM_ORDERED waits in the receive buffer until every earlier segment of its plane has been sent (R227). -/
def mustWait (t : PlaneTable) (epoch : Nat) (f : Flight) (c : Coll) (g : Seg) : Bool :=
  isRed f.d && kOperator f.d == 1 && c.segs.any fun e => e.plane == g.plane && decide (e.idx < g.idx) && upNeed t epoch f.d e && !e.upSent

/-- What follows a change of an open collective: rank 0 passes complete segments on, and the collective may end. -/
def collProgress (s : State) (n : Fin 16) (r : Fin 8) (seq : Nat) : State := endCollIfDone (rootAdvance s n r seq) n r seq

/-- An UP or DOWN parcel of the open collective (rows 7 and 8 of R216); none: it stays in the buffer. -/
def takeSegment (s : State) (n : Fin 16) (q : Fin 24) (t : PlaneTable) (r : Fin 8) (f : Flight) (c : Coll) (x : Parcel) : Option State :=
  let ep := (s.part n).epoch
  let role := match PlaneTable.role t q.val with | some y => y.2 | none => none
  match segAwaited t ep f c x role with
  | none => some (collMismatch s n r f q x)
  | some g =>
    let dup := match role with
      | some slot => g.merged.testBit slot || g.childData.any fun y => y.1 == slot
      | none => g.got
    if !headerAgrees f g x || !payloadAgrees s n f g x then some (collMismatch s n r f q x)
    else if dup then some (discard s q x 9)
    else match role with
      | some slot =>
        if mustWait t ep f c g then none
        else some (collProgress (mergeUp (returnCredits s q x) n r t f g slot x.payload) n r f.seq)
      | none => some (collProgress (writeDown (returnCredits s q x) n r t f g x.payload) n r f.seq)

/-! ### R216 -/

/-- Hold a parcel in the receive buffer; a parcel that arrives is counted once. -/
def holdParcel (s : State) (q : Fin 24) (x : Parcel) (fresh : Bool) : State :=
  let s1 := s.modPort q fun p => { p with held := p.held ++ [x] }
  if fresh then s1.countPort q 10 1 else s1

/-- A held parcel blocks later traffic of its own plane and virtual lane on the port (R216, R277). -/
def blocked (s : State) (q : Fin 24) (x : Parcel) : Bool :=
  (s.port q).held.any fun y => xPlane y == xPlane x && parcelVl y == parcelVl x

/-- Check one collective parcel of partition n under R216. -/
def receiveColl (s : State) (n : Fin 16) (q : Fin 24) (x : Parcel) (fresh : Bool) : State :=
  let p := s.part n
  match planeTable p with
  | none => noteEdge s n q x
  | some t =>
    let key := (xStep x, xCseq x)
    let kind := xKind x
    if 4 < kind then discard s q x 11
    else if edgeMismatch t q x then noteEdge s n q x
    else if kind = 4 then takeStale s n q x
    else if xEpoch x < p.epoch then answerStale s n q t x
    else if blocked s q x || decide (p.epoch < xEpoch x) then holdParcel s q x fresh
    else
      let rec' := planeRec s n (xPlane x)
      let retired := match rec'.lastDone with | some k => !pairLt k key | none => false
      match openOn s n (xPlane x) with
      | some (r, f, c) =>
        let now := (f.step.getD noStep, cseqOn c (xPlane x))
        if retired || pairLt key now then discard s q x 9
        else if pairLt now key then
          if kind = 2 then modPlane (returnCredits s q x) n (xPlane x) fun r => { r with abortNext := some (xStep x, xCseq x, q.val) }
          else holdParcel s q x fresh
        else if kind = 2 ∨ kind = 3 then stopColl (returnCredits s q x) n r f kind (some q.val)
        else match takeSegment s n q t r f c x with
          | some s1 => s1
          | none => holdParcel s q x fresh
      | none =>
        if retired then discard s q x 9
        else if kind = 2 then modPlane (returnCredits s q x) n (xPlane x) fun r => { r with abortNext := some (xStep x, xCseq x, q.val) }
        else holdParcel s q x fresh

/-- Check the held parcels of a port again, in the order of their arrival. -/
def recheckPort (s : State) (q : Fin 24) : State :=
  let p := s.port q
  match p.owner with
  | none => s
  | some o =>
    if p.held.isEmpty || (s.part (fin16 o)).shutter != .open_ then s
    else
      p.held.foldl (fun s x => receiveColl s (fin16 o) q x false) (s.setPort q { p with held := [] })

def heldCount (s : State) : Nat := (allPorts.map fun q => (s.port q).held.length).sum

/-- Check held parcels until none of them moves. -/
def recheckHeld : Nat → State → State
  | 0, s => s
  | k + 1, s =>
    let s1 := allPorts.foldl recheckPort s
    if heldCount s1 < heldCount s then recheckHeld k s1 else s1

/-- Held parcels after a collective has begun, moved on or ended. -/
def recheck (s : State) : State := recheckHeld (heldCount s) s

/-! ### Commands -/

/-- UP_SEGMENT_SEND (R212): the lowest unsent up segment of a plane goes to the parent once it is complete. -/
def upSegmentSend (s : State) (n : Fin 16) (plane : Nat) : State :=
  match openOn s n plane with
  | some (r, f, _) => recheck (collProgress (upStep s n r f.seq plane) n r f.seq)
  | none => s

def execUpSegmentSend (fn : Fin 16) (plane : Fin 8) (s : State) : Result := .next (upSegmentSend s fn plane.val)

/-- The collective still waits for a parcel: a child's segment or a down segment is missing (R222). -/
def waitsForParcel (t : PlaneTable) (epoch : Nat) (f : Flight) (c : Coll) : Bool :=
  c.segs.any fun g =>
    (upNeed t epoch f.d g && !(upChildren t f.d g).all fun k => g.merged.testBit k)
      || (downNeed t epoch f.d g && !g.got && !PlaneTable.noParent t g.plane)

/-- COLLECTIVE_TIMEOUT (R222): the progress timer of the plane's open collective expires. -/
def collectiveTimeout (s : State) (n : Fin 16) (plane : Nat) : State :=
  match openOn s n plane, planeTable (s.part n) with
  | some (r, f, c), some t =>
    if waitsForParcel t (s.part n).epoch f c then recheck (stopColl s n r f 3 none) else s
  | _, _ => s

def execCollectiveTimeout (fn : Fin 16) (plane : Fin 8) (s : State) : Result := .next (collectiveTimeout s fn plane.val)

/-- CISTERN_LANE_OP: the lane of a bank applies one of the operations that have arrived for it, chosen by `pick` (R148); a fault in the word that it reads follows R163. -/
def laneOp (s : State) (basin bank pick : Nat) (fault : LaneFault) : State :=
  let here := s.laneq.filter fun o => wordBasin o.word == basin && wordBank o.word == bank
  match here[pick % max 1 here.length]? with
  | none => s
  | some o =>
    let n := fin16 o.tag.fn
    let r := fin8 o.tag.ring
    let s0 := { s with laneq := s.laneq.erase o }
    match findFlight s0 n r o.tag.seq with
    | none => s0
    | some f =>
      let done := fun (s : State) => recheck (collProgress (endIfDone (endCistern s n r o.tag.seq) n r o.tag.seq) n r o.tag.seq)
      let s1 := noteTouch s0 n f.step o.word
      let s2 := if misadds s1 o then cisternResidue (done (applyLane s1 n f o)) n f.step o.word else done (applyLane s1 n f o)
      match faultOf s1 o fault with
      | .none => s2
      | .corrected => cisternCorrected s2 n o.word
      | .uncorrectable => cisternUe s1 n o.word
      | .residue => cisternResidue (done (applyFaulty s1 n f o)) n f.step o.word

def execCisternLaneOp (basin : Fin 128) (bank : Fin 64) (pick : Nat) (fault : LaneFault) (s : State) : Result :=
  .next (laneOp s basin.val bank.val pick fault)

end Sys2Proof.Machine
end

