-- ==== Sys2Proof/Machine/Plan.lean ====
section
/-! DEFINITION. Plan images (R382 to R385) and plane tables (R192, R217): reading, checking and installing them, the base of the local store (R333, R345), and the ownership of sluices. -/
namespace Sys2Proof.Machine

/-- What the check of a descriptor that acts at the gate says: it may be applied, it is rejected with a status and a byte offset, or its image cannot be read at an address (R491). -/
inductive Verdict where
  | ok
  | reject (status byte : Nat)
  | noRead (addr : Nat)
  deriving DecidableEq, Repr

/-- A list of (failed, status, byte) as a verdict. -/
def verdictOf : Option (Nat × Nat) → Verdict
  | some x => .reject x.1 x.2
  | none => .ok

/-! ### Plane tables (R192) -/

/-- Fields of a plane table (R191). -/
def layPlanes : List (Nat × Nat × Nat) :=
  [(0, 0, 32), (4, 0, 32), (8, 0, 16), (10, 0, 16), (12, 0, 8)] ++
    (List.range 8).flatMap fun p =>
      [(32 + 32 * p, 0, 4), (33 + 32 * p, 0, 5), (33 + 32 * p, 7, 1)] ++
        (List.range 16).flatMap fun c => [(36 + 32 * p + c, 0, 5), (36 + 32 * p + c, 7, 1)]

/-- Child slots marked PRESENT in a plane entry. -/
def PlaneTable.presentBits (t : PlaneTable) (p : Nat) : List Bool := (List.range 16).map (PlaneTable.present t p)

def distinct : List Nat → Bool
  | [] => true
  | a :: l => !l.contains a && distinct l

/-- The rows of R192 up to the ownership of sluices: the failing status. -/
def checkPlanes (t : PlaneTable) : Option Nat :=
  let ps := PlaneTable.validPlanes t
  let p0 := ps.headD 0
  let k := PlaneTable.fanout t p0
  let r := PlaneTable.rank t
  let n := PlaneTable.size t
  let slots := (List.range 16).filter fun c => decide (c < k) && decide (childRank k r c < n)
  let ports := PlaneTable.allPorts t
  if !onlyFields t layPlanes || ps.isEmpty then some stBadField
  else if n ≤ r || ps.any (fun p => PlaneTable.noParent t p != (r == 0)) then some stPlanMismatch
  else if ps.any (fun p => PlaneTable.fanout t p != k || PlaneTable.fanout t p < 2 || PlaneTable.presentBits t p != PlaneTable.presentBits t p0) then
    some stPlanMismatch
  else if (List.range 16).any (fun c => PlaneTable.present t p0 c && !slots.contains c)
      || slots.any (fun c => !PlaneTable.present t p0 c && decide (childRank k (childRank k r c) 0 < n)) then some stPlanMismatch
  else if !distinct ports || decide (24 < ports.length) || ports.any (fun q => decide (24 ≤ q)) then some stPlanMismatch
  else none

/-- A sluice is assigned to another partition. -/
def takenByOther (s : State) (n : Fin 16) (q : Nat) : Bool :=
  match (s.port (fin24 q)).owner with | some o => o != n.val | none => false

/-! ### Plan images -/

/-- The header of a plan image, and a section's offset and length (R382). -/
abbrev PlanHdr := BitVec 1024

def PlanHdr.off (h : PlanHdr) (k : Nat) : Nat := fld h (16 + 16 * k) 0 32
def PlanHdr.len (h : PlanHdr) (k : Nat) : Nat := fld h (20 + 16 * k) 0 32

def layPlanHdr : List (Nat × Nat × Nat) :=
  [(0, 0, 32), (4, 0, 16), (8, 0, 8), (9, 0, 1)] ++ (List.range 7).flatMap fun k => [(16 + 16 * k, 0, 32), (20 + 16 * k, 0, 32)]

def plAddr (d : Desc) : Nat := fld d 8 0 48
def plBytes (d : Desc) : Nat := fld d 16 0 32
def plFirst (d : Desc) : Nat := fld d 20 0 32

/-- Spaces that an image or a store may lie in; an address in space 0x0 lies in basin SRAM. -/
def imageSpace (a len : Nat) : Bool := (spaceOf a == 0 && decide (a + len ≤ 2 ^ 29)) || spaceOf a == 4 || spaceOf a == 8

def planHdr (s : State) (d : Desc) : PlanHdr := BitVec.ofNat 1024 (ofLE (memRead s (plAddr d) 128))

/-- The bytes of section k; an absent section has none. -/
def planSection (s : State) (d : Desc) (k : Nat) : List Byte :=
  let h := planHdr s d
  memRead s (plAddr d + PlanHdr.off h k) (PlanHdr.len h k)

/-- Cut a byte string into entries of `w` bytes, as numbers. -/
def entriesOf (w : Nat) (bs : List Byte) : List Nat :=
  (List.range (bs.length / w)).map fun i => ofLE ((bs.drop (w * i)).take w)

/-- The plan that an image spells. -/
def planOf (s : State) (d : Desc) : Plan :=
  let h := planHdr s d
  { active := fld h 8 0 8, test := fbit h 9 0,
    tensors := (entriesOf 64 (planSection s d 0)).map (BitVec.ofNat 512),
    taps := (List.range ((planSection s d 1).length / 130)).map fun i => ((planSection s d 1).drop (130 * i)).take 130,
    planes := BitVec.ofNat 2304 (ofLE (planSection s d 2)), mirror := BitVec.ofNat 768 (ofLE (planSection s d 3)),
    gens := (entriesOf 16 (planSection s d 4)).map (BitVec.ofNat 128), own := (entriesOf 8 (planSection s d 5)).map (BitVec.ofNat 64),
    manifest := (entriesOf 16 (planSection s d 6)).map (BitVec.ofNat 128) }

/-- Sizes of whole sections (R382 to R384). -/
def sectionsWhole (h : PlanHdr) : Bool :=
  PlanHdr.len h 0 % 64 == 0 && decide (PlanHdr.len h 0 ≤ 4096 * 64) && (PlanHdr.len h 1 == 0 || PlanHdr.len h 1 == 15 * 130)
    && (PlanHdr.len h 2 == 0 || PlanHdr.len h 2 == 288) && (PlanHdr.len h 3 == 0 || PlanHdr.len h 3 == 96)
    && PlanHdr.len h 4 % 16 == 0 && decide (PlanHdr.len h 4 ≤ 1024) && PlanHdr.len h 5 % 8 == 0 && PlanHdr.len h 6 % 16 == 0

/-- Reserved bits of a manifest entry are zero (R384). -/
def manifestEntryOk (e : BitVec 128) : Bool :=
  onlyFields e [(0, 0, 8), (1, 0, 8), (2, 0, 6), (3, 0, 4), (4, 0, 16), (6, 0, 16), (8, 0, 1)]

/-! ### Tensor entries (R120) -/

def layTensor : List (Nat × Nat × Nat) :=
  [(0, 0, 48), (6, 0, 4), (6, 4, 3), (6, 7, 1), (7, 0, 3), (8, 0, 24), (11, 0, 24), (14, 0, 24), (17, 0, 24), (20, 0, 24), (23, 0, 8),
   (24, 0, 32), (28, 0, 32), (32, 0, 32), (36, 0, 32), (40, 0, 32), (44, 0, 48)]

/-- Every byte of a range of basin SRAM lies in the partition's basins. -/
def rangeOwned (s : State) (n : Nat) (a len : Nat) : Bool :=
  decide (a + len ≤ 2 ^ 29) && (len == 0 || (ownsBasin s n (basinOf a) && ownsBasin s n (basinOf (a + len - 1))))

/-- R120 for one valid entry. -/
def checkTensor (s : State) (n : Nat) (t : Tensor) : Option Nat :=
  let sp := Tensor.space t
  let fineUsed := t.fmt.isBlock || (t.fmt == .int8 && sp == 0)
  let strides := ([1, 2, 3, 4].filter fun k => k != 1 || Tensor.rank t != 1).map fun k => Tensor.stride t k
  if (Fmt.ofCode (Tensor.fmtCode t)).isNone || Tensor.rank t == 0 || decide (5 < Tensor.rank t)
      || (List.range 5).any (fun k => Tensor.ext t k == 0 || (decide (Tensor.rank t ≤ k) && Tensor.ext t k != 1))
      || !onlyFields t layTensor then some stBadField
  else if Tensor.rank t ≤ Tensor.kdim t || (t.fmt.isBlock && Tensor.kdim t != 0) || (decide (2 ≤ Tensor.rank t) && Tensor.stride t 1 == 0) then
    some stBadField
  else if (sp != 0 && sp != 4 && sp != 8) || (if fineUsed then spaceOf (Tensor.fineBase t) != sp else Tensor.fineBase t != 0) then some stBadField
  else if t.fmt.isBopoyr && !coarseOk (Tensor.coarse t) then some stBadField
  else if sp == 0 then
    if Tensor.base t % 32 != 0 || strides.any (fun x => x % t.fmt.packUnit != 0) then some stMisaligned
    else if (List.range (Tensor.copies t)).any fun c =>
        let a := Tensor.base t + c * 0x400000
        let fa := Tensor.fineBase t + c * 0x400000
        let fl := Tensor.fineLen t
        !rangeOwned s n a (Tensor.lastOff t) || (t.fmt.isBlock && !rangeOwned s n fa fl)
          || (decide (1 < Tensor.copies t) && (basinOf a != basinOf (a + Tensor.lastOff t - 1)
              || (t.fmt.isBlock && (basinOf fa != basinOf a || basinOf (fa + fl - 1) != basinOf a)))) then some stNotOwned
    else none
  else if Tensor.base t % 64 != 0 || strides.any (fun x => x % 4 != 0) then some stMisaligned
  else none

/-! ### Taps, generators, mirror table, ownership -/

/-- R128: a tap record of 130 bytes. -/
def tapRecordOk (bs : List Byte) : Bool :=
  let k := ofLE (bs.take 1)
  decide (k ≤ 64) && ofLE ((bs.drop 1).take 1) == 0 &&
    (List.range 64).all fun i => decide (ofLE ((bs.drop (2 + 2 * i)).take 2) < 4096)

/-- Generator entry fields (R250). -/
def genTensor (e : BitVec 128) : Nat := fld e 0 0 12
def genKind (e : BitVec 128) : Nat := fld e 1 4 3
def genValid (e : BitVec 128) : Bool := fbit e 1 7
def genStream (e : BitVec 128) : Nat := fld e 2 0 16
def genThresh (e : BitVec 128) : Nat := fld e 4 0 32

def rangesMeet (a b : List (Nat × Nat)) : Bool := a.any fun x => b.any fun y => overlap x.1 x.2 y.1 y.2

/-- Whether any two of a list of footprints meet. -/
def anyMeet : List (List (Nat × Nat)) → Bool
  | [] => false
  | x :: l => l.any (rangesMeet x) || anyMeet l

/-- R252. -/
def checkGens (s : State) (n : Nat) (pl : Plan) : Option Nat :=
  let es := pl.gens.filter genValid
  let tn := fun (e : BitVec 128) => (pl.tensors.getD (genTensor e) 0 : Tensor)
  if pl.gens.any (fun e => !onlyFields e [(0, 0, 12), (1, 4, 3), (1, 7, 1), (2, 0, 16), (4, 0, 32)])
      || es.any (fun e => decide (2 < genKind e) || (genKind e != 1 && genThresh e != 0) || !Tensor.valid (tn e)) then some stBadField
  else if es.any (fun e => if genKind e = 2 then Tensor.fmt (tn e) != .fp32 else Tensor.fmt (tn e) != .int8) then some stFormatMismatch
  else if es.any (fun e => !Tensor.inSram (tn e) || (Tensor.ranges (tn e)).any fun x => !rangeOwned s n x.1 x.2) then some stNotOwned
  else if anyMeet (es.map fun e => Tensor.ranges (tn e)) then some stBadField
  else none

/-- The local store exists where the table gives the partition persistent granules or a partner (assumption 14). -/
def storeOn (m : MirrorTable) : Bool := MirrorTable.persist m || MirrorTable.hasPartner m

def layMirror : List (Nat × Nat × Nat) :=
  [(0, 0, 256), (32, 0, 48), (38, 0, 16), (40, 0, 24), (43, 0, 3), (44, 0, 16), (46, 0, 24), (52, 0, 48), (58, 0, 32), (64, 0, 32)]

/-- Words of the open carried handles. -/
def carriedWords (p : Part) : Nat := ((p.handles.filter fun h => h.carry).map fun h => h.count).sum

/-- The image size I (R332). -/
def imageSize (p : Part) (m : MirrorTable) : Nat := (MirrorTable.granules m).length + ceilDiv (carriedWords p) 256

/-- R332: MIRROR_PORTS and HOSTED_PORTS are held to its rows whether or not HAS_PARTNER and HOSTS are set. -/
def checkMirror (s : State) (n : Fin 16) (pl : Plan) : Option Nat :=
  let m : MirrorTable := pl.mirror
  let ex := MirrorTable.extents m
  let all := planPorts pl
  let stOk' := fun (a : Nat) => a % 8192 == 0 && imageSpace a 8192
  if !onlyFields m layMirror || ex.any (fun e => decide (65536 < e.1 + e.2)) || anyMeet (ex.map fun e => [e])
      || !stOk' (MirrorTable.lstore m) || !stOk' (MirrorTable.hstore m) then some stBadField
  else if ex.any (fun e => !rangeOwned s n.val (8192 * e.1) (8192 * e.2)) then some stNotOwned
  else if !distinct all || decide (24 < all.length) then some stPlanMismatch
  else if MirrorTable.lgranules m < 2 * imageSize (s.part n) m then some stPlanMismatch
  else if (MirrorTable.mirrorPorts m ++ MirrorTable.hostedPorts m).any (takenByOther s n) then some stInUse
  else none

/-- OWN entries (R383). -/
def ownKind (e : BitVec 64) : Nat := fld e 0 0 8
def ownRing (e : BitVec 64) : Nat := fld e 1 0 3

def ownEntryOk (e : BitVec 64) : Bool :=
  if ownKind e = 1 then onlyFields e [(0, 0, 8), (1, 0, 3), (2, 0, 8), (3, 0, 8)] && decide (1 ≤ fld e 3 0 8) && decide (fld e 3 0 8 ≤ 128)
  else if ownKind e = 2 then onlyFields e [(0, 0, 8), (1, 0, 3), (2, 0, 22), (4, 6, 23)] && decide (1 ≤ fld e 4 6 23)
  else if ownKind e = 3 then onlyFields e [(0, 0, 8), (1, 0, 3), (2, 0, 8)]
  else false

/-- The basins or cistern words of an entry as a range; planes have none. -/
def ownRange (e : BitVec 64) : List (Nat × Nat) :=
  if ownKind e = 1 then [(fld e 2 0 8, fld e 3 0 8)]
  else if ownKind e = 2 then [(0x100000 + fld e 2 0 22, fld e 4 6 23)] else []

/-- Two rings own one basin or word. -/
def ownClash : List (BitVec 64) → Bool
  | [] => false
  | e :: l => l.any (fun f => ownRing f != ownRing e && rangesMeet (ownRange e) (ownRange f)) || ownClash l

/-- R383 with R193. -/
def checkOwn (s : State) (n : Nat) (pl : Plan) : Option Nat :=
  let r := partRange s n
  let inside := fun (e : BitVec 64) =>
    if ownKind e = 1 then decide (r.1 ≤ fld e 2 0 8) && decide (fld e 2 0 8 + fld e 3 0 8 ≤ r.1 + r.2)
    else if ownKind e = 2 then decide (32768 * r.1 ≤ fld e 2 0 22) && decide (fld e 2 0 22 + fld e 4 6 23 ≤ 32768 * (r.1 + r.2))
    else true
  let owners := fun (p : Nat) => ((List.range 8).filter fun k => pl.own.any fun e => ownKind e == 3 && ownRing e == k && (fld e 2 0 8).testBit p).length
  if pl.own.any (fun e => !ownEntryOk e) then some stBadField
  else if pl.own.any (fun e => !inside e) then some stNotOwned
  else if pl.own.any (fun e => !pl.active.testBit (ownRing e)) || ownClash pl.own
      || (List.range 8).any (fun p => owners p != if (PlaneTable.valid pl.planes).testBit p then 1 else 0) then some stPlanMismatch
  else none

/-! ### Ledger bytes (R329) -/

/-- Bytes of a carried region of w words. -/
def regionBytes (w : Nat) : Nat := 16 * w + ceilDiv (3 * w) 8

/-- Residual tensors of the profiles with EN and RESID (R313). -/
def residTensors (s : State) (n : Nat) (tensors : List (BitVec 512)) : List Tensor :=
  (((List.range 16).filter fun p => let w := codecCtl s n p; ctlEn w && ctlResid w && ctlLossy w).map fun p =>
    (tensors.getD (ctlTensor (codecCtl s n p)) 0 : Tensor)).filter fun t => Tensor.valid t

/-- Bytes that one step retains. -/
def retainBytes (s : State) (n : Fin 16) (tensors : List (BitVec 512)) : Nat :=
  (((s.part n).handles.filter fun h => h.carry).map fun h => regionBytes h.count).sum
    + ((residTensors s n.val tensors).map fun t => 4 * Tensor.count t).sum

/-! ### PLAN_LOAD: the check (R385) -/

/-- The major version of ID_BLOCK_VERSION: 2 (R411). -/
def idMajor : Nat := 2

/-- PLAN_LOAD accepted in the life-cycle state (R462). -/
def lcsAccepts (s : State) (test : Bool) : Bool := (s.lcs.state == 2 && test) || (s.lcs.state == 4 && !test)

/-- The highest logical basins that a plan names: in OWN entries for basins and cistern words, in tensors, and in the persistent region (R110, R385). -/
def namedBasins (pl : Plan) : List Nat :=
  (pl.own.filterMap fun e =>
    if ownKind e = 1 then some (fld e 2 0 8 + fld e 3 0 8 - 1)
    else if ownKind e = 2 then some (wordBasin (fld e 2 0 22 + fld e 4 6 23 - 1)) else none) ++
  (pl.tensors.filter fun t => Tensor.valid t && Tensor.inSram t).flatMap (fun t => (Tensor.ranges t).map fun x => basinOf (x.1 + x.2 - 1)) ++
  (MirrorTable.extents pl.mirror).map fun e => (e.1 + e.2 - 1) / 512

/-- R385. DESIGN CHOICE (assumption 46): of several tensor entries that break R120, the one with the lowest index gives the status. -/
def checkPlanLoad (s : State) (n : Fin 16) (d : Desc) : Verdict :=
  let a := plAddr d
  if !imageSpace a (plBytes d) then .reject stBadField 8
  else if plBytes d < 128 then .reject stBadField 16
  else if plFirst d = noStep then .reject stBadField 20
  else if xferFault s n.val a (plBytes d) then (if a % 64 = 0 then .noRead a else .reject stMisaligned 8)
  else
    let h := planHdr s d
    let secs := (List.range 7).filter fun k => PlanHdr.len h k != 0
    if secs.any (fun k => decide (plBytes d < PlanHdr.off h k + PlanHdr.len h k)) then .reject stBadField 16
    else if fld h 0 0 32 != 0x47504C31 || !onlyFields h layPlanHdr || !sectionsWhole h then .reject stBadField 0xFF
    else
      let pl := planOf s d
      let valid := pl.tensors.filter fun t => Tensor.valid t
      if pl.manifest.any (fun e => !manifestEntryOk e) then .reject stBadField 0xFF
      else if a % 64 != 0 then .reject stMisaligned 8
      else if secs.any (fun k => PlanHdr.off h k % 64 != 0) then .reject stMisaligned 0xFF
      else if fld h 4 0 16 != idMajor || !lcsAccepts s pl.test || (partRange s n.val).2 == 0
          || (namedBasins pl).any (fun b => decide (s.spares.enabled ≤ b)) then .reject stPlanMismatch 0xFF
      else match valid.findSome? (checkTensor s n.val) with
        | some st => .reject st 0xFF
        | none =>
          if pl.taps.any fun t => !tapRecordOk t then .reject stBadField 0xFF
          else
            let planes := if PlanHdr.len h 2 == 0 then none
              else match checkPlanes pl.planes with
                | some st => some st
                | none => if (PlaneTable.allPorts pl.planes).any (takenByOther s n) then some stInUse else none
            let mirror := if PlanHdr.len h 3 == 0 then none else checkMirror s n pl
            match planes, checkGens s n.val pl, mirror, checkOwn s n.val pl with
            | some st, _, _, _ => .reject st 0xFF
            | none, some st, _, _ => .reject st 0xFF
            | none, none, some st, _ => .reject st 0xFF
            | none, none, none, some st => .reject st 0xFF
            | none, none, none, none =>
              if ledgerShare s n.val < retainBytes s n pl.tensors then .reject stPlanMismatch 0xFF
              else if ((s.part n).handles.filter fun x => x.carry).any fun x =>
                  !ringOwnsWords { s.part n with plan := some pl } x.ring x.base x.count then .reject stInUse 0xFF
              else .ok

/-! ### Stores (R333, R345) -/

/-- The 16 bytes of a carried handle, packed as in CST_OPEN (R336). -/
def handleBytes (h : Handle) : List Byte :=
  toLE 16 (packFields 128 [(0, 0, 8, h.num), (4, 0, 22, h.base), (8, 0, 23, h.count), (12, 0, 16, (h.wexp % 65536).toNat),
    (14, 0, 1, if h.crnd then 1 else 0), (14, 1, 1, if h.stripe then 1 else 0)] : BitVec 128).toNat

/-- The carried handle that 16 bytes describe, on the ring that owns its region (R343). -/
def handleOfBytes (p : Part) (n step : Nat) (bs : List Byte) : Handle :=
  let x : BitVec 128 := BitVec.ofNat 128 (ofLE (bs.take 16))
  let base := fld x 4 0 22
  let count := fld x 8 0 23
  { num := fld x 0 0 8, fn := n, ring := ((List.range 8).find? fun r => ringOwnsWords p r base count).getD 0, base := base, count := count,
    wexp := signed 16 (fld x 12 0 16), crnd := fbit x 14 0, stripe := fbit x 14 1, carry := true, step := step,
    closing := false }

/-- Carried handles that are open. -/
def carried (p : Part) : List Handle := p.handles.filter fun h => h.carry

/-- The words of some handles, as cistern word and contents. -/
def wordsOf (s : State) (hs : List Handle) : List (Nat × CWord) := hs.flatMap fun h => h.words.map fun w => (w, getWord s w)

/-- The persistent region and the carried regions as they stand. -/
def regionNow (s : State) (n : Fin 16) (step : Nat) : Record :=
  let p := s.part n
  let gs := match mirrorTable p with | some m => MirrorTable.granules m | none => []
  { step := step, handles := carried p, words := wordsOf s (carried p),
    granules := (gs.zipIdx).map fun g => (g.2, memRead s (8192 * g.1) 8192), complete := true }

/-- The bytes of a shard image (R345). -/
def shardImage (r : Record) : List Byte :=
  toLE 4 r.step ++ toLE 4 r.granules.length ++ toLE 2 r.handles.length ++ List.replicate 54 0 ++
    r.granules.flatMap (fun g => g.2) ++ r.handles.flatMap handleBytes ++ r.words.flatMap fun w => rawImage w.2

/-- The bytes that a store keeps its record r in, behind the base and the records before it. The manual gives the base's layout and none for records: DESIGN CHOICE (assumption 47), each follows in the base's form. -/
def recordAt (store : Nat) (base : Record) (before : List Record) (r : Record) : Nat × Nat :=
  (store + ((base :: before).map fun x => (shardImage x).length).sum, (shardImage r).length)

/-- A write of a base into the local store fails: some byte of it lies where a transfer fails (R491). -/
def storeFault (s : State) (n : Fin 16) (m : MirrorTable) (r : Record) : Bool := xferFault s n.val (MirrorTable.lstore m) (shardImage r).length

/-- Write a base into the local store. -/
def writeBase (s : State) (n : Fin 16) (m : MirrorTable) (r : Record) : State :=
  (memWrite s (MirrorTable.lstore m) (shardImage r)).modPart n fun p => { p with
    mirror := { p.mirror with base := r.step, records := [] } }

/-- The base that the local store holds: the region read back from its image. -/
def readBase (s : State) (n : Fin 16) (m : MirrorTable) : Record :=
  let p := s.part n
  let a := MirrorTable.lstore m
  let g := ofLE (memRead s (a + 4) 4)
  let h := ofLE (memRead s (a + 8) 2)
  let hb := a + 64 + 8192 * g
  let hs := (List.range h).map fun i => handleOfBytes p n.val p.mirror.base (memRead s (hb + 16 * i) 16)
  let ws := hs.flatMap fun x => x.words
  { step := ofLE (memRead s a 4), handles := hs,
    words := (ws.zipIdx).map fun w => (w.1, ofRaw (memRead s (hb + 16 * h + 32 * w.2) 32)),
    granules := (List.range g).map fun i => (i, memRead s (a + 64 + 8192 * i) 8192), complete := true }

/-- The bytes of the base that the local store holds, its header first: a read of it fails where a transfer of one of them fails (R491). -/
def baseReadFault (s : State) (n : Fin 16) (m : MirrorTable) : Bool :=
  xferFault s n.val (MirrorTable.lstore m) 64 || xferFault s n.val (MirrorTable.lstore m) (shardImage (readBase s n m)).length

/-- A local store that cannot be written or read (R491): RAS LSTORE_FAULT. -/
def lstoreFault (s : State) (n : Fin 16) (a : Nat) : State := rasLog s rasLstoreFault actFailed (some n) a 0

/-! ### Installing -/

/-- R493: the records of the partition's planes are cleared; only a fence by a higher epoch stands. -/
def clearPlanes (s : State) (n : Fin 16) : State :=
  s.modPart n fun p => { p with planes := p.planes.map fun r => { PlaneRec.reset with fencedBy := r.fencedBy } }

/-- R493: held collective parcels of the partition with an epoch below `keep` are discarded, and their credits go back. -/
def discardHeld (s : State) (n : Fin 16) (keep : Nat) : State :=
  allPorts.foldl (fun s q =>
    if (s.port q).owner == some n.val then
      ((s.port q).held.filter fun x => decide (xEpoch x < keep)).foldl (fun s x => discard s q x 9)
        (s.modPort q fun p => { p with held := p.held.filter fun x => decide (keep ≤ xEpoch x) })
    else s) s

/-- The sluices of partition n become those named, where no other partition owns them; the others are released (R217). Its sluices tell the rank of the plan in force (R272). -/
def assignPorts (s : State) (n : Fin 16) (named : List Nat) (ident : Option (Nat × Nat)) : State :=
  allPorts.foldl (fun s q => s.modPort q fun p =>
    if named.contains q.val then
      if p.owner.isNone || p.owner == some n.val then { p with owner := some n.val, ident := ident } else p
    else if p.owner == some n.val then { p with owner := none, ident := none } else p) s

/-- FIRST_STEP − 1 and its like, modulo 2^32 (R32, R248). -/
def prevStep (k : Nat) : Nat := (k + noStep) % 2 ^ 32

/-- Set the last step number of every ring; no ring stands within a step then (R32). -/
def setLastStep (s : State) (n : Fin 16) (k : Nat) : State :=
  s.modFn n fun f => { f with rings := f.rings.map fun x => { x with lastStep := k, openStep := none } }

/-- Install a checked plan (R385): steps and handles go, tables, epoch and step numbers come. -/
def installPlan (s : State) (n : Fin 16) (d : Desc) : State :=
  let pl := planOf s d
  let s1 := abortSteps s n fun _ => true
  let s2 := discardHeld (clearPlanes s1 n) n (2 ^ 32)
  let s3 := assignPorts s2 n (planPorts pl) (planIdent pl)
  let k := prevStep (plFirst d)
  let s4 := setLastStep (s3.modFn n fun f => { f with rings := f.rings.map fun x => { x with retired := 0 } }) n k
  s4.modPart n fun p => { p with
    handles := carried p, tiles := [], plan := some pl, epoch := PlaneTable.epoch pl.planes, openStep := none, openedValid := false, sealedValid := false,
    steps := [], recovery := false, replayed := none, beats := [], skipped := 0,
    mirror := { Mirror.reset with base := k, syncNeeded := MirrorTable.hasPartner pl.mirror },
    hosted := Hosted.reset }

/-- The partition has no plan after a store that could not be written: a new PLAN_LOAD is needed (R491). CFG_NUM_FP_n reads zero then (R408), and its sluices name no rank (R272). -/
def dropPlan (s : State) (n : Fin 16) : State :=
  let s1 := s.modPart n fun p => { p with plan := none, fp := 0 }
  allPorts.foldl (fun s q => s.modPort q fun p => if p.owner == some n.val then { p with ident := none } else p) s1

/-- PLAN_LOAD applied at the gate: status and detail. -/
def applyPlanLoad (s : State) (n : Fin 16) (d : Desc) : State × Nat × BitVec 160 :=
  let pl := planOf s d
  let s1 := installPlan s n d
  if storeOn pl.mirror then
    let r := regionNow s1 n (prevStep (plFirst d))
    if storeFault s1 n pl.mirror r then (dropPlan (lstoreFault s1 n (MirrorTable.lstore pl.mirror)) n, stAborted, abortDetail 2)
    else (writeBase s1 n pl.mirror r, stOk, 0)
  else (s1, stOk, 0)

/-! ### EPOCH_ADVANCE (R217) -/

def eaEpoch (d : Desc) : Nat := fld d 8 0 32
def eaTable (d : Desc) : Nat := fld d 16 0 48

def tableAt (s : State) (a : Nat) : PlaneTable := BitVec.ofNat 2304 (ofLE (memRead s a 288))

def checkEpochAdvance (s : State) (n : Fin 16) (d : Desc) : Verdict :=
  let p := s.part n
  let a := eaTable d
  if eaEpoch d ≤ p.epoch then .reject stStaleEpoch 8
  else if a = 0 then .ok
  else if !((spaceOf a == 0 && decide (a + 288 ≤ 2 ^ 29)) || spaceOf a == 8) then .reject stBadField 16
  else if a % 64 != 0 then .reject stMisaligned 16
  else if xferFault s n.val a 288 then .noRead a
  else
    let t := tableAt s a
    match checkPlanes t with
    | some st => .reject st 0xFF
    | none =>
      if (PlaneTable.allPorts t).any (takenByOther s n) then .reject stNotOwned 0xFF
      else if PlaneTable.domain t != PlaneTable.domain ((planeTable p).getD 0) then .reject stPlanMismatch 0xFF
      else .ok

/-- The epoch and the table are installed together. Held parcels of an epoch below the new one are discarded (R493); those of the new epoch or a later one, which R219 has held for it, are checked again (DEDUCED, assumption 49). -/
def applyEpochAdvance (s : State) (n : Fin 16) (d : Desc) : State :=
  let s1 := discardHeld (clearPlanes s n) n (eaEpoch d)
  let a := eaTable d
  let s2 := if a = 0 then s1
    else
      let s' := s1.modPart n fun p => { p with plan := p.plan.map fun pl => { pl with planes := tableAt s a } }
      match (s'.part n).plan with
      | some pl => assignPorts s' n (planPorts pl) (planIdent pl)
      | none => assignPorts s' n [] none
  recheck (s2.modPart n fun p => { p with epoch := eaEpoch d })

end Sys2Proof.Machine
end

