-- ==== Sys2Proof/Machine/Recover.lean ====
section
/-! DEFINITION. Ledger, mirror and recovery: releases and folds (R331), mirror records and parcels (R334 to R338), REPLAY (R340, R341), SHARD_RESTORE (R343, R344, R348), and the hosted store (R336). -/
namespace Sys2Proof.Machine

/-! ### Records and bases -/

/-- A base with a record applied: the granules that the record brings, and the carried handles and words at its retire (R333). -/
def applyRecord (b r : Record) : Record :=
  { step := r.step, handles := r.handles, words := r.words, complete := true,
    granules := b.granules.map fun g => match r.granules.find? fun x => x.1 == g.1 with | some y => y | none => g }

/-- Order of store steps: "no step" as a base step precedes step 0 (R248). -/
def stepLe (a b : Nat) : Bool := decide ((a + 1) % 2 ^ 32 ≤ (b + 1) % 2 ^ 32)

/-- A base with the records up to step `t` applied. -/
def stateAfter (b : Record) (rs : List Record) (t : Nat) : Record := (rs.filter fun r => stepLe r.step t).foldl applyRecord b

/-- Granules that a record occupies in a store: its granules, and its raw words at 256 a granule. -/
def Record.size (r : Record) : Nat := r.granules.length + ceilDiv r.words.length 256

/-! ### Mirror parcels (R335, R336) -/

/-- LDG_FDOMAIN.TAG. -/
def fdomain (s : State) : Nat := wbits (s.force 0x70000) 15 0

/-- Send one mirror parcel on a port. -/
def sendMirror (s : State) (n : Fin 16) (port mkind : Nat) (base restore : Bool) (step index sealed count : Nat) (payload : List Byte) : State :=
  let p := s.part n
  let t := (planeTable p).getD 0
  let b := fun (x : Bool) => if x then 1 else 0
  (sendParcel s (fin24 port) n noStep 2
    [(0, 0, 4, 1), (4, 0, 32, PlaneTable.domain t), (8, 0, 32, p.epoch), (12, 0, 32, step), (16, 0, 16, PlaneTable.rank t), (18, 0, 4, mkind),
     (18, 4, 1, b base), (18, 5, 1, b restore), (20, 0, 32, index), (24, 0, 32, sealed), (32, 0, 32, count), (36, 0, 16, fdomain s)] payload).count
    n 9 payload.length

/-- Ports toward the partner, and the one that carries everything but granules. -/
def mirrorPorts (p : Part) : List Nat := match mirrorTable p with | some m => if MirrorTable.hasPartner m then MirrorTable.mirrorPorts m else [] | none => []
def mirrorPort (p : Part) : Nat := (mirrorPorts p).headD 0
def hostedPorts (p : Part) : List Nat := match mirrorTable p with | some m => if MirrorTable.hosts m then MirrorTable.hostedPorts m else [] | none => []

/-- The runs of up to 256 words of a record, handle by handle: handle number, first handle word, words. -/
def wordRuns (r : Record) : List (Nat × Nat × List CWord) :=
  (r.handles.foldl (fun (acc : List (Nat × Nat × List CWord) × List (Nat × CWord)) h =>
    let mine := acc.2.take h.count
    let runs := (List.range (ceilDiv h.count 256)).map fun i => (h.num, 256 * i, ((mine.drop (256 * i)).take 256).map fun w => w.2)
    (acc.1 ++ runs, acc.2.drop h.count)) ([], r.words)).1

/-- Send a record or a transfer: handles, carried words, granules and END in the order of R334; a restore reply gives the granules first (R343). `ps` are the ports that share the granules. -/
def sendRecord (s : State) (n : Fin 16) (ps : List Nat) (r : Record) (base restore : Bool) (sealed : Nat) : State :=
  let p0 := ps.headD 0
  let runs := wordRuns r
  let send := fun (s : State) (port mk index count : Nat) (bs : List Byte) => sendMirror s n port mk base restore r.step index sealed count bs
  let carry := fun (s : State) => runs.foldl (fun s x => send s p0 3 (x.1 * 2 ^ 24 + x.2.1) 0 (x.2.2.flatMap rawImage))
    (r.handles.foldl (fun s h => send s p0 2 0 0 (handleBytes h)) s)
  let grans := fun (s : State) => r.granules.foldl (fun s g => send s (ps.getD (g.1 % max 1 ps.length) p0) 1 g.1 0 g.2) s
  send (if restore then carry (grans s) else grans (carry s)) p0 4 0 (r.handles.length + runs.length + r.granules.length) []

/-! ### The record of a step (R334) -/

/-- Whether the mirror sends new records: a partner holds, or receives, the base. -/
def mirrorLive (p : Part) : Bool := p.mirror.st == .synced || p.mirror.st == .syncing

/-- The record of step r.n at its retire. -/
def stepRecord (s : State) (n : Fin 16) (r : StepRec) : Record :=
  let p := s.part n
  let gs := match mirrorTable p with | some m => MirrorTable.granules m | none => []
  let hit := (gs.zipIdx).filter fun g => r.dirty.contains g.1
  { step := r.n, handles := carried p, words := wordsOf s (carried p), granules := hit.map fun g => (g.2, memRead s (8192 * g.1) 8192),
    complete := true }

/-- A read of the local store's base and of some of its first records fails where a transfer of one of their bytes fails (R491). -/
def storeReadFault (s : State) (n : Fin 16) (m : MirrorTable) (rs : List Record) : Bool :=
  let b := readBase s n m
  baseReadFault s n m || (List.range rs.length).any fun i =>
    let x := recordAt (MirrorTable.lstore m) b (rs.take i) (rs.getD i b)
    xferFault s n.val x.1 x.2

/-- Step k retires: its record goes to the local store and to the partner; a store that cannot be written fails the step (R491). -/
def retireRecord (s : State) (n : Fin 16) (k : Nat) : State :=
  let p := s.part n
  match mirrorTable p, findStep p k with
  | some m, some r =>
    let rec' := stepRecord s n r
    let partner := MirrorTable.hasPartner m
    let s1 :=
      if !storeOn m then modStep s n k fun r => { r with localDone := true }
      else if (let x := recordAt (MirrorTable.lstore m) (readBase s n m) p.mirror.records rec'; xferFault s n.val x.1 x.2) then
        failStep (lstoreFault s n (MirrorTable.lstore m)) n k 4
      else (modStep s n k fun r => { r with localDone := true }).modPart n fun p => { p with
        mirror := { p.mirror with records := p.mirror.records ++ [rec'] } }
    if !partner then modStep s1 n k fun r => { r with acked := true }
    else if mirrorLive (s1.part n) then
      (sendRecord s1 n (mirrorPorts p) rec' false false p.sealed).modPart n fun p => { p with
        mirror := { p.mirror with awaiting := p.mirror.awaiting ++ [k] } }
    else s1
  | _, _ => s

/-! ### Sealing and release (R327, R330, R331) -/

/-- Every parcel of step k of partition n that the device has to send has been sent and verified (R280). -/
def parcelsVerified (s : State) (n : Fin 16) (k : Nat) : Bool :=
  allPorts.all fun q =>
    ((s.port q).unverified.all fun u => !(u.2.2.1 == n.val && u.2.2.2 == k)) &&
    ((s.port q).waiting.all fun u => !(u.part == n.val && u.step == k))

/-- The step that may seal next: the lowest that has not sealed, retired, checked, with nothing unsealed before it. -/
def sealable (s : State) (n : Fin 16) : Option StepRec :=
  match (s.part n).steps.find? fun r => r.fate != .sealed with
  | some r => if r.fate == .open_ && r.retired && r.localDone && r.acked && parcelsVerified s n r.n then some r else none
  | none => none

/-- Step r.n seals (R33, R330). -/
def sealStep (s : State) (n : Fin 16) (r : StepRec) : State :=
  let s1 := completeSeals (modStep s n r.n fun r => { r with fate := .sealed }) n r.n stOk 0
  s1.modPart n fun p => { p with
    sealed := r.n, sealedValid := true,
    steps := if driverRelease s1 n.val then p.steps else p.steps.filter fun x => x.n != r.n }

/-- The base of the local store with the records up to `t` folded in (R331); the records go. -/
def foldStore (s : State) (n : Fin 16) (m : MirrorTable) (t : Nat) : State :=
  let p := s.part n
  let b := stateAfter (readBase s n m) p.mirror.records t
  let keep := p.mirror.records.filter fun r => !stepLe r.step t
  (memWrite s (MirrorTable.lstore m) (shardImage b)).modPart n fun p => { p with
    mirror := { p.mirror with base := b.step, records := keep } }

def lrUpto (d : Desc) : Nat := fld d 8 0 32

/-- R331: not above the last sealed step, and no step up to it is being replayed (R350). -/
def checkRelease (s : State) (n : Fin 16) (d : Desc) : Option (Nat × Nat) :=
  let p := s.part n
  if !p.sealedValid || decide (p.sealed < lrUpto d) || p.steps.any (fun r => r.fate != .sealed && decide (r.n ≤ lrUpto d)) then some (stBadField, 8)
  else none

/-- LEDGER_RELEASE: status and detail. -/
def applyRelease (s : State) (n : Fin 16) (d : Desc) : State × Nat × BitVec 160 :=
  let p := s.part n
  let t := lrUpto d
  let held := p.steps.any fun r => decide (r.n ≤ t)
  if !driverRelease s n.val || !held then (s, stOk, 0)
  else
    let s1 := s.modPart n fun p => { p with steps := p.steps.filter fun r => decide (t < r.n) }
    match mirrorTable p with
    | none => (s1, stOk, 0)
    | some m =>
      if !storeOn m then (s1, stOk, 0)
      else if storeReadFault s n m p.mirror.records || storeFault s n m (stateAfter (readBase s n m) p.mirror.records t) then
        (lstoreFault s n (MirrorTable.lstore m), stAborted, abortDetail 2)
      else
        let s2 := foldStore s1 n m t
        (if mirrorLive p then sendMirror s2 n (mirrorPort p) 6 false false t 0 p.sealed 0 [] else s2, stOk, 0)

/-! ### MIRROR_SYNC (R337) and DETACHED (R338) -/

def allJoined (s : State) (ps : List Nat) : Bool := ps.all fun q => (s.port (fin24 q)).st == .joined
/-- DOWN (R288): dark, seeking, training or quarantined. -/
def portIsDown (p : Port) : Bool := p.st == .dark || p.st == .seeking || p.st == .training || p.st == .quarantined
def allDown (s : State) (ps : List Nat) : Bool := ps.all fun q => portIsDown (s.port (fin24 q))

def checkMirrorSync (s : State) (n : Fin 16) : Verdict :=
  let ps := mirrorPorts (s.part n)
  match mirrorTable (s.part n) with
  | some m =>
    if !MirrorTable.hasPartner m then .reject stBadField 0xFF
    else if !allJoined s ps then .reject stNotJoined 0xFF else .ok
  | none => .reject stBadField 0xFF

/-- The local store cannot be read for a MIRROR_SYNC. R491 has no row for it: DESIGN CHOICE (assumption 47), it ends as a REPLAY that cannot read the store does. -/
def syncBlocked (s : State) (n : Fin 16) : Bool :=
  match mirrorTable (s.part n) with
  | some m => storeReadFault s n m (s.part n).mirror.records
  | none => false

/-- MIRROR_SYNC starts at the gate: HELLO, the base with END, then each record. -/
def beginSync (s : State) (n : Fin 16) (r : Fin 8) (seq : Nat) : State :=
  let p := s.part n
  match mirrorTable p with
  | none => s
  | some m =>
    let b := readBase s n m
    let ps := mirrorPorts p
    let s1 := sendMirror s n (mirrorPort p) 0 true false b.step 0 p.sealed (imageSize p m) []
    let s2 := sendRecord s1 n ps b true false p.sealed
    let s3 := p.mirror.records.foldl (fun s x => sendRecord s n ps x false false p.sealed) s2
    s3.modPart n fun p => { p with mirror := { p.mirror with
      st := .syncing, job := some { fn := n.val, ring := r.val, seq := seq }, stBefore := p.mirror.st, awaitBefore := p.mirror.awaiting,
      target := (p.mirror.records.getLastD b).step, baseAcked := false, awaiting := p.mirror.records.map fun x => x.step } }

/-- End the descriptor that a mirror job completes. -/
def endJob (s : State) (n : Fin 16) (status : Nat) (detail : BitVec 160) : State :=
  match (s.part n).mirror.job with
  | none => s
  | some t =>
    endFlight (s.modPart n fun p => { p with mirror := { p.mirror with job := none } }) n (fin8 t.ring) t.seq status detail

/-- MIRROR_SYNC is the job under way. -/
def syncing (p : Part) : Bool := p.mirror.st == .syncing && p.mirror.job.isSome
def restoring (p : Part) : Bool := p.mirror.st == .restoring && p.mirror.job.isSome

/-- The partner has acknowledged the base and every record of the running MIRROR_SYNC. -/
def finishSync (s : State) (n : Fin 16) : State :=
  let p := s.part n
  if syncing p && p.mirror.baseAcked && p.mirror.awaiting.all fun k => !stepLe k p.mirror.target then
    endJob (s.modPart n fun p => { p with mirror := { p.mirror with st := .synced, syncNeeded := false } }) n stOk 0
  else s

/-- An ACK of the partner (R336); one that comes after the mirror has detached acknowledges nothing (R338). -/
def takeAck (s : State) (n : Fin 16) (base : Bool) (step : Nat) : State :=
  if !mirrorLive (s.part n) then s
  else if base then finishSync (s.modPart n fun p => { p with mirror := { p.mirror with baseAcked := true } }) n
  else
    let s1 := (modStep s n step fun r => { r with acked := true }).count n 10 1
    finishSync (s1.modPart n fun p => { p with
      mirror := { p.mirror with acked := step, awaiting := p.mirror.awaiting.filter fun k => k != step } }) n

/-- Send again what the partner has not acknowledged, record by record from its start (R336), where the local store can be read (R491). -/
def resendMirror (s : State) (n : Fin 16) : State :=
  let p := s.part n
  let ps := mirrorPorts p
  match mirrorTable p with
  | none => s
  | some m =>
    if storeReadFault s n m p.mirror.records then lstoreFault s n (MirrorTable.lstore m) else
    let s1 := if syncing p && !p.mirror.baseAcked then
        sendRecord (sendMirror s n (mirrorPort p) 0 true false p.mirror.base 0 p.sealed (imageSize p m) []) n ps (readBase s n m) true false p.sealed
      else s
    if mirrorLive p then
      (p.mirror.records.filter fun r => p.mirror.awaiting.contains r.step).foldl (fun s x => sendRecord s n ps x false false p.sealed) s1
    else s1

/-! ### REPLAY (R340) -/

def rpFrom (d : Desc) : Nat := fld d 8 0 32

def checkReplay (s : State) (n : Fin 16) (d : Desc) : Verdict :=
  let p := s.part n
  match p.steps with
  | [] => .reject stBadField 8
  | r :: _ => if p.openedValid && decide (r.n ≤ rpFrom d) && decide (rpFrom d ≤ p.opened) then .ok else .reject stBadField 8

/-- Granules that REPLAY rebuilds: those written in the discarded steps, and those with a logged error or of a substituted basin. -/
def rebuildSet (p : Part) (from' : Nat) : List Nat :=
  let gs := match mirrorTable p with | some m => MirrorTable.granules m | none => []
  let dirty := (p.steps.filter fun r => decide (from' ≤ r.n)).flatMap fun r => r.dirty
  (List.range gs.length).filter fun i => dirty.contains (gs.getD i 0) || p.mirror.damaged.contains i

/-- Put granules of a record into basin SRAM. -/
def placeGranules (s : State) (p : Part) (r : Record) (which : List Nat) : State :=
  let gs := match mirrorTable p with | some m => MirrorTable.granules m | none => []
  (r.granules.filter fun g => which.contains g.1).foldl (fun s g => memWrite s (8192 * gs.getD g.1 0) g.2) s

/-- What the ledger retains of step k as a REPLAY reads it (R340, R352): its record; or, where an error has lost the contents, the handles and words of the store's state before the step. The residual tensors lie in the persistent region, which the store rebuilds, when the rank is replaceable (R314); their bytes elsewhere take open values. -/
def retained (s : State) (n : Fin 16) (r : StepRec) (before : Option Record) (fault : UnitFault) : State × StepRec :=
  if fault = .ledgerUe r.n then
    let s1 := rasLog s rasLedgerUe actNone (some n) 0 0
    let p := s1.part n
    let persists := fun (a : Nat) => match mirrorTable p with | some m => (MirrorTable.granules m).contains (a / 8192) | none => false
    let s2 := scramble s1 n none ((r.resid.filter fun b => !persists b.1).map fun b => (b.1, 1))
    match before with
    | some b => (s2, { r with handles := b.handles, words := b.words, resid := [] })
    | none => (scrambleWords s2 (r.words.map fun w => w.1), { r with words := [], resid := [] })
  else (s, r)

/-- REPLAY applied at the gate: status and detail. The hold ends unless a step before FROM_STEP has failed or aborted too (R20, R28, R339). -/
def applyReplay (s : State) (n : Fin 16) (d : Desc) (fault : UnitFault) : State × Nat × BitVec 160 :=
  let p := s.part n
  let k := rpFrom d
  let kept := p.mirror.records.filter fun r => decide (r.step < k)
  let bad := match mirrorTable p with | some m => storeOn m && storeReadFault s n m kept | none => false
  if bad then (lstoreFault s n (match mirrorTable p with | some m => MirrorTable.lstore m | none => 0), stAborted, abortDetail 2)
  else
    let s1 := abortSteps s n fun m => decide (k ≤ m)
    let s2 := s1.modPart n fun p => { p with mirror := { p.mirror with
      records := kept, awaiting := p.mirror.awaiting.filter fun m => decide (m < k) } }
    let s3 := if mirrorLive p then sendMirror s2 n (mirrorPort p) 7 false false k 0 p.sealed 0 [] else s2
    let before := match mirrorTable p with
      | some m => if storeOn m then some (stateAfter (readBase s3 n m) kept (prevStep k)) else none
      | none => none
    let s3' := match before with | some b => placeGranules s3 p b (rebuildSet p k) | none => s3
    match findStep p k with
    | none => (s3', stOk, 0)
    | some r1 =>
      let (s4, r0) := retained s3' n r1 before fault
      let later := p.handles.filter fun h => decide (k ≤ h.step) && h.step != noStep
      let s5 := scrambleWords s4 (later.flatMap fun h => h.words)
      let s6 := r0.words.foldl (fun s w => putWord s w.1 w.2) s5
      let s7 := r0.resid.foldl (fun s b => memWrite s b.1 [b.2]) s6
      let s8 := discardHeld (clearPlanes (setLastStep s7 n (prevStep k)) n) n (2 ^ 32)
      let hi := p.steps.foldl (fun a r => max a r.n) p.opened
      (s8.modPart n fun p => { p with
        handles := r0.handles, recovery := p.steps.any fun r => decide (r.n < k) && (r.fate == .failed || r.fate == .aborted), replayed := some (k, hi), openStep := none,
        mirror := { p.mirror with damaged := [] },
        steps := p.steps.map fun r => if k ≤ r.n then { r with
          fate := .aborted, seals := 0, retired := false, failBits := 0, localDone := false, acked := false, touched := [],
          handles := if r.n = k then r0.handles else r.handles, words := if r.n = k then r0.words else r.words } else r },
       stOk, 0)

/-! ### SHARD_RESTORE (R343, R344, R348) -/

def srImage (d : Desc) : Bool := fbit d 8 0
def srStep (d : Desc) : Nat := fld d 12 0 32
def srAddr (d : Desc) : Nat := fld d 16 0 48

def regionLen (p : Part) : Nat := match mirrorTable p with | some m => (MirrorTable.granules m).length | none => 0

/-- Bytes of a shard image at an address, from its own header. -/
def imageLen (s : State) (a : Nat) : Nat :=
  let g := ofLE (memRead s (a + 4) 4)
  let h := ofLE (memRead s (a + 8) 2)
  let words := (List.range h).map fun i => fld (BitVec.ofNat 128 (ofLE (memRead s (a + 64 + 8192 * g + 16 * i) 16)) : BitVec 128) 8 0 23
  64 + 8192 * g + 16 * h + 32 * words.sum

def checkShardRestore (s : State) (n : Fin 16) (d : Desc) : Verdict :=
  let p := s.part n
  let a := srAddr d
  let persist := match mirrorTable p with | some m => MirrorTable.persist m | none => false
  if srImage d && spaceOf a != 4 && spaceOf a != 8 then .reject stBadField 16
  else if srImage d && a % 64 != 0 then .reject stMisaligned 16
  else if !persist then .reject stBadField 0xFF
  else if !srImage d then (if allJoined s (mirrorPorts p) && !(mirrorPorts p).isEmpty then .ok else .reject stNotJoined 0xFF)
  else if xferFault s n.val a (max 64 (imageLen s a)) then .noRead a
  else if ofLE (memRead s a 4) != srStep d || ofLE (memRead s (a + 4) 4) != regionLen p then .reject stPlanMismatch 0xFF
  else .ok

/-- The shard that an image holds. -/
def imageShard (s : State) (n : Fin 16) (a : Nat) : Record :=
  let p := s.part n
  let g := ofLE (memRead s (a + 4) 4)
  let h := ofLE (memRead s (a + 8) 2)
  let hb := a + 64 + 8192 * g
  let st := ofLE (memRead s a 4)
  let hs := (List.range h).map fun i => handleOfBytes p n.val st (memRead s (hb + 16 * i) 16)
  let ws := hs.flatMap fun x => x.words
  { step := st, handles := hs, words := (ws.zipIdx).map fun w => (w.1, ofRaw (memRead s (hb + 16 * h + 32 * w.2) 32)),
    granules := (List.range g).map fun i => (i, memRead s (a + 64 + 8192 * i) 8192), complete := true }

/-- The steps that a restore discards: their seals complete ABORTED, and the planes' records are cleared (R343, R493). -/
def dropSteps (s : State) (n : Fin 16) : State :=
  let s1 := discardHeld (clearPlanes (abortSteps s n fun _ => true) n) n (2 ^ 32)
  s1.modPart n fun p => { p with steps := [], recovery := false, replayed := none, openStep := none }

/-- A complete shard takes the partition's place: status and detail. -/
def installShard (s : State) (n : Fin 16) (r : Record) (step : Nat) : State × Nat × BitVec 160 :=
  let s1 := dropSteps s n
  let p := s1.part n
  let s2 := placeGranules s1 p r (List.range (regionLen p))
  let s3 := r.words.foldl (fun s w => putWord s w.1 (mkWord w.2.data w.2.spec)) s2
  let s4 := (setLastStep s3 n step).modPart n fun p => { p with
    handles := r.handles, mirror := { p.mirror with st := .none, records := [], awaiting := [], damaged := [], restore := Record.empty } }
  match mirrorTable p with
  | none => (s4, stOk, 0)
  | some m =>
    if storeFault s4 n m { r with step := step } then (dropPlan (lstoreFault s4 n (MirrorTable.lstore m)) n, stAborted, abortDetail 2)
    else (writeBase s4 n m { r with step := step }, stOk, 0)

/-- A restore from the partner starts: HELLO and RESTORE_REQ. -/
def beginRestore (s : State) (n : Fin 16) (r : Fin 8) (seq : Nat) (d : Desc) : State :=
  let p := s.part n
  let q := mirrorPort p
  let s1 := sendMirror s n q 0 false false (srStep d) 0 p.sealed (match mirrorTable p with | some m => imageSize p m | none => 0) []
  let s2 := sendMirror s1 n q 8 false false (srStep d) 0 p.sealed 0 []
  s2.modPart n fun p => { p with mirror := { p.mirror with
    st := .restoring, job := some { fn := n.val, ring := r.val, seq := seq }, stBefore := p.mirror.st, awaitBefore := p.mirror.awaiting, restoreTo := srStep d,
    restore := { Record.empty with step := srStep d }, restoreGot := 0, restoreEnd := none, vouch := noStep } }

/-- SHARD_LOST (R348): the regions read zero, the local store is empty, and nothing opens until the next PLAN_LOAD. -/
def shardLost (s : State) (n : Fin 16) : State :=
  let s1 := dropSteps s n
  let p := s1.part n
  let gs := match mirrorTable p with | some m => MirrorTable.granules m | none => []
  let s2 := gs.foldl (fun s g => memWrite s (8192 * g) (List.replicate 8192 0)) s1
  let s3 := (carried p).foldl (fun s h => h.words.foldl (fun s w => putWord s w wordZero) s) s2
  let s4 := match mirrorTable p with
    | some m =>
      let r := { Record.empty with step := noStep }
      if storeFault s3 n m r then lstoreFault s3 n (MirrorTable.lstore m) else memWrite s3 (MirrorTable.lstore m) (shardImage r)
    | none => s3
  let s5 := s4.modPart n fun p => { p with mirror := { p.mirror with
    st := .lost, records := [], awaiting := [], base := noStep, shardLost := true, restore := Record.empty, damaged := [] } }
  endJob (rasLog s5 rasShardLost actNone (some n) 0 0) n stShardLost (BitVec.ofNat 160 p.mirror.vouch)

/-- Every restore parcel has arrived: the shard is installed. -/
def finishRestore (s : State) (n : Fin 16) : State :=
  let p := s.part n
  match p.mirror.restoreEnd with
  | some c =>
    if restoring p && p.mirror.restoreGot == c then
      let x := installShard s n p.mirror.restore p.mirror.restoreTo
      endJob x.1 n x.2.1 x.2.2
    else s
  | none => s

/-! ### Receiving mirror parcels -/

def xMkind (x : Parcel) : Nat := fld x.hdr 18 0 4
def xBase (x : Parcel) : Bool := fbit x.hdr 18 4
def xRestore (x : Parcel) : Bool := fbit x.hdr 18 5
def xIndex (x : Parcel) : Nat := fld x.hdr 20 0 32
def xSealed (x : Parcel) : Nat := fld x.hdr 24 0 32
def xFdom (x : Parcel) : Nat := fld x.hdr 36 0 16

/-- A GRANULE, HANDLE or CARRIED parcel enters the record that it belongs to. Words are kept by the cistern word that the record's handle gives. -/
def addToRecord (p : Part) (n : Nat) (r : Record) (x : Parcel) : Record :=
  let mk := xMkind x
  if mk = 1 then { r with granules := (r.granules.filter fun g => g.1 != xIndex x) ++ [(xIndex x, x.payload)] }
  else if mk = 2 then { r with handles := r.handles ++ [handleOfBytes p n r.step x.payload] }
  else
    match r.handles.find? fun h => h.num == xIndex x / 2 ^ 24 with
    | some h =>
      { r with words := r.words ++ (List.range (x.payload.length / 32)).map fun i =>
          (h.word (xIndex x % 2 ^ 24 + i), ofRaw ((x.payload.drop (32 * i)).take 32)) }
    | none => r

/-! ### The hosted store (R336, R337) -/

def hostedOf (s : State) (n : Fin 16) : Hosted := (s.part n).hosted
def modHosted (s : State) (n : Fin 16) (f : Hosted → Hosted) : State := s.modPart n fun p => { p with hosted := f p.hosted }

/-- The step of the last complete record, or the base step. -/
def Hosted.last (h : Hosted) : Nat := match h.records.getLast? with | some r => r.step | none => h.baseStep

/-- Granules in use with a further record. -/
def Hosted.need (h : Hosted) (r : Record) : Nat :=
  (match h.base with | some b => b.size | none => 0) + (h.records.map Record.size).sum + r.size

/-- REFUSE: reason, base step and last complete record. -/
def refuse (s : State) (n : Fin 16) (q : Fin 24) (step why : Nat) : State :=
  let h := hostedOf s n
  sendMirror s n q.val 9 false false step 0 (s.part n).sealed 0 (toLE 4 why ++ toLE 4 h.baseStep ++ toLE 4 h.last)

/-- What tells one parcel of a transfer from another: kind and index, or the number of a handle; a parcel sent again is the same parcel. -/
def xKey (x : Parcel) : Nat × Nat := (xMkind x, if xMkind x = 2 then ofLE (x.payload.take 1) else xIndex x)

/-- A parcel enters the transfer that it belongs to. -/
def Xfer.take (t : Xfer) (x : Parcel) : Xfer :=
  if xMkind x = 4 then { t with endCount := some (xCount x) } else { t with got := (t.got.filter fun y => xKey y != xKey x) ++ [x] }

/-- END has arrived and every parcel that it counts. -/
def Xfer.whole (t : Xfer) : Bool := t.endCount == some t.got.length

/-- The record that a whole transfer spells: handles, their words, granules. -/
def Xfer.record (t : Xfer) (p : Part) (n : Nat) : Record :=
  let pick := fun (k : Nat) => t.got.filter fun x => xMkind x == k
  (pick 2 ++ pick 3 ++ pick 1).foldl (addToRecord p n) { Record.empty with step := t.step, complete := true }

def sameXfer (a : Xfer) (st : Nat) (base : Bool) : Bool := a.step == st && a.isBase == base

/-- The transfers after a parcel of step `st` has arrived. -/
def takeXfer (l : List Xfer) (st : Nat) (base : Bool) (x : Parcel) : List Xfer :=
  if l.any fun t => sameXfer t st base then l.map fun t => if sameXfer t st base then t.take x else t
  else l ++ [Xfer.take { step := st, isBase := base, got := [], endCount := none } x]

/-- The transfer that the store takes next: a whole base, or the whole record of the step after its last one that no base transfer precedes; a record that the store holds already needs only its ACK (R336, R337). -/
def Hosted.ready (h : Hosted) : Option Xfer :=
  h.xfers.find? fun t => t.whole &&
    (t.isBase || (!((h.xfers.takeWhile fun u => u != t).any fun u => u.isBase)
      && (t.step == (h.last + 1) % 2 ^ 32 || stepLe t.step h.last)))

/-- One whole transfer is written and acknowledged; without room it waits for a RELEASE, and a store that cannot be written acknowledges nothing (R336, R491). -/
def finishOne (s : State) (n : Fin 16) (q : Fin 24) (m : MirrorTable) (t : Xfer) : State :=
  let p := s.part n
  let h := p.hosted
  let r := t.record p n.val
  let done := fun (s : State) => modHosted s n fun h => { h with xfers := h.xfers.erase t }
  let ack := fun (s : State) => sendMirror s n q.val 5 t.isBase false t.step 0 p.sealed 0 []
  let lost := fun (s : State) => rasLog (done s) rasLstoreFault actNone (some n) (MirrorTable.hstore m) 0
  if t.isBase then
    if xferFault s n.val (MirrorTable.hstore m) (shardImage r).length then lost s
    else ack (modHosted (done s) n fun h => { h with base := some r, baseStep := t.step, records := [] })
  else if stepLe t.step h.last then ack (done s)
  else if MirrorTable.hgranules m < h.need r then s
  else
    let x := recordAt (MirrorTable.hstore m) (h.base.getD Record.empty) h.records r
    if xferFault s n.val x.1 x.2 then lost s
    else ack (modHosted (done s) n fun h => { h with records := h.records ++ [r] })

/-- Take whole transfers, in ascending step, as long as one can be taken. -/
def finishHosted (s : State) (n : Fin 16) (q : Fin 24) (m : MirrorTable) : State :=
  (s.part n).hosted.xfers.foldl (fun s _ => match (s.part n).hosted.ready with | some t => finishOne s n q m t | none => s) s

/-- RESTORE_REQ: the state after the step asked for, flagged RESTORE, from the hosted store (R343). A store that cannot be read delivers nothing: R491 has no row for it (DESIGN CHOICE, assumption 47). -/
def serveRestore (s : State) (n : Fin 16) (q : Fin 24) (m : MirrorTable) (step : Nat) : State :=
  let h := hostedOf s n
  match h.base with
  | none => refuse s n q step 4
  | some b =>
    if stepLe h.baseStep step && stepLe step h.last then
      let rs := h.records.filter fun r => stepLe r.step step
      if xferFault s n.val (MirrorTable.hstore m) (((b :: rs).map fun r => (shardImage r).length).sum) then
        rasLog s rasLstoreFault actNone (some n) (MirrorTable.hstore m) 0
      else sendRecord s n (hostedPorts (s.part n)) { stateAfter b rs step with step := step } false true h.sealed
    else refuse s n q step 4

/-- HELLO on a hosted port (R336, R337): a refused one with BASE leaves the store as it was. -/
def receiveHello (s : State) (n : Fin 16) (q : Fin 24) (m : MirrorTable) (x : Parcel) : State :=
  let rank := xRank x
  let st := xStep x
  let turnDown := fun (why : Nat) => refuse (if xBase x then modHosted s n fun h => { h with baseOk := false } else s) n q st why
  if rank != MirrorTable.hostedRank m then turnDown 2
  else if xBase x && xFdom x == fdomain s then turnDown 1
  else if xBase x && decide (MirrorTable.hgranules m < 2 * xCount x) then turnDown 3
  else
    modHosted s n fun h => { h with
      accepted := true, rank := rank, sealed := xSealed x, baseOk := xBase x || h.baseOk, size := if xBase x then xCount x else h.size,
      xfers := if xBase x then [{ step := st, isBase := true, got := [], endCount := none }] else h.xfers }

/-- A mirror parcel on a hosted port. -/
def receiveHosted (s : State) (n : Fin 16) (q : Fin 24) (m : MirrorTable) (x : Parcel) : State :=
  let h := (s.part n).hosted
  let mk := xMkind x
  let st := xStep x
  if mk = 0 then receiveHello s n q m x
  else if !h.accepted || xRank x != MirrorTable.hostedRank m then
    if mk = 8 then refuse s n q st 2 else s.countPort q 11 1
  else if mk = 8 then serveRestore s n q m st
  else if xBase x && !h.baseOk then s.countPort q 11 1
  else
    let s0 := modHosted s n fun h => { h with sealed := xSealed x }
    if 1 ≤ mk ∧ mk ≤ 4 then
      finishHosted (modHosted s0 n fun h => { h with xfers := takeXfer h.xfers st (xBase x) x }) n q m
    else if mk = 6 then
      finishHosted (modHosted s0 n fun h => { h with
        base := h.base.map fun b => stateAfter b h.records st,
        baseStep := match h.base with | some b => (stateAfter b h.records st).step | none => h.baseStep,
        records := h.records.filter fun r => !stepLe r.step st }) n q m
    else if mk = 7 then
      modHosted s0 n fun h => { h with
        records := h.records.filter fun r => decide (r.step < st),
        xfers := h.xfers.filter fun t => t.isBase || decide (t.step < st) }
    else s0

/-- REFUSE: the mirror stands as before the descriptor that it answers, but for records sent since to a partner that holds the base (R337, R344, R350). -/
def undoJob (s : State) (n : Fin 16) : State :=
  s.modPart n fun p => { p with mirror := { p.mirror with
    st := p.mirror.stBefore,
    awaiting := if p.mirror.stBefore == .synced then
        p.mirror.awaiting.filter fun k => p.mirror.awaitBefore.contains k || !stepLe k p.mirror.target
      else p.mirror.awaitBefore } }

/-- A mirror parcel from the partner. -/
def receivePartner (s : State) (n : Fin 16) (x : Parcel) : State :=
  let p := s.part n
  let mk := xMkind x
  let word := fun (i : Nat) => ofLE ((x.payload.drop (4 * i)).take 4)
  if mk = 5 then takeAck s n (xBase x) (xStep x)
  else if mk = 9 then
    if syncing p then
      endJob (undoJob s n) n (if word 0 = 1 then stDomainConflict else stPlanMismatch) (BitVec.ofNat 160 0xFF)
    else if restoring p then
      endJob (undoJob s n) n stPlanMismatch (packFields 160 [(0, 0, 32, word 1), (4, 0, 32, word 2)])
    else s
  else if restoring p && xRestore x then
    let s1 := (s.modPart n fun p => { p with mirror := { p.mirror with vouch := xSealed x } }).count n 12 x.payload.length
    if mk = 4 then finishRestore (s1.modPart n fun p => { p with mirror := { p.mirror with restoreEnd := some (xCount x) } }) n
    else if mk = 1 ∨ mk = 2 ∨ mk = 3 then
      finishRestore (s1.modPart n fun p => { p with mirror := { p.mirror with
        restore := addToRecord p n.val p.mirror.restore x, restoreGot := p.mirror.restoreGot + 1 } }) n
    else s1
  else s

/-- A mirror parcel of partition n (R278, R336): it leaves the buffer at once. -/
def receiveMirror (s : State) (n : Fin 16) (q : Fin 24) (x : Parcel) : State :=
  let p := s.part n
  match mirrorTable p with
  | none => discard s q x 11
  | some m =>
    if 9 < xMkind x then discard s q x 11
    else if (hostedPorts p).contains q.val then receiveHosted (returnCredits s q x) n q m x
    else if (mirrorPorts p).contains q.val && xRank x == MirrorTable.partnerRank m then receivePartner (returnCredits s q x) n x
    else discard s q x 11

/-- The partial records of a hosted store are dropped (R336, R350): a transfer that is whole stays. -/
def dropPartial (s : State) (n : Fin 16) : State :=
  modHosted s n fun h => { h with xfers := h.xfers.filter fun t => t.whole }

/-- A port goes DOWN; a hosting partition's store drops the records that were arriving on it (R290, R350). -/
def linkDown (s : State) (q : Fin 24) : State :=
  let s1 := match (s.port q).owner with
    | some o => if (hostedPorts (s.part (fin16 o))).contains q.val then dropPartial s (fin16 o) else s
    | none => s
  portDown s1 q

/-- A port becomes JOINED: the records that its loss left unacknowledged are sent again (R336, R350). -/
def linkJoin (s : State) (q : Fin 24) : State :=
  let again := match (s.port q).owner with
    | some o => (mirrorPorts (s.part (fin16 o))).contains q.val && mirrorLive (s.part (fin16 o))
    | none => false
  let s1 := joinPort s q
  match (s.port q).owner with
  | some o => if again && allJoined s1 (mirrorPorts (s1.part (fin16 o))) then resendMirror s1 (fin16 o) else s1
  | none => s1

end Sys2Proof.Machine
end

