-- ==== Sys2Proof/Machine/Commit.lean ====
section
/-! DEFINITION. Staging and commit (R397 to R408): the staging image, the check of a commit and its clamp log, the application of committed values by partitions and by the device, the generation and the fingerprint. -/
namespace Sys2Proof.Machine

/-! ### The staging image (R397 to R399) -/

/-- The offsets of CFG_NUM_FP_n_LO: the only _LO registers of the staged blocks. -/
def isFpLo (off : Nat) : Bool := match regIndex off 0x10200 8 16 with | some _ => true | none => false

/-- A write into a staged block: it enters the staging image, is ignored (a read-only register), or is kept to be logged UNMAPPED at the next commit (R397). -/
def stage (s : State) (off size : Nat) (value : BitVec 64) : State :=
  let bad := { s with cfg := { s.cfg with bad := s.cfg.bad ++ [(off, BitVec.ofNat 64 (value.toNat % 2 ^ (8 * size)))] } }
  if size = 8 && isFpLo off then s
  else if size ≠ 4 ∨ off % 4 ≠ 0 then bad
  else
    match regKind off with
    | .unmapped => bad
    | .readOnly => s
    | .staged _ _ => { s with cfg := { s.cfg with staged := Sparse.insert s.cfg.staged off (BitVec.ofNat 32 value.toNat) } }

/-! ### The check (R402) -/

/-- An entry of the clamp log: OFFSET, LSB, KIND, WRITTEN, APPLIED. -/
abbrev ClampEntry := Nat × Nat × Nat × Nat × Nat

/-- COUNT bounded by a top and set to 0 where the range meets a lower-numbered partition's (R361, R413). -/
def rangeBound (top first a : Nat) (lower : List (Nat × Nat)) : Nat :=
  let b := min a (top - first)
  if lower.any fun x => overlap first b x.1 x.2 && decide (0 < b) && decide (0 < x.2) then 0 else b

/-- The ranges of the partitions below n in an image. -/
def lowerParts (img : RegMap) (n : Nat) : List (Nat × Nat) :=
  (List.range n).map fun m => let w := regGet img (0x10400 + 4 * m); (wbits w 6 0, wbits w 15 8)

/-- A field's value after the bound that depends on lower bits `out` or on lower offsets of the image (R360, R413, R432). -/
def dependentBound (s : State) (img : RegMap) (off lsb : Nat) (out : Word) (a : Nat) : Nat :=
  if off = 0x20008 ∧ lsb = 16 then min a (wbits out 8 0)
  else if off = 0x2000C ∧ lsb = 8 then max a (wbits out 7 0 + 2)
  else match regIndex off 0x10400 4 16, regIndex off 0x40100 4 16 with
    | some n, _ =>
      if lsb = 8 then rangeBound s.spares.enabled (wbits out 6 0) a
        (lowerParts img n)
      else a
    | none, some n =>
      if lsb = 16 then rangeBound 16384 (wbits out 15 0) a
        ((List.range n).map fun m => let w := regGet img (0x40100 + 4 * m); (wbits w 15 0, wbits w 31 16))
      else a
    | none, none => a

/-- The first matching row of R402 for one field: the value applied, and the KIND logged. -/
def checkField (s : State) (img : RegMap) (off : Nat) (out : Word) (f : Field) (v : Nat) : Nat × Option Nat :=
  match f.kind with
  | .locked => if s.cfg.tagLocked then (f.get (regGet s.cfg.committed off), some 4) else (v, none)
  | .reserved => if v = 0 then (0, none) else (0, some 3)
  | .enum codes dflt => if codes.contains v then (v, none) else (dflt, some 2)
  | .nonzero dflt => if v = 0 then (dflt, some 2) else (v, none)
  | .plain => (v, none)
  | .num lo hi =>
    let a := max lo (min hi v)
    let b := dependentBound s img off f.lsb out a
    (b, if b ≠ a then some 5 else if v < lo then some 0 else if hi < v then some 1 else none)

/-- The check of one register: its word, and the entries that it gives. -/
def checkReg (s : State) (img : RegMap) (off : Nat) (fs : List Field) (w : Word) : Word × List ClampEntry :=
  fs.foldl (fun (acc : Word × List ClampEntry) f =>
    let v := f.get w
    let x := checkField s img off acc.1 f v
    (f.put acc.1 x.1, match x.2 with | some k => acc.2 ++ [(off, f.lsb, k, v, x.1)] | none => acc.2)) (0, [])

/-- A CFG_PART_n that was not written keeps its value, unless the ranges below it have come to overlap it: its COUNT is then clamped to 0 (R361). -/
def checkPart (img : RegMap) (n : Fin 16) : RegMap × List ClampEntry :=
  let off := 0x10400 + 4 * n.val
  let w := regGet img off
  let cnt := wbits w 15 8
  if rangeBound 128 (wbits w 6 0) cnt (lowerParts img n.val) = 0 ∧ cnt ≠ 0 then
    (regPut img off (BitVec.ofNat 32 (wbits w 6 0)), [(off, 8, 5, cnt, 0)])
  else (img, [])

/-- The registers that a commit looks at, in ascending offset: those written, with their words, and every CFG_PART_n. -/
def checkList (s : State) : List (Nat × Option Word) :=
  (List.range 16).foldl (fun l n =>
    let off := 0x10400 + 4 * n
    if s.cfg.staged.any fun e => e.1 == off then l else Sparse.insert l off none) (s.cfg.staged.map fun e => (e.1, some e.2))

/-- The image that a commit makes, and the entries of its check. -/
def checkImage (s : State) : RegMap × List ClampEntry :=
  (checkList s).foldl (fun (acc : RegMap × List ClampEntry) e =>
    match e.2, regKind e.1 with
    | some w, .staged _ fs =>
      let x := checkReg s acc.1 e.1 fs w
      (regPut acc.1 e.1 x.1, acc.2 ++ x.2)
    | none, _ =>
      let x := checkPart acc.1 (fin16 ((e.1 - 0x10400) / 4))
      (x.1, acc.2 ++ x.2)
    | _, _ => acc) (s.cfg.committed, [])

/-- PARTIAL_SET entries: the seed words of a partition that were not written beside others that were (R399). -/
def partialSets (s : State) : List ClampEntry :=
  let has := fun (o : Nat) => s.cfg.staged.any fun e => e.1 == o
  (List.range 16).flatMap fun n =>
    let offs := (List.range 4).map fun w => 0x70400 + 16 * n + 4 * w
    if offs.any has then
      (offs.filter fun o => !has o).map fun o => let v := (regGet s.cfg.committed o).toNat; (o, 0, 6, v, v)
    else []

/-- Put an entry behind the entries of lower or equal offset. -/
def insertEntry (e : ClampEntry) : List ClampEntry → List ClampEntry
  | [] => [e]
  | x :: l => if x.1 ≤ e.1 then x :: insertEntry e l else e :: x :: l

/-- All entries of a commit in the order of R402. -/
def clampEntries (s : State) : List ClampEntry :=
  let bad := s.cfg.bad.map fun b => ((b.1, 0, 7, b.2.toNat % 2 ^ 32, 0) : ClampEntry)
  (partialSets s ++ bad).foldl (fun l e => insertEntry e l) (checkImage s).2

/-- Steps 1 to 3 of R400: check, log, and the new committed image. A commit with staged writes is pending on every partition. -/
def commitImage (s : State) : State :=
  let es := clampEntries s
  let seq := (s.cfg.seq + 1) % 256
  let wrote := !s.cfg.staged.isEmpty
  let tag := !s.cfg.tagLocked && s.cfg.staged.any fun e => e.1 == 0x70000
  { s with
    cfg := { s.cfg with
      staged := [], bad := [], committed := (checkImage s).1, tagDue := s.cfg.tagDue || tag, seq := seq,
      clampLog := es.take 64, clampOverflow := decide (64 < es.length), clampSeq := seq },
    parts := if wrote then s.parts.map fun p => { p with cfgPending := true } else s.parts,
    evtStatus := if es.isEmpty then s.evtStatus else s.evtStatus ||| 2 ^ evtClamp }

/-! ### Application (R404, R19) -/

/-- Offsets where the committed image and the image in force differ from their reset values. -/
def cfgOffs (s : State) : List Nat :=
  (s.cfg.committed.map fun e => e.1) ++ (s.cfg.force.map fun e => e.1).filter fun o => !s.cfg.committed.any fun e => e.1 == o

def scopeOf (off : Nat) : Option Scope := match regKind off with | .staged sc _ => some sc | _ => none

/-- The committed value of a register is not in force yet. -/
def differs (s : State) (off : Nat) : Bool := regGet s.cfg.committed off != regGet s.cfg.force off

/-- A device-scoped field is pending (R401). -/
def devPending (s : State) : Bool := (cfgOffs s).any fun o => scopeOf o == some .device && differs s o

/-- Put the committed value of a register in force. -/
def forceReg (s : State) (off : Nat) : State :=
  { s with cfg := { s.cfg with force := regPut s.cfg.force off (regGet s.cfg.committed off) } }

/-- The sluice leaves for good when ENABLE falls: LEAVE without waiting, then DARK; a quarantine ends and the flap history clears (R292, R298). ENABLE rising makes a DARK sluice with an engine seek (R289). -/
def portEnable (s : State) (q : Fin 24) (was now : Bool) : State :=
  let p := s.port q
  if !was && now then
    if p.st == .dark && p.present then s.modPort q fun p => { p.setDark false with st := .seeking } else s
  else if was && !now then
    let s1 := if p.st == .joined || p.st == .leaving then leavePort (endPortOp s q 0x52 stOk) q true else s
    let s2 := s1.modPort q fun p => { p.quiet .dark with leave := p.leave }
    s2.modPort q fun p =>
      { p.setDark true with
        flaps := 0, quarLeft := 0, tx := Dir.reset, rx := Dir.reset, rejoin := none, valid := false, suspect := false, misses := 0 }
  else s

/-- Put the committed value of a sluice register in force; a MAX_WIDTH below the width of a link that is up narrows it (R286). -/
def forcePort (s : State) (q : Nat) (off : Nat) : State :=
  let was := (regGet s.cfg.force off).getLsbD 0
  let s1 := forceReg s off
  if off % 0x800 = 0 then
    let s2 := portEnable s1 (fin24 q) was ((regGet s1.cfg.force off).getLsbD 0)
    if linkUp (s2.port (fin24 q)) then settleTx s2 (fin24 q) else s2
  else s1

/-- The sluice registers whose owner `sel` selects take their committed values. -/
def forcePorts (s : State) (sel : Option Nat → Bool) : State :=
  (cfgOffs s).foldl (fun s o =>
    match scopeOf o with
    | some (.sluice q) => if differs s o && sel (s.port (fin24 q)).owner then forcePort s q o else s
    | _ => s) s

/-- Sluices without an owner apply a commit at once (R299). -/
def forceUnowned (s : State) : State := forcePorts s fun o => o.isNone

/-- Some partition-scoped committed value is not in force for partition n. -/
def partDiffers (s : State) (n : Fin 16) : Bool :=
  let p := s.part n
  p.numerics != regGet s.cfg.committed 0x10100 || p.arrayMode != regGet s.cfg.committed 0x50100 || p.cstRetire != regGet s.cfg.committed 0x60104
    || (cfgOffs s).any fun o => differs s o && (match scopeOf o with
        | some (.part k) => k == n.val
        | some (.sluice q) => (s.port (fin24 q)).owner == some n.val
        | _ => false)

/-- Partition n applies the committed partition-scoped values (R404); the flag says whether any value changed. -/
def applyPart (s : State) (n : Fin 16) : State × Bool :=
  let ch := partDiffers s n
  let s1 := (cfgOffs s).foldl (fun s o =>
    match scopeOf o with
    | some (.part k) => if k == n.val && differs s o then forceReg s o else s
    | _ => s) s
  let s2 := forcePorts s1 fun o => o == some n.val
  (s2.modPart n fun p => { p with
    numerics := regGet s.cfg.committed 0x10100, arrayMode := regGet s.cfg.committed 0x50100,
    cstRetire := regGet s.cfg.committed 0x60104, cfgPending := false }, ch)

/-- Every partition stands at a Step Gate (R18, R19). -/
def allAtGate (s : State) : Bool := s.parts.toList.all fun p => p.openStep.isNone

/-- Partitions whose applied range a device-scoped application changes (R361). -/
def rangeChanges (s : State) : List (Fin 16) :=
  allParts.filter fun n => differs s (0x10400 + 4 * n.val)

/-- The device-scoped values come into force together, and the tag locks (R11, R19); partitions whose range changes close for FUNCTION_RESET (R361). The flag says whether any value changed. -/
def applyDevice (s : State) : State × Bool :=
  let ch := devPending s
  let old := rangeChanges s
  let s1 := (cfgOffs s).foldl (fun s o => if scopeOf o == some .device && differs s o then forceReg s o else s) s
  let s2 := { s1 with cfg := { s1.cfg with tagLocked := s1.cfg.tagLocked || s1.cfg.tagDue, tagDue := false } }
  (old.foldl (fun s' n =>
    let busy := (s'.part n).reason == .functionReset && (s'.part n).shutter != .open_
    let before := if busy then (s'.part n).wipeRange else [partRange s n.val]
    (requestClosure s' n .functionReset none 0 0 0).modPart n fun p => { p with wipeRange := before ++ [partRange s' n.val] }) s2, ch)

/-! ### Generation and fingerprint (R406 to R408) -/

/-- A number as a key that orders its `k` little-endian bytes as a byte string. -/
def byteKey (k x : Nat) : Nat := ofLE (toLE k x).reverse

/-- Insert into a rising list without duplicates. -/
def insertKey (key : Nat → Nat) (x : Nat) : List Nat → List Nat
  | [] => [x]
  | y :: l => if key x < key y then x :: y :: l else if key x = key y then y :: l else y :: insertKey key x l

/-- Count, then the entries of `k` bytes, sorted as byte strings and without duplicates. -/
def sortedEntries (k : Nat) (xs : List Nat) : List Byte :=
  let l := xs.foldl (fun l x => insertKey (byteKey k) x l) []
  toLE 4 l.length ++ l.flatMap (toLE k)

/-- The byte string of R407. -/
def fpString (s : State) (n : Fin 16) (pl : Plan) : List Byte :=
  let p := s.part n
  toLE 4 p.numerics.toNat ++ toLE 4 p.arrayMode.toNat ++ sortedEntries 16 (pl.manifest.map fun e => e.toNat) ++
    sortedEntries 4 ((pl.tensors.filter fun t => Tensor.valid t && (Tensor.fmt t).isBopoyr).map fun t => Tensor.coarse t) ++
    ((List.range 15).flatMap fun i =>
      let ctl := (codecCtl s n.val (i + 1)).toNat
      toLE 4 (ctl - bits ctl 19 8 * 256) ++ toLE 4 (s.force (0x3C004 + 0x80 * n.val + 8 * (i + 1))).toNat) ++
    sortedEntries 16 ((pl.gens.filter genValid).map fun e => e.toNat - e.toNat % 4096)

/-- The fingerprint: zero without a plan (R408). -/
def fingerprint (s : State) (n : Fin 16) : BitVec 64 :=
  match (s.part n).plan with
  | some pl => BitVec.ofNat 64 (crc64 (fpString s n pl))
  | none => 0

/-- CFG_GEN_n increments once for a gate where something was applied, and the fingerprint is computed again. -/
def bumpGen (s : State) (n : Fin 16) : State :=
  let f := fingerprint s n
  s.modPart n fun p => { p with gen := p.gen + 1, fp := f }

end Sys2Proof.Machine
end

