-- ==== Sys2Proof/Machine/Power.lean ====
section
/-! DEFINITION. The power and ageing manager (R415 to R433): the beat-rate table, the target, planned changes and taps, the emergency reduction, samples, sentinels, and the faults of the supply that leave the device running. -/
namespace Sys2Proof.Machine

/-! ### The beat rate (R418) -/

/-- Rows of R418: code, M beats/s at 40, 85 and 110 °C. -/
def rateRows : List (Nat × Nat × Nat × Nat) :=
  [(20, 832, 800, 752), (40, 1144, 1100, 1034), (68, 1508, 1450, 1363), (84, 1695, 1630, 1532), (100, 1872, 1800, 1692),
   (116, 2038, 1960, 1842), (132, 2184, 2100, 1974), (148, 2309, 2220, 2087)]

/-- The two rows that a code lies between; below the table the first pair, above it the last. -/
def rateSegment : List (Nat × Nat × Nat × Nat) → Nat → (Nat × Nat × Nat × Nat) × (Nat × Nat × Nat × Nat)
  | a :: b :: l, c => if c ≤ b.1 ∨ l = [] then (a, b) else rateSegment (b :: l) c
  | _, _ => ((20, 832, 800, 752), (40, 1144, 1100, 1034))

/-- 560 times the rate of one column at a code. -/
def columnRate (c c0 c1 r0 r1 : Nat) : Int := 560 * (r0 : Int) + ((r1 : Int) - r0) * ((c : Int) - c0) * ((560 / (c1 - c0) : Nat) : Int)

/-- 504,000 times the table's rate in M beats/s, at a VCORE code and a PWR_TEMP code. -/
def tableRate (code tj : Nat) : Nat :=
  let seg := rateSegment rateRows code
  let col := fun (f : Nat × Nat × Nat × Nat → Nat) => columnRate code seg.1.1 seg.2.1 (f seg.1) (f seg.2)
  let a := col fun r => r.2.1
  let b := col fun r => r.2.2.1
  let d := col fun r => r.2.2.2
  let t : Int := (tj : Int) - 160        -- quarter degrees Celsius
  (if t ≤ 160 then 900 * a
   else if t ≤ 340 then 900 * a + 5 * (b - a) * (t - 160)
   else 900 * b + 9 * (d - b) * (t - 340)).toNat

/-- V² × rate, up to a constant factor. -/
def powerFactor (code tj : Nat) : Nat := (220 + code) ^ 2 * tableRate code tj

/-! ### The target (R416, R417, R421) -/

def pwrReg (s : State) (k : Nat) : Word := s.force (0x20000 + 4 * k)

/-- VMAX in AUTO, CODE in FIXED. -/
def vsetCode (s : State) : Nat := if wbits (pwrReg s 0) 1 0 = 1 then wbits (pwrReg s 2) 24 16 else wbits (pwrReg s 2) 8 0

def emergC (s : State) : Nat := wbits (pwrReg s 3) 15 8
def limitC (s : State) : Nat := wbits (pwrReg s 3) 7 0
def hystC (s : State) : Nat := wbits (pwrReg s 3) 20 16

/-- The PWR_TEMP code of a temperature in °C. -/
def tempCode (c : Nat) : Nat := 4 * (c + 40)

/-- A reading of every sample of the last PWR_CAP.WINDOW_MS, newest first: 100 samples a millisecond (R423). -/
def inWindow (s : State) (f : PSample → Nat) : List Nat := (s.power.window.take (100 * wbits (pwrReg s 1) 22 16)).map f

/-- The predicted power in 0.1 W at a code: the average over the window times the ratio of the new V² × rate to the old (R421). -/
def predictedPower (s : State) (c : Nat) : Nat :=
  (inWindow s fun x => x.die).sum * powerFactor c s.power.tjMax / max 1 ((inWindow s fun x => x.die).length * powerFactor s.power.measCode s.power.tjMax)

/-- Engine-die power within the cap in force: WATTS, and 0.93 × VIN × 46 A for VIN from 38 to 40 V (R416). -/
def withinCap (s : State) (c : Nat) : Bool :=
  let p := s.power
  let xs := inWindow s fun x => x.die
  let new := xs.sum * powerFactor c p.tjMax
  let old := xs.length * powerFactor p.measCode p.tjMax
  decide (new ≤ 10 * wbits (pwrReg s 1) 10 0 * old) && (!(decide (1520 ≤ p.vin) && decide (p.vin < 1600)) || decide (1000 * new ≤ 10695 * p.vin * old))

/-- VCORE current within 100 A × (PHASES − 2). -/
def withinCurrent (s : State) (c : Nat) : Bool :=
  let p := s.power
  decide (p.amps * ((220 + c) * tableRate c p.tjMax) ≤ 100 * (p.phases - 2) * ((220 + p.measCode) * tableRate p.measCode p.tjMax))

def withinTemp (s : State) (c : Nat) : Bool := 
  let xs := inWindow s fun x => x.die
  decide (Config.predictedTemp (inWindow s fun x => x.tj) (xs.sum / max 1 xs.length) (predictedPower s c) ≤ limitC s)

/-- The LIMIT code of the first condition that a code breaks: CAP, THERMAL, CURRENT. -/
def breaks (s : State) (c : Nat) : Option Nat :=
  if !withinCap s c then some 2 else if !withinTemp s c then some 3 else if !withinCurrent s c then some 6 else none

/-- The highest code at or below `c` that breaks nothing, and the condition that binds (1 SETTING). -/
def findTarget (s : State) : Nat → Nat → Nat × Nat
  | 0, why => (0, why)
  | c + 1, why => match breaks s (c + 1) with | none => (c + 1, why) | some w => findTarget s c w

/-! ### Taps (R419, R420, R429) -/

def coveredOf (s : State) (b : Nat) : Nat := Sparse.get 0 s.power.covered b
/-- The ceiling of a basin's taps; the fused taps have 0.80 V (R444). -/
def ceilingOf (s : State) (b : Nat) : Nat := Sparse.get 100 s.power.ceiling b

def logicalBasins (s : State) : List Nat := List.range (min 128 s.spares.enabled)

def lowestCeiling (s : State) : Nat := (logicalBasins s).foldl (fun a b => min a (ceilingOf s b)) 148

/-- Queue a tap re-plan for a basin, in place of an earlier one. -/
def queueTaps (s : State) (b cov ceil : Nat) : State :=
  { s with power := { s.power with replan := s.power.replan.filter (fun x => x.1 != b) ++ [(b, cov, ceil)] } }

/-- The taps that a basin has, or will have once its re-plan applies. -/
def plannedTaps (s : State) (b : Nat) : Nat × Nat :=
  match s.power.replan.find? fun x => x.1 == b with
  | some x => x.2
  | none => (coveredOf s b, ceilingOf s b)

/-- Apply those of the re-plans `xs` whose basins `sel` selects; one that a newer re-plan of its basin has replaced leaves that one queued. While the firmware is down, taps hold (R13, R431). -/
def applyTaps (s : State) (xs : List (Nat × Nat × Nat)) (sel : Nat → Bool) : State :=
  if !s.lcs.fwUp then s
  else
  let mine := xs.filter fun x => sel x.1
  { s with power := { s.power with
    replan := s.power.replan.filter fun x => !mine.contains x,
    covered := mine.foldl (fun l x => Sparse.put 0 l x.1 x.2.1) s.power.covered,
    ceiling := mine.foldl (fun l x => Sparse.put 100 l x.1 x.2.2) s.power.ceiling } }

/-- Basins whose taps change at once: those of no partition, and those of idle partitions with an open Shutter (R18, R420), but for the partition whose gate is applying requests (R17). -/
def tapsNow (s : State) (gate : Option (Fin 16)) : State :=
  applyTaps s s.power.replan fun b => match basinPart s b with
    | none => true
    | some n => (s.part n).shutter == .open_ && idle s n && gate != some n

/-- The VSRAM code of a VCORE code: 50 mV above it, from 0.70 V to 0.95 V (R415). -/
def vsramOf (c : Nat) : Nat := min 160 (max 60 (c + 20))

/-- VCORE moves to a code with VSRAM: VSRAM is raised before VCORE, and lowered after it (R415). -/
def setVcore (s : State) (c : Nat) : State :=
  let p := s.power
  let v := vsramOf c
  let fs := if p.code < c then [(true, v), (false, c)] else if c < p.code then [(false, c), (true, v)] else []
  { s with power := { p with code := c, vsram := v, frames := p.frames ++ fs } }

/-- A partition that owns basins and accepts requests stands idle. -/
def idleOwner (s : State) : Bool := allParts.any fun n => (partRange s n.val).2 != 0 && (s.part n).shutter == .open_ && idle s n

/-! ### Planned changes (R420, R421) -/

/-- The manager plans and the rails are up. -/
def managerRuns (s : State) : Bool := s.lcs.fwUp && s.sys.rails

/-- Where VCORE goes at an opportunity from the target `c`: down by any amount, or up by at most 8 codes under the lowest ceiling, and not up during an emergency (R420, R425). -/
def nextCode (s : State) (c : Nat) : Nat :=
  let p := s.power
  if c ≤ p.code then c else if p.emergency then p.code else max p.code (min c (min (p.code + 8) (lowestCeiling s)))

/-- One opportunity: choose the target with the ageing offset that comes into force now, move VCORE toward it, and queue taps for a ceiling that does not cover it. During an emergency only a reduction is made, and the raise is planned after it (R431). -/
def planVcore (s : State) (gate : Option (Fin 16)) : State :=
  if !managerRuns s then s
  else
    let s0 := { s with power := { s.power with offset := s.power.nextOffset } }
    let c := findTarget s0 (min 148 (vsetCode s0 + s0.power.offset)) 1
    let new := nextCode s0 c.1
    if s0.power.emergency then
      let s1 := setVcore s0 new
      { s1 with power := { s1.power with target := new } }
    else
      let s1 := if lowestCeiling s0 < c.1 then
          tapsNow ((logicalBasins s0).foldl (fun s b => let t := plannedTaps s b; if t.2 < c.1 then queueTaps s b t.1 c.1 else s) s0) gate
        else s0
      let s2 := setVcore s1 new
      { s2 with power := { s2.power with
        target := c.1, limit := if new = c.1 then c.2 else if lowestCeiling s2 < c.1 then 5 else 0 } }

/-- An opportunity would move VCORE: a planned change waits for one (R420). -/
def vcoreDue (s : State) (n : Fin 16) : Bool := (partRange s n.val).2 != 0 && (planVcore s (some n)).power.code != s.power.code

/-- The management-plane requests of partition n's gate: voltage before taps, and of the taps those that were queued when the gate began (R17). -/
def powerGate (s : State) (n : Fin 16) : State :=
  let s1 := if (partRange s n.val).2 = 0 then s else planVcore s (some n)
  applyTaps s1 s.power.replan fun b => ownsBasin s1 n.val b

/-! ### Registers (R433) -/

/-- A fraction on the register's grid; off the grid the manual gives no rounding, and either neighbour may be reported. -/
def reported (num den : Nat) : Nat := if num % den = 0 then num / den else num / den + if Config.reportUp num den then 1 else 0

/-- The basin runs a spare row (R108). -/
def runsSpareRow (s : State) (b : Nat) : Bool := s.spares.rowMap.any fun x => x.1 == b

/-- How far a basin runs below the rate of its table and its drift, in 0.01 %: at most 2 % where its ceiling lies above the VCORE in force (R419), and for a spare row (R39). -/
def slackOf (s : State) (b : Nat) : Nat :=
  (if s.power.code < ceilingOf s b then (Config.aboveSlack s.power.code (ceilingOf s b)).val else 0)
    + if runsSpareRow s b then (Config.spareSlack b).val else 0

/-- The planned rate of a basin in M beats/s (R418, R419, R429). -/
def basinRate (s : State) (b : Nat) : Nat :=
  reported (tableRate s.power.code s.power.tjMax * (10000 - slackOf s b)) (504000 * (10000 + coveredOf s b))

/-- The rate loss of a basin below R418, in 0.01 %. -/
def rateLoss (s : State) (b : Nat) : Nat := reported (10000 * (coveredOf s b + min 10000 (slackOf s b))) (10000 + coveredOf s b)

/-- The drift of a basin, in 0.01 % (R429). -/
def driftOf (s : State) (b : Nat) : Nat :=
  let x := Config.nearSentinels b
  max (Sparse.get 0 s.power.sentinels x.1) (Sparse.get 0 s.power.sentinels x.2)

def maxOf (xs : List Nat) : Nat := xs.foldl max 0
/-- The mean of readings, as a register reports it. -/
def meanOf (xs : List Nat) : Nat := reported xs.sum (max 1 xs.length)
def minOf (xs : List Nat) : Nat := match xs with | [] => 0 | x :: l => l.foldl min x

/-- The read-only PWR registers by index from 0x0002_0100. -/
def pwrStatus (s : State) (k : Nat) : Nat :=
  let p := s.power
  match k with
  | 0 => p.limit % 8 + (if p.ageChoice then 8 else 0) + (if p.plFault then 16 else 0) + p.phases % 32 * 32
  | 1 => p.code % 512 + p.target % 512 * 2 ^ 16
  | 2 => meanOf (inWindow s fun x => x.die) % 2 ^ 16 + meanOf (inWindow s fun x => x.input) % 2 ^ 16 * 2 ^ 16
  | 3 => p.tjMax % 1024 + p.tjMean % 1024 * 2 ^ 16
  | 4 => minOf ((logicalBasins s).map (basinRate s)) % 4096 + maxOf ((logicalBasins s).map (basinRate s)) % 4096 * 2 ^ 16
  | 5 =>
    reported (maxOf ((logicalBasins s).map (driftOf s))) 10 % 256 + reported (5 * p.offset) 2 % 32 * 256
      + maxOf ((logicalBasins s).map (rateLoss s)) % 1024 * 2 ^ 16
  | _ => p.vin % 4096 + p.iin % 4096 * 2 ^ 16

/-! ### Commands -/

def bumpPower (s : State) (i k : Nat) : State := { s with power := { s.power with counters := bump s.power.counters i k } }

/-- The highest code at or below `c` within the current limit. -/
def sagTo (s : State) : Nat → Nat
  | 0 => 0
  | c + 1 => if withinCurrent s (c + 1) then c + 1 else sagTo s c

/-- FG2-P lets VCORE fall where its current exceeds 100 A × (PHASES − 2) (R417). -/
def sag (s : State) : State :=
  if withinCurrent s s.power.code then s
  else
    let s1 := setVcore s (sagTo s s.power.code)
    { s1 with power := { s1.power with limit := 6 } }

/-- The readings of a sample come in (R416, R417, R423, R424): PL_FAULT_N is asserted for a failed phase, an overcurrent, a hot FG2-P or an input out of range, and the registers show the measurements. -/
def takeReadings (s : State) (m : PowerMeas) : State :=
  let p := s.power
  let tj := maxOf m.sensors
  let ph := min 24 m.phases
  { s with power := { p with
    measCode := p.code, window := ({ die := m.die, input := m.input, tj := tj } :: p.window).take 10000, tjMax := tj, tjMean := meanOf m.sensors,
    vin := m.vin, iin := m.iin, amps := m.amps, phases := ph,
    plFault := m.overcurrent || m.stageHot || decide (ph < 24) || decide (m.vin < 1520) || decide (2480 < m.vin) } }

/-- POWER_SAMPLE (R423, R424): the readings come in; with the rails up, 10 µs pass at the condition in force, VCORE sags where its current exceeds the limit, and an idle partition that owns basins lets the manager act at once. -/
def powerSample (s : State) (m : PowerMeas) : State :=
  if s.sys.porst then s
  else if !s.sys.rails then takeReadings s m
  else
    let s1 := bumpPower s (1 + s.power.limit % 7) 10
    let uj := s1.power.microJ + m.die
    let s2 := sag (takeReadings { s1 with power := { s1.power with microJ := uj, counters := setV s1.power.counters 0 (uj / 1000) } } m)
    if idleOwner s2 then tapsNow (planVcore s2 none) none else s2

/-- VCORE falls by 16 codes, to code 20 at the lowest (R425); a raise under way is withdrawn (R431). -/
def emergencyFall (s : State) (tj : Nat) : State :=
  let s1 := setVcore s (if s.power.code ≤ 20 then s.power.code else max 20 (s.power.code - 16))
  { s1 with power := { s1.power with target := s1.power.code, limit := 4, tjMax := tj, emergency := true } }

/-- THERMAL_EMERGENCY: the maximum reading reaches EMERG_C. -/
def thermalEmergency (s : State) (tj : Nat) : State :=
  if !s.sys.rails || s.power.emergency || decide (tj < tempCode (emergC s)) then s
  else
    let s1 := bumpPower (emergencyFall s tj) 8 1
    { s1 with evtStatus := s1.evtStatus ||| 2 ^ evtThermEmerg }

def execThermalEmergency (tj : Nat) (s : State) : Result := .next (thermalEmergency s tj)

/-- EMERGENCY_STEP: another 1 ms at or above EMERG_C. -/
def emergencyStep (s : State) (tj : Nat) : State :=
  if s.sys.rails && s.power.emergency && decide (tempCode (emergC s) ≤ tj) then emergencyFall s tj else s

def execEmergencyStep (tj : Nat) (s : State) : Result := .next (emergencyStep s tj)

/-- EMERGENCY_END: the reading falls below EMERG_C − HYST; VCORE rises only through R420. -/
def emergencyEnd (s : State) (tj : Nat) : State :=
  if s.sys.rails && s.power.emergency && decide (tj < tempCode (emergC s - hystC s)) then
    { s with power := { s.power with emergency := false, limit := 0, tjMax := tj } }
  else s

def execEmergencyEnd (tj : Nat) (s : State) : Result := .next (emergencyEnd s tj)

/-- PHASE_FAULT (R417): PL_FAULT_N is asserted, the limit falls, and VCORE falls where its current exceeds it. -/
def phaseFault (s : State) (phases : Nat) : State :=
  if !s.sys.rails then s
  else
    sag { s with power := { s.power with phases := min 24 phases, plFault := true } }

def execPhaseFault (phases : Nat) (s : State) : Result := .next (phaseFault s phases)

/-- VIN_LOW (R416): the input reads between 38 and 40 V; the cap in force falls at the next opportunity. -/
def vinLow (s : State) (vin : Nat) : State :=
  if s.sys.rails && decide (1520 ≤ vin) && decide (vin < 1600) then
    let s1 := { s with power := { s.power with vin := vin } }
    if idleOwner s1 then tapsNow (planVcore s1 none) none else s1
  else s

def execVinLow (vin : Nat) (s : State) : Result := .next (vinLow s vin)

/-- FIRMWARE_STOP (R13): VCORE and taps hold from here on. -/
def execFirmwareStop (s : State) : Result := .next { s with lcs := { s.lcs with fwUp := false } }

/-! ### Ageing (R428, R429) -/

/-- The smallest offset, up to `most`, that restores a basin's table rate under a drift. -/
def offsetFor (s : State) (base drift : Nat) : Nat → Nat → Nat
  | 0, off => off
  | k + 1, off =>
    if 10000 * tableRate (base + off) s.power.tjMax < (10000 + drift) * tableRate base s.power.tjMax then offsetFor s base drift k (off + 1) else off

/-- The largest offset that PWR_AGE and 0.92 V allow, in codes. -/
def mostOffset (s : State) : Nat := min (wbits (pwrReg s 4) 20 16 * 2 / 5) (148 - vsetCode s)

/-- A sentinel may be measured: the basin beside it is idle (R428). -/
def sentinelFree (s : State) (i : Nat) : Bool := !(s.drains.any fun e => e.1 == Config.sentinelBasin (i % 64))

/-- SENTINEL_MEASURE: the readings of the sentinels beside idle basins come in, and basins whose drift exceeds what their taps in force cover by more than 0.5 % are re-planned. -/
def sentinelMeasure (s : State) (offered : List (Nat × Nat)) : State :=
  if !managerRuns s then s
  else
    let readings := offered.filter fun x => sentinelFree s x.1
    let (time, s0) := s.draw
    let s1 := bumpPower { s0 with power := { s0.power with
      sentinels := readings.foldl (fun l x => Sparse.put 0 l (x.1 % 64) (x.2 % 2 ^ 16)) s0.power.sentinels, sweepTime := time } } 10 readings.length
    let due := (logicalBasins s1).filter fun b => decide (coveredOf s1 b + 50 < driftOf s1 b)
    if due.isEmpty then s1
    else
      let rate := (pwrReg s1 0).getLsbD 2
      let s2 := due.foldl (fun s b => queueTaps s b (driftOf s b) (plannedTaps s b).2) s1
      let off := if rate then 0
        else maxOf ((logicalBasins s2).map fun b => offsetFor s2 (vsetCode s2) (plannedTaps s2 b).1 (mostOffset s2) 0)
      let s3 := bumpPower { s2 with power := { s2.power with nextOffset := off, ageChoice := off == 0 } } 9 1
      let s4 := tapsNow s3 none
      if idleOwner s4 then tapsNow (planVcore s4 none) none else s4

def execSentinelMeasure (readings : List (Nat × Nat)) (s : State) : Result := .next (sentinelMeasure s readings)

end Sys2Proof.Machine
end

