-- ==== Sys2Proof/Machine/Snapshot.lean ====
section
/-! DEFINITION. Snapshot images and slots (R29 to R31, R457, R458). -/
namespace Sys2Proof.Machine

/-- Little-endian 32-bit words of a number, `k` of them. -/
def wordsLE : Nat → Nat → List Word
  | 0, _ => []
  | k + 1, x => BitVec.ofNat 32 x :: wordsLE k (x / 2 ^ 32)

/-- A list of 64-bit counters as words. -/
def counterWords (xs : List Nat) : List Word := xs.flatMap fun x => wordsLE 2 x

/-- The 1,152 words of an image of partition n (R457); TIME is open, and so are the counters of waits (8, 11 and 16), since no time is counted. -/
def snapImage (s : State) (n : Fin 16) (step : Nat) (onDemand : Bool) (time mirrorWait captureWaits codecWait : Nat) : List Word :=
  let p := s.part n
  let r := partRange s n.val
  let flags := n.val + 16 + if onDemand then 32 else 0
  let beats := (List.range 128).map fun i => if i < r.2 then Sparse.get 0 p.beats (r.1 + i) else 0
  let cnt := ((((p.counters.set 7 (ledgerUse p)).set 8 mirrorWait).set 11 captureWaits).set 16 codecWait).toList
  wordsLE 2 p.snapSeq ++ [BitVec.ofNat 32 step, BitVec.ofNat 32 flags, BitVec.ofNat 32 p.skipped, p.gen] ++ wordsLE 2 time ++
    List.replicate 8 0 ++ counterWords beats ++ counterWords ((s.fn n).rings.toList.map fun x => x.retired) ++ counterWords cnt ++
    ((allPorts.flatMap fun q =>
      counterWords (if (s.port q).owner == some n.val then (s.port q).counters.toList else List.replicate 16 0))) ++
    counterWords s.power.counters.toList

/-- Which slot holds the newest image: false slot 0, true slot 1. -/
def newestSlot (x : Slot × Slot) : Option Bool :=
  match x.1.valid, x.2.valid with
  | false, false => none
  | true, false => some false
  | false, true => some true
  | true, true => some (decide (x.1.seq < x.2.seq))

def getSlot (x : Slot × Slot) (b : Bool) : Slot := if b then x.2 else x.1
def putSlot (x : Slot × Slot) (b : Bool) (v : Slot) : Slot × Slot := if b then (x.1, v) else (v, x.2)

def State.modSlots (s : State) (n : Fin 16) (f : Slot × Slot → Slot × Slot) : State := { s with slots := s.slots.set n (f s.slots[n]) }

/-- Take a snapshot: it goes to the slot that does not hold the newest image, or is skipped and counted while that slot is in use (R29, R30). None is taken while the firmware is down (R13). -/
def takeSnapshot (s : State) (n : Fin 16) (step : Nat) (onDemand : Bool) : State :=
  if !s.lcs.fwUp then s
  else
    let due := match newestSlot s.slots[n] with | some b => !b | none => false
    if (getSlot s.slots[n] due).inUse then s.modPart n fun p => { p with skipped := (p.skipped + 1) % 2 ^ 32 }
    else
      let (time, sa) := s.draw
      let (w8, sb) := sa.draw
      let (w11, sc) := sb.draw
      let (w16, s0) := sc.draw
      let s1 := s0.modPart n fun p => { p with snapSeq := (p.snapSeq + 1) % 2 ^ 64 }
      s1.modSlots n fun x => putSlot x due
        { valid := true, seq := (s1.part n).snapSeq, words := snapImage s1 n step onDemand (time % 2 ^ 64) w8 w11 w16, inUse := false }

/-- A snapshot that a gate, or an idle moment, owes to a request. -/
def servePending (s : State) (n : Fin 16) (step : Nat) : State :=
  if (s.part n).snapPending && s.lcs.fwUp then
    endSnapRequest ((takeSnapshot s n step true).modPart n fun p => { p with snapPending := false }) n true
  else s

end Sys2Proof.Machine
end

