-- ==== Sys2Proof/Machine/Gate.lean ====
section
/-! DEFINITION. The Step Gate (R15 to R20): the requests that it applies and their order, the descriptors applied at it, STEP_OPENs that it releases, and the device-scoped moment at which every partition stands at one. -/
namespace Sys2Proof.Machine

/-! ### Rejections (R381) -/

/-- Detail of a rejection: the byte offset, and for STALE_EPOCH the partition's epoch. -/
def rejectDetail (s : State) (n : Fin 16) (status byte : Nat) : BitVec 160 :=
  packFields 160 ((0, 0, 8, byte) :: if status = stStaleEpoch then [(4, 0, 32, (s.part n).epoch)] else [])

/-- The detail of a rejected descriptor. A SHARD_RESTORE that disagrees with its image has no partner to report: the two step fields of R381 are open. -/
def rejection (s : State) (n : Fin 16) (f : Flight) (status byte : Nat) : BitVec 160 × State :=
  if dOpcode f.d = 0x43 ∧ status = stPlanMismatch then
    let (a, s1) := s.draw
    let (b, s2) := s1.draw
    (packFields 160 [(0, 0, 32, a), (4, 0, 32, b)], s2)
  else (rejectDetail s n status byte, s)

/-- A descriptor is rejected: it retires at once, and changes nothing but its completion (R369). -/
def rejectFlight (s : State) (n : Fin 16) (r : Fin 8) (f : Flight) (status byte : Nat) : State :=
  let x := rejection s n f status byte
  let s1 := x.2.modRing n r fun y => { y with flights := y.flights.filter fun e => e.seq != f.seq, retired := (y.retired + 1) % 2 ^ 64 }
  complete s1 n r f.seq status (dOpcode f.d) f.step x.1 (dIrq f.d)

/-- An image that cannot be read (R491): DMA_FAULT and ABORTED. -/
def noReadFlight (s : State) (n : Fin 16) (r : Fin 8) (f : Flight) (a : Nat) : State :=
  endFlight (dmaFault s n r f.seq a f.step) n r f.seq stAborted (abortDetail 1)

/-! ### Retirement (R371) -/

/-- A trap of the open step is kept for its report (R106). -/
def keepTrap (s : State) (n : Fin 16) (r : Fin 8) (f : Flight) : State :=
  if f.status = stNumericTrap ∧ f.step.isSome ∧ f.step = (s.part n).openStep then
    s.modPart n fun p => { p with traps := p.traps ++ [(r.val, f.seq, f.detail.toNat)] }
  else s

/-- Retire the front descriptor of a ring whose work has ended: its completion is written, and a STEP_SEAL is owed one (R33). -/
def retireFront (s : State) (n : Fin 16) (r : Fin 8) : State :=
  match (s.ring n r).flights with
  | f :: rest =>
    if f.phase == .done then
      let s1 := s.modRing n r fun x => { x with flights := rest, retired := (x.retired + 1) % 2 ^ 64 }
      keepTrap (complete s1 n r f.seq f.status (dOpcode f.d) f.step f.detail (dIrq f.d)) n r f
    else s
  | [] => s

/-- Opcodes that are applied at the gate (R368). -/
def isGateOp (op : Nat) : Bool := [0x02, 0x03, 0x41, 0x42, 0x43, 0x50].contains op

/-- Retire the descriptors applied at the gate that stand at the front of a ring. -/
def retireGateOps (s : State) (n : Fin 16) (r : Fin 8) : Nat → State
  | 0 => s
  | k + 1 =>
    match (s.ring n r).flights with
    | f :: _ => if f.phase == .done && isGateOp (dOpcode f.d) then retireGateOps (retireFront s n r) n r k else s
    | [] => s

def retireAllGateOps (s : State) (n : Fin 16) : State :=
  allRings.foldl (fun s r => retireGateOps s n r (s.ring n r).flights.length) s

/-! ### Descriptors applied at the gate -/

/-- MIRROR_SYNC applied at the gate: it starts, or ends ABORTED where the local store cannot be read. -/
def applySync (s : State) (n : Fin 16) (r : Fin 8) (f : Flight) : State :=
  if syncBlocked s n then
    endFlight (lstoreFault s n (match mirrorTable (s.part n) with | some m => MirrorTable.lstore m | none => 0)) n r f.seq stAborted (abortDetail 2)
  else modFlight (beginSync s n r f.seq) n r f.seq fun f => { f with phase := .running }

/-- Apply one descriptor that waits at the gate, checking it again; the flag says whether it changes the configuration (R406). A MIRROR_SYNC or SHARD_RESTORE behind another of its kind goes on waiting. -/
def applyAtGate (s : State) (n : Fin 16) (r : Fin 8) (f : Flight) : State × Bool :=
  let judge := fun (v : Verdict) (k : State × Bool) =>
    match v with
    | .ok => k
    | .reject st b => (rejectFlight s n r f st b, false)
    | .noRead a => (noReadFlight s n r f a, false)
  let finish := fun (x : State × Nat × BitVec 160) => endFlight x.1 n r f.seq x.2.1 x.2.2
  match dOpcode f.d with
  | 0x02 => judge (checkPlanLoad s n f.d) (finish (applyPlanLoad (endJob s n stAborted 0) n f.d), true)
  | 0x41 =>
    if (s.part n).mirror.job.isSome then (s, false)
    else judge (checkMirrorSync s n) (applySync s n r f, false)
  | 0x42 => judge (checkReplay s n f.d) (finish (applyReplay s n f.d f.fault), false)
  | 0x43 =>
    if (s.part n).mirror.job.isSome then (s, false)
    else
      judge (checkShardRestore s n f.d)
        (if srImage f.d then finish (installShard s n (imageShard s n (srAddr f.d)) (srStep f.d))
         else modFlight (beginRestore s n r f.seq f.d) n r f.seq fun f => { f with phase := .running }, false)
  | 0x50 => judge (checkEpochAdvance s n f.d) (endFlight (applyEpochAdvance s n f.d) n r f.seq stOk 0, true)
  | _ => (s, false)

/-- The descriptors that wait at the gate, STEP_OPENs apart, in the order of R17. -/
def gateFlights (s : State) (n : Fin 16) : List (Fin 8 × Nat) :=
  (flightsWhere s n fun f => f.phase == .gate && dOpcode f.d != 0x03).map fun x => (x.1, x.2.seq)

def applyGateFlights (s : State) (n : Fin 16) : State × Bool :=
  (gateFlights s n).foldl (fun (acc : State × Bool) x =>
    match findFlight acc.1 n x.1 x.2 with
    | some f =>
      if (acc.1.part n).shutter == .open_ then let y := applyAtGate acc.1 n x.1 f; (y.1, acc.2 || y.2) else acc
    | none => acc) (s, false)

/-- Data-plane requests in queue order: substitutions that copy (R109, R163, R321). Where no spare is left, the partition is fenced (R27, R110). -/
def applyReq (s : State) (n : Fin 16) (g : GateReq) : State :=
  if (s.part n).shutter != .open_ then s
  else if !spareNow s g then let u := reqUnit s g; fenceUnit s n g u.1 u.2.1 u.2.2
  else match g with
    | .spareRow b a row => substituteRow s n b a row
    | .spareBasin b => substituteBasin s (some n) b true
    | .retireBank b k => substituteBank s (some n) b k true

def applyReqs (s : State) (n : Fin 16) : State :=
  if (s.part n).shutter == .open_ then
    (s.part n).reqs.foldl (fun s g => applyReq s n g) (s.modPart n fun p => { p with reqs := [] })
  else s

/-! ### CDC_MODE (R437) -/

/-- Bit of CDC_MODE that governs a crossing; RESET and JTAG have none. -/
def modeBit : Crossing → Option Nat
  | .sluiceTx _ => some 0
  | .sluiceRx _ => some 0
  | .transom _ => some 1
  | .pcie => some 2
  | .mgmt => some 3
  | _ => none

def allCrossings : List Crossing :=
  allPorts.map Crossing.sluiceTx ++ allPorts.map Crossing.sluiceRx ++ (List.finRange 16).map Crossing.transom ++ [.pcie, .mgmt]

/-- The mode that CDC_MODE asks of a crossing. -/
def wantsCompat (s : State) (x : Crossing) : Bool :=
  match modeBit x with | some b => (s.force 0xA0000).getLsbD b | none => false

/-- Crossings whose mode now differs change it once they are empty. -/
def noteModes (s : State) : State :=
  { s with sys := { s.sys with modePending := allCrossings.filter fun x => wantsCompat s x != s.sys.compat.contains x } }

/-! ### The device-scoped moment (R19) -/

/-- D2D_CTL changes reset the modules whose bit changes (R440): a disabled module is no longer trained. -/
def noteModules (old s : State) : State :=
  let a := wbits (old.force 0x40000) 15 0
  let b := wbits (s.force 0x40000) 15 0
  if a = b then s
  else
    let t := s.sys.d2dTrained &&& (0xFFFF ^^^ (a ^^^ b))
    { s with sys := { s.sys with d2dTrained := t, d2dReady := s.sys.d2dReady && t != 0 } }

/-- When every partition stands at a gate, pending device-scoped values come into force. The flag says whether a value changed. `gate` is the partition whose gate is applying requests: its taps wait for its next gate (R17). -/
def applyDeviceIf (s : State) (gate : Option (Fin 16)) : State × Bool :=
  if allAtGate s && (devPending s || s.cfg.tagDue) then
    let x := applyDevice s
    let s1 := noteModes (noteModules s x.1)
    (if x.2 && idleOwner s1 then tapsNow (planVcore s1 gate) gate else s1, x.2)
  else (s, false)

/-- A gate at which something was applied counts once, while the Shutter is open (R406). -/
def bumpIf (s : State) (changed : Bool) (n : Fin 16) : State :=
  if changed && (s.part n).shutter == .open_ then bumpGen s n else s

/-- CLV_PLANES_n.JOINED takes the state of the planes as a gate leaves it (R231). -/
def latchJoined (s : State) (n : Fin 16) : State :=
  s.modPart n fun p => { p with joined := match planeTable p with
    | some t => ((PlaneTable.validPlanes t).filter (planeJoined s t)).foldl (fun a k => a ||| 2 ^ k) 0
    | none => 0 }

/-! ### A gate applies its requests (R17) -/

/-- Some request waits at the gate of partition n. -/
def hasRequests (s : State) (n : Fin 16) : Bool :=
  let p := s.part n
  (p.snapPending && s.lcs.fwUp) || p.cfgPending || !(gateFlights s n).isEmpty || !p.reqs.isEmpty
    || (s.lcs.fwUp && s.power.replan.any fun x => ownsBasin s n.val x.1)

/-- Apply the requests of partition n's gate: snapshot, voltage and taps, commit, descriptors, data-plane requests; the generation counts once, with the device-scoped values that `dev` says this gate has taken. `closed` is the step whose gate this is. -/
def gateRequests (s : State) (n : Fin 16) (closed : Option Nat) (dev : Bool) : State :=
  let s1 := match closed with
    | some k => if (s.part n).snapPending then servePending s n k else takeSnapshot s n k false
    | none => servePending s n noStep
  let s2 := powerGate s1 n
  let a := if (s2.part n).cfgPending then applyPart s2 n else (s2, false)
  let b := applyDeviceIf a.1 (some n)
  let c := applyGateFlights b.1 n
  let s3 := applyReqs c.1 n
  let s4 := (allParts.filter fun m => m != n).foldl (fun s m => bumpIf s b.2 m) (bumpIf s3 (a.2 || b.2 || c.2 || dev) n)
  latchJoined (retireAllGateOps s4 n) n

/-- An idle partition with an open Shutter applies what reaches it at once (R18), in one batch with device-scoped values that have just come into force. -/
def gateIfIdle (s : State) (dev : Bool) (n : Fin 16) : State :=
  if (s.part n).shutter == .open_ && idle s n && hasRequests s n then gateRequests s n none dev else bumpIf s dev n

/-! ### Opening a step (R15, R20) -/

/-- Steps and bytes that the ledger holds beside step k. -/
def ledgerFull (s : State) (n : Fin 16) (k : Nat) : Bool :=
  let p := s.part n
  let others := p.steps.filter fun r => r.n != k
  let need := match findStep p k, p.plan with | some r, _ => r.bytes | none, some pl => retainBytes s n pl.tensors | none, none => 0
  decide (16 ≤ others.length) || decide (ledgerShare s n.val < (others.map fun r => r.bytes).sum + need)

/-- A replayed step after the first waits for the seal of the step before it (R341). -/
def replayHolds (p : Part) (k : Nat) : Bool :=
  match p.replayed with
  | some x => decide (x.1 < k) && decide (k ≤ x.2) && (match findStep p (prevStep k) with | some r => r.fate != .sealed | none => false)
  | none => false

/-- Every hold but the ledger's is released. -/
def mayOpen (s : State) (n : Fin 16) (k : Nat) : Bool :=
  let p := s.part n
  p.shutter == .open_ && p.plan.isSome && !s.sys.halt && !p.recovery && !devPending s && !replayHolds p k && !restoring p

/-- The seed in force: LDG_SEED_n (R262). -/
def seedOf (s : State) (n : Nat) : BitVec 128 :=
  BitVec.ofNat 128 ((List.range 4).foldl (fun a w => a + (s.force (0x70400 + 16 * n + 4 * w)).toNat * 2 ^ (32 * w)) 0)

/-- The element that a generator entry gives for a word (R251). -/
def genElem (e : BitVec 128) (u : Nat) : Nat :=
  match genKind e with
  | 0 => u % 256
  | 1 => if u < genThresh e then 1 else 0
  | _ => fp32.encode .rne (Val.dyadic false (u / 256) (-24))

/-- Fill one generated tensor for step k (R250). -/
def fillTensor (s : State) (n : Fin 16) (k : Nat) (seed : BitVec 128) (e : BitVec 128) : State :=
  let t := tensorAt (s.part n) (genTensor e)
  (List.range (Tensor.count t)).foldl (fun s i =>
    writeCode s n (some k) t (Tensor.idx t i) (genElem e (genWord seed.toNat k (genStream e) classPlan i))) s

/-- The settings in force for partition n (R404). -/
def settingsNow (s : State) (n : Fin 16) : Settings :=
  { numerics := (s.part n).numerics, arrayMode := (s.part n).arrayMode,
    codec := (List.range 16).map fun i => s.force (0x3C000 + 0x80 * n.val + 8 * i),
    streams := (List.range 16).map fun i => s.force (0x3C004 + 0x80 * n.val + 8 * i) }

/-- Step k opens: the ledger retains carried words and residual tensors, the seed and the generation with its settings are recorded (a replayed step keeps its own and runs under them, R255), and the generated tensors are filled. -/
def openStepNow (s00 : State) (n : Fin 16) (k : Nat) : State :=
  let old := findStep (s00.part n) k
  let set := match old with | some r => r.settings | none => settingsNow s00 n
  let s := s00.modPart n fun p => { p with openStep := some k, asRun := some set }
  let p := s.part n
  match p.plan with
  | none => s00
  | some pl =>
    let hs := carried p
    let resid := (residTensors s n.val pl.tensors).flatMap fun t => (Tensor.ranges t).flatMap fun x =>
      (memRead s x.1 x.2).zipIdx.map fun b => (x.1 + b.2, b.1)
    let rec' : StepRec :=
      { n := k, seed := match old with | some r => r.seed | none => seedOf s n.val, gen := match old with | some r => r.gen | none => p.gen,
        settings := set, runs := (match old with | some r => r.runs | none => 0) + 1, touched := [],
        seals := 0, retired := false, fate := .open_, failBits := 0, localDone := false, acked := false, handles := hs,
        words := wordsOf s hs, resid := resid, bytes := retainBytes s n pl.tensors, dirty := [] }
    let s1 := s.modPart n fun p => { p with
      steps := if old.isSome then p.steps.map fun r => if r.n == k then rec' else r else p.steps ++ [rec'],
      opened := k, openedValid := true, tiles := [], traps := [], trapReported := false }
    (pl.gens.filter genValid).foldl (fun s e => fillTensor s n k rec'.seed e) s1

/-- A ring joins the open step k: its held STEP_OPEN ends OK. -/
def joinStep (s : State) (n : Fin 16) (r : Fin 8) (k : Nat) : State :=
  match heldOpen (s.ring n r) with
  | some f =>
    if fld f.d 8 0 32 = k then
      endFlight (s.modRing n r fun x => { x with lastStep := k, openStep := some k }) n r f.seq stOk 0
    else s
  | none => s

/-- The step of the lowest ring that holds a STEP_OPEN. -/
def heldStep (s : State) (n : Fin 16) : Option Nat :=
  allRings.findSome? fun r => (heldOpen (s.ring n r)).map fun f => fld f.d 8 0 32

/-- Held STEP_OPENs with NO_WAIT complete LEDGER_FULL where the ledger is full (R20). -/
def refuseFull (s : State) (n : Fin 16) : State :=
  allRings.foldl (fun s r =>
    match heldOpen (s.ring n r) with
    | some f => if dNoWait f.d && ledgerFull s n (fld f.d 8 0 32) then rejectFlight s n r f stLedgerFull 0xFF else s
    | none => s) s

/-- The conditions of a STEP_OPEN at its issue (R369): status and byte, or none. -/
def openVerdict (s : State) (n : Fin 16) (r : Fin 8) (f : Flight) : Option (Nat × Nat) :=
  let p := s.part n
  let k := fld f.d 8 0 32
  if !ringActive p r.val then some (stNotOwned, 0)
  else if p.recovery && p.openStep.isNone then some (stAborted, 0)
  else if k = noStep || k != ((s.ring n r).lastStep + 1) % 2 ^ 32 then some (stBadField, 8)
  else if p.mirror.syncNeeded || p.mirror.shardLost then some (stPlanMismatch, 0xFF)
  else none

/-- A STEP_OPEN on a ring that has had its part of the open step stands at the next gate. -/
def beforeGate (s : State) (n : Fin 16) (r : Fin 8) : Bool := (s.part n).openStep == some (s.ring n r).lastStep

/-- A STEP_OPEN that stands at the gate is evaluated: it goes on waiting, or it ends rejected or ABORTED (R32, R339, R369). -/
def judgeOpen (s : State) (n : Fin 16) (r : Fin 8) : State :=
  match heldOpen (s.ring n r) with
  | none => s
  | some f =>
    if beforeGate s n r || restoring (s.part n) then s
    else match openVerdict s n r f with
      | none => s
      | some (st, b) =>
        if st = stAborted then endFlight (holdPlace s n r) n r f.seq stAborted 0 else rejectFlight s n r f st b

/-- Requests held at the gate of partition n are applied when a STEP_OPEN reaches it (R15, R18). -/
def applyHeld (s : State) (n : Fin 16) : State :=
  if (s.part n).openStep.isNone && (s.part n).shutter == .open_ && (hasRequests s n || vcoreDue s n) then gateRequests s n none false else s

/-- Try the STEP_OPENs that a partition's gate holds: requests there apply first, each STEP_OPEN is evaluated, and then the step opens or its rings join it. -/
def tryOpen (s : State) (n : Fin 16) : State :=
  if (heldStep s n).isNone then s
  else
    let s0 := allRings.foldl (fun s r => judgeOpen s n r) (applyHeld s n)
    let s0' := if (s0.part n).openStep.isSome then s0 else refuseFull s0 n
    let s1 := match heldStep s0' n with
      | none => s0'
      | some k => if (s0'.part n).openStep.isSome || !mayOpen s0' n k || ledgerFull s0' n k then s0' else openStepNow s0' n k
    let s2 := match (s1.part n).openStep with
      | some m => allRings.foldl (fun s r => joinStep s n r m) s1
      | none => s1
    retireAllGateOps s2 n

/-- Every partition's gate tries again. -/
def releaseHeld (s : State) : State := allParts.foldl tryOpen s

/-- Sluices that no partition owns take committed values, a pending device-scoped commit is applied if every partition stands at a gate, idle partitions apply what waits, and held STEP_OPENs are tried. -/
def settleGates (s : State) : State :=
  let s1 := forceUnowned s
  let b := applyDeviceIf s1 none
  releaseHeld (allParts.foldl (fun s n => gateIfIdle s b.2 n) b.1)

/-! ### Commands -/

/-- Every condition of R15 for the gate after the open step holds. -/
def gateDue (s : State) (n : Fin 16) : Option Nat :=
  match (s.part n).openStep with
  | some k => if allSealed (s.part n) k && stepDrained s n k && (s.part n).shutter == .open_ then some k else none
  | none => none

/-- The corrected errors of a partition's banks are counted between two gates (R163). -/
def clearCorrected (s : State) (n : Fin 16) : State :=
  { s with spares := { s.spares with corrected := s.spares.corrected.filter fun x => !ownsBasin s n.val x.1 } }

/-- Step k closes: handles without CARRY opened in it close, and its record is fixed and sent (R153, R334). -/
def closeStep (s : State) (n : Fin 16) (k : Nat) : State :=
  let s1 := modStep s n k fun r => { r with retired := true }
  let s2 := s1.modPart n fun p => { p with
    openStep := none, tiles := [], handles := p.handles.filter fun h => h.carry || h.step != k }
  clearCorrected (retireRecord s2 n k) n

/-- STEP_GATE_OPEN: the open step closes, the gate applies its requests, and held STEP_OPENs go on. -/
def stepGateOpen (s : State) (n : Fin 16) : State :=
  match gateDue s n with
  | some k => settleGates (gateRequests (closeStep s n k) n (some k) false)
  | none => s

def execStepGateOpen (fn : Fin 16) (s : State) : Result := .next (stepGateOpen s fn)

/-- PARTITION_IDLE (R18): requests held at the gate of an idle partition are applied. -/
def execPartitionIdle (fn : Fin 16) (s : State) : Result :=
  .next (if (s.part fn).shutter == .open_ && idle s fn && (hasRequests s fn || vcoreDue s fn) then settleGates (gateRequests s fn none false) else s)

/-- SCRUB_OP: a bank that the scrubber wants retired goes at once where the partition is idle (R18, R163). -/
def execScrubOp (word : Nat) (fault : LaneFault) (s : State) : Result := .next (settleGates (scrub s word fault))

/-- STEP_SEALED (R327): the oldest unsealed step seals; what waits for the ledger goes on. -/
def stepSealed (s : State) (n : Fin 16) : State :=
  match sealable s n with
  | some r => releaseHeld (sealStep s n r)
  | none => s

def execStepSealed (fn : Fin 16) (s : State) : Result := .next (stepSealed s fn)

/-- COMMIT (R400). -/
def commit (s : State) (value : Word) : State :=
  if value.getLsbD 0 then settleGates (commitImage s) else s

end Sys2Proof.Machine
end

