-- ==== Sys2Proof/Machine/Ports.lean ====
section
/-! DEFINITION. PORT_JOIN and PORT_LEAVE (R293 to R296), joining under R294, and what a port that goes DOWN means to the mirror (R344). -/
namespace Sys2Proof.Machine

/-! ### Going DOWN -/

/-- A restore whose source has gone is lost (R344). -/
def restoreIfDown (s : State) (n : Fin 16) : State :=
  let p := s.part n
  if restoring p && allDown s (mirrorPorts p) then tryOpen (shardLost s n) n else s

/-- A port goes DOWN (R290); the owner's restore notices it. -/
def goDown (s : State) (q : Fin 24) : State :=
  match (s.port q).owner with
  | some o => restoreIfDown (linkDown s q) (fin16 o)
  | none => linkDown s q

/-! ### Joining (R294) -/

/-- The partner's ranks that the port's roles imply: its place in the plane table, the mirror partner, the hosted rank. -/
def impliedRanks (p : Part) (q : Nat) : List Nat :=
  (match planeTable p with
    | some t => match PlaneTable.role t q with | some (pl, c) => [PlaneTable.roleRank t pl c] | none => []
    | none => []) ++
  (match mirrorTable p with
    | some m => (if (mirrorPorts p).contains q then [MirrorTable.partnerRank m] else []) ++
        if (hostedPorts p).contains q then [MirrorTable.hostedRank m] else []
    | none => [])

/-- The partner's DOMAIN_ID and RANK are those that the plan implies for the port. -/
def identityOk (s : State) (q : Fin 24) : Bool :=
  let x := s.port q
  match x.owner with
  | some o =>
    let p := s.part (fin16 o)
    match planeTable p with
    | some t => x.partnerDom == PlaneTable.domain t && (impliedRanks p q.val).all fun k => x.partnerRank == k
    | none => false
  | none => false

/-- Steps 3 and 4 of R294: both ends ask to join, and the identity decides; a PORT_JOIN that it turns away names no field (R381). A join without a descriptor writes LINK_UP (R290). -/
def tryJoin (s : State) (q : Fin 24) : State :=
  let x := s.port q
  if x.st == .trained && x.joinReq && x.stateSeen && x.partnerJoin then
    if identityOk s q then
      let s1 := endPortOp (linkJoin s q) q 0x51 stOk
      let s2 := if x.rejoin.isSome then portEvent s1 q evLinkUp 0 0 else s1
      s2.modPort q fun x => { x with rejoin := none }
    else (endPortOpWith s q 0x51 stPlanMismatch (packFields 160 [(0, 0, 8, 0xFF)])).modPort q fun x => { x with joinReq := false, rejoin := none }
  else s

/-- A PORT_JOIN for the port is under way. -/
def joinRunning (s : State) (q : Fin 24) : Bool :=
  allParts.any fun n => !(flightsWhere s n fun f => dOpcode f.d == 0x51 && fld f.d 8 0 5 == q.val && f.phase == .running).isEmpty

/-- JOIN_REQ is set; a LEAVE that the port has shown ends with it. -/
def setJoinReq (s : State) (q : Fin 24) : State := s.modPort q fun x => { x with joinReq := true, leave := false }

/-- A port that is TRAINED asks to join for a waiting PORT_JOIN, or by itself where it may rejoin (R290, R294). -/
def askJoin (s : State) (q : Fin 24) : State :=
  let x := s.port q
  if x.st != .trained then s
  else if joinRunning s q then tryJoin ((setJoinReq s q).modPort q fun x => { x with rejoin := none }) q
  else
    match x.rejoin with
    | some id =>
      if (portCtl s q).getLsbD 2 && id == (x.partnerDom, x.partnerRank, x.partnerPort) then tryJoin (setJoinReq s q) q
      else s.modPort q fun x => { x with rejoin := none }
    | none => s

/-! ### Descriptors -/

def pjPort (d : Desc) : Nat := fld d 8 0 5

/-- Rows 1 and 2 of R293. -/
def checkPort (s : State) (n : Fin 16) (d : Desc) : Option (Nat × Nat) :=
  match (s.part n).plan with
  | none => some (stBadField, 8)
  | some pl =>
    if 24 ≤ pjPort d || !(planPorts pl).contains (pjPort d) then some (stBadField, 8)
    else if (s.port (fin24 (pjPort d))).owner != some n.val then some (stNotOwned, 8)
    else none

def checkPortJoin (s : State) (n : Fin 16) (d : Desc) : Option (Nat × Nat) :=
  let st := (s.port (fin24 (pjPort d))).st
  orElse (checkPort s n d) (firstFail [(st == .joined || st == .leaving, stInUse, 8)])

/-- A collective is open on a plane that uses the port. -/
def collUses (s : State) (n : Fin 16) (q : Nat) : Bool :=
  match planeTable (s.part n) with
  | some t => (PlaneTable.validPlanes t).any fun pl => (PlaneTable.ports t pl).contains q && (openOn s n pl).isSome
  | none => false

/-- A mirror stream is active on the port: a job or an unacknowledged record toward the partner, or a transfer that is being stored. -/
def streamActive (p : Part) (q : Nat) : Bool :=
  ((mirrorPorts p).contains q && (p.mirror.job.isSome || !p.mirror.awaiting.isEmpty)) || ((hostedPorts p).contains q && !p.hosted.xfers.isEmpty)

def checkPortLeave (s : State) (n : Fin 16) (d : Desc) : Option (Nat × Nat) :=
  orElse (checkPort s n d) (firstFail
    [((s.port (fin24 (pjPort d))).st != .joined, stNotJoined, 8),
     (collUses s n (pjPort d) || streamActive (s.part n) (pjPort d), stInUse, 8)])

/-- An accepted PORT_JOIN waits for TRAINED and asks to join. -/
def beginPortJoin (s : State) (_n : Fin 16) (_r : Fin 8) (f : Flight) : State := askJoin s (fin24 (pjPort f.d))

/-- An accepted PORT_LEAVE stops new parcels (R295). -/
def beginPortLeave (s : State) (_n : Fin 16) (_r : Fin 8) (f : Flight) : State :=
  s.modPort (fin24 (pjPort f.d)) fun x => { x with st := .leaving }

/-- PORT_JOIN_TIMEOUT (R294). -/
def portJoinTimeout (s : State) (q : Fin 24) : State :=
  if joinRunning s q then (endPortOp s q 0x51 stTimeout).modPort q fun x => { x with joinReq := false } else s

def execPortJoinTimeout (port : Fin 24) (s : State) : Result := .next (portJoinTimeout s port)

/-- PORT_LEAVE_DRAINED (R295): every parcel sent is verified and nothing waits in the retry buffer. -/
def portLeaveDrained (s : State) (q : Fin 24) : State :=
  let x := s.port q
  if x.st == .leaving && x.unverified.isEmpty && x.waiting.isEmpty && x.retry.isEmpty then leavePort (endPortOp s q 0x52 stOk) q true else s

def execPortLeaveDrained (port : Fin 24) (s : State) : Result := .next (portLeaveDrained s port)

end Sys2Proof.Machine
end

