-- ==== Sys2Proof/Machine/Start.lean ====
section
/-! DEFINITION. Issue, start and retirement of descriptors (R366 to R373): the evaluation at issue, the order that footprints give (R134), FENCE, traps (R106), and one meaning for each descriptor row. -/
namespace Sys2Proof.Machine

/-! ### Footprints (R134) -/

/-- The address range of the region of a handle that a descriptor names. -/
def regionOf (f : Flight) (ref : Nat) : List (Nat × Nat) :=
  match handIn f.hands ref with
  | some h => [(wordAddr h.base, 16 * h.count)]
  | none => []

/-- Copies of a slice tensor's exponent array (R175). -/
def expRanges (p : Part) (t : Tensor) : List (Nat × Nat) :=
  (List.range (Tensor.copies t)).map fun c => (Tensor.fineBase t + c * 0x400000, expLen p t)

/-- Ranges that a GEMM, GEMM_PACKED or CONV writes: destination and statistics. -/
def gemmWrites (p : Part) (f : Flight) : List (Nat × Nat) :=
  (if gDirect f.d then Tensor.ranges (tensorAt p (gDst f.d % 4096)) else regionOf f (gDst f.d)) ++
  (if (gStats f.d).testBit 0 then Tensor.ranges (tensorAt p (gStatTensor f.d)) else []) ++
  (if (gStats f.d).testBit 1 then regionOf f (gStatSum f.d) else []) ++
  (if (gStats f.d).testBit 2 then regionOf f (gStatSq f.d) else [])

/-- Address ranges that a descriptor reads. -/
def footReads (_s : State) (p : Part) (f : Flight) : List (Nat × Nat) :=
  let d := f.d
  let op := dOpcode d
  let ab := Tensor.ranges (tensorAt p (gA d)) ++ Tensor.ranges (tensorAt p (gB d))
  if op = 0x08 then Tensor.ranges (tensorAt p (fld d 8 0 12))
  else if op = 0x10 ∨ op = 0x11 ∨ op = 0x12 ∨ op = 0x14 then ab
  else if op = 0x13 then
    if gPhase d then ab ++ expRanges p (tensorAt p (gA d)) ++ expRanges p (tensorAt p (gB d)) else Tensor.ranges (tensorAt p (gA d))
  else if op = 0x21 then if cRaw d then [(cRawAddr d, 32 * cCount d)] else Tensor.ranges (tensorAt p (fld d 8 0 12))
  else if op = 0x22 then regionOf f (cRef d)
  else if isColl op then
    ((kTensors p d).filter fun x => x.2.2 == 20).flatMap (fun x => Tensor.ranges x.1) ++
      ((kRefs d).filter fun x => x.2.2 == 20).flatMap fun x => regionOf f x.1
  else []

/-- Address ranges that a descriptor writes. -/
def footWrites (s : State) (n : Fin 16) (p : Part) (f : Flight) : List (Nat × Nat) :=
  let d := f.d
  let op := dOpcode d
  if op = 0x08 then Tensor.ranges (tensorAt p (fld d 10 0 12))
  else if op = 0x10 ∨ op = 0x11 ∨ op = 0x12 then gemmWrites p f
  else if op = 0x13 then
    if gPhase d then regionOf f (gDst d) else Tensor.ranges (tensorAt p (gB d)) ++ expRanges p (tensorAt p (gB d))
  else if op = 0x14 then Tensor.ranges (tensorAt p (gDst d % 4096))
  else if op = 0x20 then [(wordAddr (coBase d), 16 * coCount d)]
  else if op = 0x21 then regionOf f (cRef d)
  else if op = 0x22 then readTargets p d ++ if cClear d then regionOf f (cRef d) else []
  else if op = 0x23 then f.hands.map fun h => (wordAddr h.base, 16 * h.count)
  else if isColl op then
    let ctl := codecCtl s n.val (kCodec d)
    ((kTensors p d).filter fun x => x.2.2 != 20).flatMap (fun x => Tensor.ranges x.1) ++
      ((kRefs d).filter fun x => x.2.2 != 20).flatMap (fun x => regionOf f x.1) ++
      if ctlLossy ctl && ctlResid ctl then Tensor.ranges (tensorAt p (ctlTensor ctl)) else []
  else []

/-- Two descriptors of one ring whose footprints overlap, where at least one writes. -/
def conflicts (s : State) (n : Fin 16) (e f : Flight) : Bool :=
  let p := s.part n
  rangesMeet (footWrites s n p f) (footReads s p e ++ footWrites s n p e) || rangesMeet (footReads s p f) (footWrites s n p e)

/-- Handle references of a descriptor. -/
def refsOf (d : Desc) : List Nat :=
  let op := dOpcode d
  if op = 0x10 ∨ op = 0x11 ∨ op = 0x12 then
    (if gDirect d then [] else [gDst d]) ++ (if (gStats d).testBit 1 then [gStatSum d] else []) ++
      if (gStats d).testBit 2 then [gStatSq d] else []
  else if op = 0x13 then (if gPhase d then [gDst d] else [])
  else if op = 0x21 ∨ op = 0x22 then [cRef d]
  else if op = 0x23 then [coHandle d * 2 ^ 24]
  else if isColl op then (kRefs d).map fun x => x.1
  else []

/-- The numbers of the handles that a descriptor names (R155); CST_OPEN names the one that it opens. -/
def namedHandles (f : Flight) : List Nat :=
  if dOpcode f.d = 0x20 then [coHandle f.d] else (refsOf f.d).map fun x => x / 2 ^ 24

/-- A CST_READ or CST_CLOSE waits for every earlier descriptor that names its handle, whether or not one of them writes (R150). -/
def handleWait (e f : Flight) : Bool :=
  (dOpcode f.d == 0x22 || dOpcode f.d == 0x23) && (namedHandles f).any fun k => (namedHandles e).contains k

/-- Flights of the ring ahead of `seq`, none of which has retired. -/
def ahead (s : State) (n : Fin 16) (r : Fin 8) (seq : Nat) : List Flight := (s.ring n r).flights.takeWhile fun e => e.seq != seq

/-- A slicing or strict descriptor finds its basins free of earlier descriptors and of drains (R89, R187). -/
def basinsFree (s : State) (n : Fin 16) (es : List Flight) (f : Flight) : Bool :=
  hasUnits f.d || !onBasins f.d ||
    (basinRange f.d).all fun b => (drainsOf s b).isEmpty && es.all fun e => !needsBasin (s.part n) e b

/-- The work of a waiting descriptor may begin. -/
def ready (s : State) (n : Fin 16) (r : Fin 8) (f : Flight) : Bool :=
  let es := ahead s n r f.seq
  es.all (fun e => !conflicts s n e f && !handleWait e f) && basinsFree s n es f

/-! ### Starting -/

/-- A COPY that reads or writes the Transom window or host memory: its transfer stays outstanding until it retires, and may fail till then (R133, R394, R439). -/
def outsideCopy (s : State) (n : Fin 16) (f : Flight) : Bool :=
  dOpcode f.d == 0x08 &&
    (Tensor.space (tensorAt (s.part n) (fld f.d 8 0 12)) != 0 || Tensor.space (tensorAt (s.part n) (fld f.d 10 0 12)) != 0)

/-- Begin the work of a flight that is ready; array descriptors begin unit by unit, and a COPY beyond basin SRAM ends at its retirement. -/
def beginFlight (s : State) (n : Fin 16) (r : Fin 8) (f : Flight) : State :=
  let op := dOpcode f.d
  if op = 0x08 then (if outsideCopy s n f then s else beginCopy s n r f)
  else if op = 0x13 ∧ gPhase f.d = false then beginSlice s n r f
  else if op = 0x14 then beginStrict s n r f
  else if op = 0x20 then beginCstOpen s n r f
  else if op = 0x21 then beginCstAdd s n r f
  else if op = 0x22 then beginCstRead s n r f
  else if op = 0x23 then beginCstClose s n r f
  else s

/-- Begin one waiting flight if it is ready; a collective begins by its own event (R210). -/
def startOne (s : State) (n : Fin 16) (r : Fin 8) (seq : Nat) : State :=
  match findFlight s n r seq with
  | some f =>
    if f.phase == .waiting && !isColl (dOpcode f.d) && ready s n r f then
      beginFlight (modFlight s n r seq fun f => { f with phase := .running }) n r { f with phase := .running }
    else s
  | none => s

def startRing (s : State) (n : Fin 16) (r : Fin 8) : State :=
  ((s.ring n r).flights.map fun f => f.seq).foldl (fun s q => startOne s n r q) s

/-! ### FENCE (R372) -/

/-- The awaited completion has been written, or lies behind HEAD. -/
def fenceMet (s : State) (n : Fin 16) (d : Desc) : Bool :=
  let x := s.ring n (fin8 (fld d 8 0 3))
  let q := fld d 12 0 32
  decide (2 ^ 31 ≤ (q + 2 ^ 32 - x.head) % 2 ^ 32) || x.written.contains q

/-- FENCEs whose completion has been written end OK; on a ring that a trap has halted they wait for RESUME (R395). -/
def checkFences (s : State) (n : Fin 16) : State :=
  (flightsWhere s n fun f => dOpcode f.d == 0x01 && f.phase == .running).foldl
    (fun s x => if fenceMet s n x.2.d && (s.ring n x.1).stop != .halted then endFlight s n x.1 x.2.seq stOk 0 else s) s

/-! ### Trap report (R106) -/

/-- A ring has retired its descriptors of step k, or has halted. -/
def trapSettled (s : State) (n : Fin 16) (k r : Nat) : Bool :=
  let x := s.ring n (fin8 r)
  x.stop == .halted ||
    ((match findStep (s.part n) k with | some st => st.seals.testBit r | none => false) && x.flights.all fun f => f.step != some k)

/-- The trap of the lowest ring, and on it the first to retire. -/
def lowestTrap (ts : List (Nat × Nat × Nat)) : Option (Nat × Nat × Nat) :=
  (List.range 8).findSome? fun r => ts.find? fun t => t.1 == r

/-- One TRAP_REPORT for the open step, once every active ring has retired its descriptors of the step or halted. -/
def trapReport (s : State) (n : Fin 16) : State :=
  let p := s.part n
  match p.openStep, lowestTrap p.traps with
  | some k, some t =>
    if !p.trapReported && (List.range 8).all fun r => !ringActive p r || trapSettled s n k r then
      (event s n evTrapReport t.1 k [(12, 0, 32, t.2.1), (16, 0, 128, t.2.2)]).modPart n fun p => { p with trapReported := true }
    else s
  | _, _ => s

/-- What follows a retirement or an issue: FENCEs end, descriptors that are ready begin, and a trap may be reported. -/
def settle (s : State) (n : Fin 16) : State :=
  trapReport (allRings.foldl (fun s r => startRing s n r) (checkFences s n)) n

/-! ### Evaluation at issue (R369) -/

/-- The opcodes of R368. -/
def opcodes : List Nat :=
  [0x00, 0x01, 0x02, 0x03, 0x04, 0x08, 0x10, 0x11, 0x12, 0x13, 0x14, 0x20, 0x21, 0x22, 0x23, 0x30, 0x31, 0x32, 0x33, 0x34, 0x35,
   0x36, 0x40, 0x41, 0x42, 0x43, 0x50, 0x51, 0x52]

/-- Opcodes that may stand anywhere (R368). -/
def anywhere (op : Nat) : Bool := [0x00, 0x01, 0x40, 0x51, 0x52].contains op

/-- The place of a descriptor on its ring (R368). -/
def placeVerdict (x : Ring) (d : Desc) : Option (Nat × Nat) :=
  let op := dOpcode d
  if anywhere op then none
  else if isGateOp op then (if x.openStep.isSome then some (stBadField, 0) else none)
  else
    match x.openStep with
    | none => some (stBadField, 0)
    | some k => if op = 0x04 ∧ fld d 8 0 32 ≠ k then some (stBadField, 8) else none

/-- Steps 1 and 2 of R369: opcode, reserved bytes, SEQ and place. -/
def formVerdict (x : Ring) (d : Desc) : Option (Nat × Nat) :=
  if !opcodes.contains (dOpcode d) then some (stBadOpcode, 0)
  else if !onlyFields d (layout (dOpcode d)) then some (stBadField, firstReserved d (layout (dOpcode d)))
  else if dSeq d ≠ x.issue then some (stBadField, 4)
  else placeVerdict x d

/-- The opcodes that a recovery hold executes (R339). -/
def runsInRecovery (op : Nat) : Bool := [0x00, 0x01, 0x02, 0x40, 0x41, 0x42, 0x43, 0x50, 0x51, 0x52].contains op

/-- Steps 3 and 4 of R369: the active ring and the recovery hold. -/
def holdVerdict (p : Part) (r : Fin 8) (op : Nat) : Option (Nat × Nat) :=
  if !ringActive p r.val && !([0x00, 0x01, 0x02].contains op) then some (stNotOwned, 0)
  else if p.recovery && p.openStep.isNone && !runsInRecovery op then some (stAborted, 0)
  else none

/-- The whole evaluation: `own` gives the opcode's own conditions. -/
def evaluate (s : State) (n : Fin 16) (r : Fin 8) (d : Desc) (own : Option (Nat × Nat)) : Option (Nat × Nat) :=
  orElse (formVerdict (s.ring n r) d) (orElse (holdVerdict (s.part n) r (dOpcode d))
    (orElse own (if manifestOk (s.part n) d then none else some (stPlanMismatch, 0xFF))))

/-- The ring may issue its next descriptor: the core is ready, the function exists and is not in D3hot, the Shutter is OPEN, the ring is enabled, runs, has a descriptor, and no FENCE or STEP_OPEN holds it (R15, R23, R364, R372, R373, R391, R392). -/
def mayIssue (s : State) (n : Fin 16) (r : Fin 8) : Bool :=
  let x := s.ring n r
  s.sys.ready && s.sys.linkUp && (n.val == 0 || s.sys.vfEnable) && !(s.fn n).d3hot && (s.part n).shutter == .open_ && enabled x.ctl
    && x.stop == .none && x.issue != x.tail && !(x.flights.any fun f => dOpcode f.d == 0x01) && (heldOpen x).isNone

/-! ### Flights -/

/-- A descriptor that has issued, with the handles that it names as they stand in ring order. -/
def newFlight (s : State) (n : Fin 16) (r : Fin 8) (d : Desc) (ph : Phase) (fault : UnitFault) : Flight :=
  { seq := (s.ring n r).issue, d := d, step := (s.ring n r).openStep, phase := ph, status := stOk, detail := 0, begun := [],
    trap := none, coll := none, fault := fault, hands := (refsOf d).filterMap fun x => findHandle (s.part n) (x / 2 ^ 24), rowMax := [] }

/-- The ring takes its next slot. -/
def push (s : State) (n : Fin 16) (r : Fin 8) (f : Flight) : State :=
  s.modRing n r fun x => { x with issue := (x.issue + 1) % 2 ^ 32, flights := x.flights ++ [f] }

/-- A rejected descriptor retires at once (R369), and one that the recovery hold aborts retires in ring order (R339); neither changes anything but its completion. A FENCE of a step that does not complete OK fails its step (R327). -/
def pushRejected (s : State) (n : Fin 16) (r : Fin 8) (d : Desc) (st byte : Nat) : State :=
  let f := newFlight s n r d .done .none
  let s1 := if st = stAborted then push s n r { f with status := st } else rejectFlight (push s n r f) n r f st byte
  if dOpcode d = 0x01 then failStepOf s1 n f.step 8 else s1

/-- The frame of every descriptor row: a ring that may not issue stays as it is, a descriptor of another row names no command of this one, a failing condition rejects, and otherwise `act` takes the descriptor. -/
def issueWith (s : State) (n : Fin 16) (r : Fin 8) (row : Bool) (d : Desc) (own : Option (Nat × Nat)) (act : State) : Result :=
  if !mayIssue s n r then .next s
  else if opcodes.contains (dOpcode d) && !row then .fault (.commandMismatch (dOpcode d))
  else
    match evaluate s n r d own with
    | some (st, b) => .next (settle (pushRejected s n r d st b) n)
    | none => .next (settle act n)

/-- A descriptor whose work begins when its footprint allows. -/
def issueWork (s : State) (n : Fin 16) (r : Fin 8) (row : Bool) (d : Desc) (fault : UnitFault) (own : Option (Nat × Nat))
    (accept : State → State) : Result :=
  issueWith s n r row d own
    (let s1 := push (accept s) n r (newFlight s n r d .waiting fault)
     startOne s1 n r (s.ring n r).issue)

/-- A descriptor whose work is done at issue. -/
def issueNow (s : State) (n : Fin 16) (r : Fin 8) (row : Bool) (d : Desc) (own : Option (Nat × Nat)) (work : State → Flight → State) : Result :=
  let f := newFlight s n r d .running .none
  issueWith s n r row d own (work (push s n r f) f)

/-- The image that a descriptor held at the gate reads (R385, R217, R343). -/
def imageRange (s : State) (d : Desc) : List (Nat × Nat) :=
  let op := dOpcode d
  if op = 0x02 then [(plAddr d, plBytes d)]
  else if op = 0x50 then [(eaTable d, 288)]
  else if op = 0x43 ∧ srImage d then [(srAddr d, max 64 (imageLen s (srAddr d)))]
  else []

/-- An image in the Transom window or host memory is being read, and the read may fail, until the descriptor is applied (R394, R439). -/
def imageOutside (s : State) (d : Desc) : Bool := (imageRange s d).any fun x => spaceOf x.1 != 0

/-- A descriptor that is applied at the gate: its own conditions are judged at issue too, and an idle partition applies it at once, or as soon as its image has been read (R18). -/
def issueGate (s : State) (n : Fin 16) (r : Fin 8) (row : Bool) (d : Desc) (fault : UnitFault) (v : Verdict) : Result :=
  let f := newFlight s n r d .gate fault
  match v with
  | .ok => issueWith s n r row d none (let s1 := push s n r f; if imageOutside s d then s1 else gateIfIdle s1 false n)
  | .reject st b => issueWith s n r row d (some (st, b)) s
  | .noRead a => issueWith s n r row d none (noReadFlight (push s n r f) n r f a)

/-! ### Control descriptors -/

/-- NOP. -/
def execNop (fn : Fin 16) (ring : Fin 8) (d : Desc) (s : State) : Result :=
  issueNow s fn ring (dOpcode d == 0x00) d none fun s f => endFlight s fn ring f.seq stOk 0

/-- FENCE (R372). -/
def execFence (fn : Fin 16) (ring : Fin 8) (d : Desc) (s : State) : Result :=
  issueNow s fn ring (dOpcode d == 0x01) d
    (if enabled (s.ring fn (fin8 (fld d 8 0 3))).ctl then none else some (stBadField, 8))
    fun s f => if fenceMet s fn d then endFlight s fn ring f.seq stOk 0 else s

/-- FENCE_TIMEOUT: the TMO of the ring's waiting FENCE expires; a TMO of zero never does. -/
def fenceTimeout (s : State) (n : Fin 16) (r : Fin 8) : State :=
  let s1 := checkFences s n
  match (s1.ring n r).flights.find? fun f => dOpcode f.d == 0x01 && f.phase == .running with
  | some f => if fld f.d 16 0 16 = 0 then s else settle (endFlight s1 n r f.seq stTimeout 0) n
  | none => s

def execFenceTimeout (fn : Fin 16) (ring : Fin 8) (s : State) : Result := .next (fenceTimeout s fn ring)

/-- PLAN_LOAD (R385). -/
def execPlanLoad (fn : Fin 16) (ring : Fin 8) (d : Desc) (s : State) : Result :=
  issueGate s fn ring (dOpcode d == 0x02) d .none (checkPlanLoad s fn d)

/-- STEP_OPEN (R15, R20, R32): a well-formed one in its place reaches the gate, where held requests are applied first; it opens the step, joins it, waits, or is rejected. While a restore runs, the gate does not let it issue. -/
def execStepOpen (fn : Fin 16) (ring : Fin 8) (d : Desc) (s : State) : Result :=
  if !mayIssue s fn ring then .next s
  else if opcodes.contains (dOpcode d) && dOpcode d != 0x03 then .fault (.commandMismatch (dOpcode d))
  else
    match formVerdict (s.ring fn ring) d with
    | some (st, b) => .next (settle (pushRejected s fn ring d st b) fn)
    | none =>
      if restoring (s.part fn) then .next s
      else .next (settle (tryOpen (push s fn ring (newFlight s fn ring d .gate .none)) fn) fn)

/-- STEP_SEAL k retires at its issue; its completion is owed until the step seals, fails or is aborted (R33). -/
def sealAt (s : State) (n : Fin 16) (r : Fin 8) (d : Desc) : State :=
  let k := fld d 8 0 32
  let q := (s.ring n r).issue
  let s1 := s.modRing n r fun x => { x with
    issue := (x.issue + 1) % 2 ^ 32, openStep := none, retired := (x.retired + 1) % 2 ^ 64, owed := x.owed ++ [(q, k, dIrq d)] }
  let s2 := modStep s1 n k fun st => { st with seals := st.seals ||| 2 ^ r.val }
  match findStep (s2.part n) k with
  | some st =>
    match st.fate with
    | .open_ => s2
    | .sealed => completeSealsRing s2 n r k stOk 0
    | .failed => completeSealsRing s2 n r k stCheckFailed (checkDetail st.failBits)
    | .aborted => completeSealsRing s2 n r k stAborted 0
  | none => completeSealsRing s2 n r k stAborted 0

/-- STEP_SEAL (R33): the recovery hold completes it ABORTED, and the step ends on its ring (R339). -/
def execStepSeal (fn : Fin 16) (ring : Fin 8) (d : Desc) (s : State) : Result :=
  if !mayIssue s fn ring then .next s
  else if opcodes.contains (dOpcode d) && dOpcode d != 0x04 then .fault (.commandMismatch (dOpcode d))
  else
    match evaluate s fn ring d none with
    | some (st, b) =>
      let s1 := pushRejected s fn ring d st b
      let s2 := if st = stAborted then s1.modRing fn ring fun x => { x with openStep := none } else s1
      .next (settle s2 fn)
    | none => .next (settle (sealAt s fn ring d) fn)

/-! ### Data descriptors -/

/-- COPY (R131). -/
def execCopy (fn : Fin 16) (ring : Fin 8) (d : Desc) (fault : UnitFault) (s : State) : Result :=
  issueWork s fn ring (dOpcode d == 0x08) d fault (checkCopy s fn ring d) id

/-- GEMM (R89, R492). -/
def execGemm (fn : Fin 16) (ring : Fin 8) (d : Desc) (s : State) : Result :=
  issueWork s fn ring (dOpcode d == 0x10) d .none (checkGemm s fn ring d) fun s => acceptTile s fn ring d

/-- GEMM_PACKED (R99). -/
def execGemmPacked (fn : Fin 16) (ring : Fin 8) (d : Desc) (s : State) : Result :=
  issueWork s fn ring (dOpcode d == 0x11) d .none (checkGemm s fn ring d) fun s => acceptTile s fn ring d

/-- CONV (R126). -/
def execConv (fn : Fin 16) (ring : Fin 8) (d : Desc) (s : State) : Result :=
  issueWork s fn ring (dOpcode d == 0x12) d .none (checkGemm s fn ring d) fun s => acceptTile s fn ring d

/-- CASCADE_GEMM in its SLICE phase (R177). -/
def execCascadeSlice (fn : Fin 16) (ring : RingRead) (d : Desc) (s : State) : Result :=
  issueWork s fn ring.ring (dOpcode d == 0x13 && !gPhase d) d ring.fault (checkCascade s fn ring.ring d) id

/-- CASCADE_GEMM in its MULTIPLY phase (R178). -/
def execCascadeMultiply (fn : Fin 16) (ring : Fin 8) (d : Desc) (s : State) : Result :=
  issueWork s fn ring (dOpcode d == 0x13 && gPhase d) d .none (checkCascade s fn ring d) fun s => acceptTile s fn ring d

/-- STRICT_GEMM (R185). -/
def execStrictGemm (fn : Fin 16) (ring : Fin 8) (d : Desc) (fault : UnitFault) (s : State) : Result :=
  issueWork s fn ring (dOpcode d == 0x14) d fault (checkStrict s fn ring d) id

/-- CST_OPEN (R153): the handle is open from here on for the descriptors behind it. -/
def execCstOpen (fn : Fin 16) (ring : Fin 8) (d : Desc) (s : State) : Result :=
  issueWork s fn ring (dOpcode d == 0x20) d .none (checkCstOpen s fn ring d) fun s => acceptCstOpen s fn ring d

/-- CST_ADD (R156). -/
def execCstAdd (fn : Fin 16) (ring : RingRead) (d : Desc) (s : State) : Result :=
  issueWork s fn ring.ring (dOpcode d == 0x21) d ring.fault (checkCstAdd s fn ring.ring d) id

/-- CST_READ (R157). -/
def execCstRead (fn : Fin 16) (ring : Fin 8) (d : Desc) (s : State) : Result :=
  issueWork s fn ring (dOpcode d == 0x22) d .none (checkCstRead s fn ring d) id

/-- CST_CLOSE (R158): the handle is closed for the descriptors behind it at once, and its region is free once earlier ones have retired. -/
def execCstClose (fn : Fin 16) (ring : Fin 8) (d : Desc) (s : State) : Result :=
  issueWork s fn ring (dOpcode d == 0x23) d .none (checkCstClose s fn ring d) fun s => acceptCstClose s fn d

/-! ### Collectives: each waits for COLLECTIVE_BEGIN (R210) -/

def execReduce (fn : Fin 16) (ring : Fin 8) (d : Desc) (s : State) : Result :=
  issueWork s fn ring (dOpcode d == 0x30) d .none (checkColl s fn ring d) id

def execAllreduce (fn : Fin 16) (ring : Fin 8) (d : Desc) (s : State) : Result :=
  issueWork s fn ring (dOpcode d == 0x31) d .none (checkColl s fn ring d) id

def execReduceScatter (fn : Fin 16) (ring : Fin 8) (d : Desc) (s : State) : Result :=
  issueWork s fn ring (dOpcode d == 0x32) d .none (checkColl s fn ring d) id

def execBroadcast (fn : Fin 16) (ring : Fin 8) (d : Desc) (s : State) : Result :=
  issueWork s fn ring (dOpcode d == 0x33) d .none (checkColl s fn ring d) id

def execAllgather (fn : Fin 16) (ring : Fin 8) (d : Desc) (s : State) : Result :=
  issueWork s fn ring (dOpcode d == 0x34) d .none (checkColl s fn ring d) id

def execBarrier (fn : Fin 16) (ring : Fin 8) (d : Desc) (s : State) : Result :=
  issueWork s fn ring (dOpcode d == 0x35) d .none (checkColl s fn ring d) id

def execStatsReduce (fn : Fin 16) (ring : Fin 8) (d : Desc) (s : State) : Result :=
  issueWork s fn ring (dOpcode d == 0x36) d .none (checkColl s fn ring d) id

/-- No earlier descriptor of the ring names one of the collective's planes or meets its footprint (R134, R210). -/
def collFree (s : State) (n : Fin 16) (r : Fin 8) (f : Flight) : Bool :=
  (ahead s n r f.seq).all fun e => !conflicts s n e f && !(isColl (dOpcode e.d) && (kPlanes e.d &&& kPlanes f.d) != 0)

/-- The first collective of the ring that waits and may begin (R210). -/
def nextColl (s : State) (n : Fin 16) (r : Fin 8) : Option Flight :=
  (s.ring n r).flights.find? fun f => isColl (dOpcode f.d) && f.phase == .waiting && collFree s n r f

/-- COLLECTIVE_BEGIN (R210): the collective begins, with the fault that its reads show, and held parcels are checked again (R216). -/
def collectiveBegin (s : State) (n : Fin 16) (r : Fin 8) (fault : UnitFault) : State :=
  match nextColl s n r with
  | some f =>
    if (s.part n).shutter == .open_ then
      recheck (beginColl (modFlight s n r f.seq fun f => { f with fault := fault }) n r { f with fault := fault })
    else s
  | none => s

def execCollectiveBegin (fn : Fin 16) (ring : RingRead) (s : State) : Result := .next (collectiveBegin s fn ring.ring ring.fault)

/-! ### Recovery and membership descriptors -/

/-- LEDGER_RELEASE (R331): it acts at issue, and what waited for the ledger goes on. -/
def execLedgerRelease (fn : Fin 16) (ring : Fin 8) (d : Desc) (s : State) : Result :=
  issueNow s fn ring (dOpcode d == 0x40) d (checkRelease s fn d) fun s f =>
    let x := applyRelease s fn d
    releaseHeld (endFlight x.1 fn ring f.seq x.2.1 x.2.2)

/-- MIRROR_SYNC (R337). -/
def execMirrorSync (fn : Fin 16) (ring : Fin 8) (d : Desc) (s : State) : Result :=
  issueGate s fn ring (dOpcode d == 0x41) d .none (checkMirrorSync s fn)

/-- REPLAY (R340). -/
def execReplay (fn : Fin 16) (ring : RingRead) (d : Desc) (s : State) : Result :=
  issueGate s fn ring.ring (dOpcode d == 0x42) d ring.fault (checkReplay s fn d)

/-- SHARD_RESTORE (R343). -/
def execShardRestore (fn : Fin 16) (ring : Fin 8) (d : Desc) (s : State) : Result :=
  issueGate s fn ring (dOpcode d == 0x43) d .none (checkShardRestore s fn d)

/-- EPOCH_ADVANCE (R217). -/
def execEpochAdvance (fn : Fin 16) (ring : Fin 8) (d : Desc) (s : State) : Result :=
  issueGate s fn ring (dOpcode d == 0x50) d .none (checkEpochAdvance s fn d)

/-- PORT_JOIN (R294). -/
def execPortJoin (fn : Fin 16) (ring : Fin 8) (d : Desc) (s : State) : Result :=
  issueNow s fn ring (dOpcode d == 0x51) d (checkPortJoin s fn d) fun s f => beginPortJoin s fn ring f

/-- PORT_LEAVE (R295). -/
def execPortLeave (fn : Fin 16) (ring : Fin 8) (d : Desc) (s : State) : Result :=
  issueNow s fn ring (dOpcode d == 0x52) d (checkPortLeave s fn d) fun s f => beginPortLeave s fn ring f

/-! ### Retirement -/

/-- The transfer of a COPY beyond basin SRAM at the front of its ring ends. -/
def finishFront (s : State) (n : Fin 16) (r : Fin 8) : State :=
  match (s.ring n r).flights with
  | f :: _ => if f.phase == .running && outsideCopy s n f then beginCopy s n r f else s
  | [] => s

/-- The status that the bytes of a completion carry. -/
def statusOf (bs : List Byte) : Nat := (bs.getD 4 0).toNat

/-- Write the completions that a fault has held back (R373, R395); one of a NUMERIC_TRAP halts the ring. -/
def writeFailed (s : State) (n : Fin 16) (r : Fin 8) : State :=
  let fs := (s.ring n r).failed
  fs.foldl (fun s c =>
    let s1 := hostWrite s c.1 c.2.1
    let s2 := s1.modRing n r fun x =>
      let hw := advanceHead (x.written.length + 1) x.head (ofLE (c.2.1.take 4) :: x.written)
      { x with head := hw.1, written := hw.2, stop := if statusOf c.2.1 == stNumericTrap then .halted else x.stop }
    moderate (s2.post n false .completion c.1 c.2.1) n r c.2.2) (s.modRing n r fun x => { x with failed := [] })

/-- DESCRIPTOR_RETIRE (R371): completions that had failed are written again on a ring that RESUME has returned to RUNNING (R373); otherwise the front descriptor of the ring retires once its work has ended. -/
def descriptorRetire (s : State) (n : Fin 16) (r : Fin 8) : State :=
  let x := s.ring n r
  if !x.failed.isEmpty && x.stop == .none && mayDma s n then settle (writeFailed s n r) n else
  let s1 := finishFront (settle s n) n r
  match (s1.ring n r).flights with
  | f :: _ => if f.phase == .done then settle (retireFront s1 n r) n else s1
  | [] => s1

def execDescriptorRetire (fn : Fin 16) (ring : Fin 8) (s : State) : Result := .next (descriptorRetire s fn ring)

end Sys2Proof.Machine
end

