-- ==== Sys2Proof/Machine/Sluice.lean ====
section
/-! DEFINITION. Events of the sluices: parcels and flits that arrive (R270 to R282), lanes and wavelengths that fail and their spares (R284 to R287), training, quarantine and beacons (R288 to R292), and the mirror's timeouts (R337, R338, R344). -/
namespace Sys2Proof.Machine

/-! ### Parcels (R278, R279) -/

/-- The virtual lane that PTYPE and KIND require (R275); a reserved KIND has none and goes on to R216. -/
def vlOk (x : Parcel) : Bool :=
  if xPtype x = 1 then parcelVl x == 2
  else if xKind x = 0 then parcelVl x == 0
  else if xKind x = 1 then parcelVl x == 1
  else if xKind x ≤ 4 then parcelVl x == 3
  else true

/-- The first row of R278. -/
def parcelBad (x : Parcel) : Bool :=
  x.crc != parcelCrc x.hdr x.payload || decide (1 < xPtype x) || !vlOk x || decide (8192 < parcelLen x)

/-- The collective that is open on the plane of a port. -/
def collOnPort (s : State) (n : Fin 16) (q : Fin 24) : Option (Fin 8 × Flight × Coll) :=
  match planeTable (s.part n) with
  | some t => (PlaneTable.role t q.val).bind fun x => openOn s n x.1
  | none => none

/-- A parcel of a step that fails its CRC keeps the step from passing its check (R280). Its header cannot be trusted: DESIGN CHOICE (assumption 51), it counts for the step that is open on the receiver. -/
def failReceived (s : State) (n : Fin 16) (vl : Nat) : State := if vl = 2 then s else failStepOf s n (s.part n).openStep 2

/-- R279: the parcel goes, PFAIL reports it, the open collective of the port's plane ends ABORTED, and a hosted transfer is dropped. -/
def failParcel (s : State) (q : Fin 24) (x : Parcel) : State :=
  let vl := parcelVl x
  let seq := getV (s.port q).pseqRx vl
  let s1 := (discard s q x 7).modPort q fun p => { p with pfail := some (vl, seq), pseqRx := setV p.pseqRx vl ((seq + 1) % 65536) }
  let s2 := portEvent s1 q evParcelCrc vl seq
  match (s.port q).owner with
  | none => s2
  | some o =>
    let n := fin16 o
    if (s2.part n).shutter != .open_ then s2
    else
      let s3 := match collOnPort s2 n q with
        | some y => recheck (stopColl s2 n y.1 y.2.1 2 (some q.val))
        | none => s2
      let s4 := failReceived s3 n vl
      if vl = 2 ∧ (hostedPorts (s4.part n)).contains q.val then dropPartial s4 n else s4

/-- A parcel with the bits of some of its bytes turned over: what the crossings and the buffers do to it (R278). -/
def Parcel.upset (x : Parcel) (us : List (Nat × Byte)) : Parcel :=
  Parcel.ofBytes (us.foldl (fun bs u => bs.set u.1 ((bs[u.1]?.getD 0) ^^^ u.2)) (Parcel.bytes x))

/-- R278: the oldest parcel of a virtual lane in the receive buffer is checked and dispatched. -/
def parcelReceived (s : State) (q : Fin 24) (vl : Nat) (us : List (Nat × Byte)) : State :=
  let p := s.port q
  if p.st != .joined && p.st != .leaving then s
  else match p.rxbuf.find? fun x => parcelVl x == vl with
    | none => s
    | some x0 =>
      let x := Parcel.upset x0 us
      let s0 := s.modPort q fun p => { p with rxbuf := p.rxbuf.erase x0 }
      if parcelBad x then failParcel s0 q x0
      else
        let s1 := (s0.modPort q fun p => { p with pseqRx := setV p.pseqRx vl ((getV p.pseqRx vl + 1) % 65536) }).countPort q 14 1
        match p.owner with
        | none => discard s1 q x 12
        | some o =>
          let n := fin16 o
          if (s1.part n).shutter != .open_ then discard s1 q x 12
          else if xPtype x = 1 then settle (tryOpen (receiveMirror s1 n q x) n) n
          else recheck (receiveColl s1 n q x true)

def execParcelReceived (port : Fin 24) (p : Arrival) (s : State) : Result :=
  .next (parcelReceived s port p.vl.val p.upsets)

/-! ### Acknowledgement, retry and credits (R270, R277, R281, R282) -/

/-- ACK covers the retry buffer up to a sequence number. -/
def ackTo (s : State) (q : Fin 24) (ack : Nat) : State :=
  if (s.port q).retry.any fun f => f.fseq == ack then
    pump (s.modPort q fun p => { p with retry := (p.retry.dropWhile fun f => f.fseq != ack).drop 1, resends := 0 }) q
  else s

/-- Credits of two virtual lanes come back (R277). -/
def takeCredits (s : State) (q : Fin 24) (a b : Nat × Nat) : State :=
  pump (s.modPort q fun p => { p with credits := addCredits (addCredits p.credits a.1 a.2) b.1 b.2 }) q

/-- Flits in the retry buffer are sent again in their order, onto the next free slots; 16 resends without an advance of ACK take the port DOWN (R282). -/
def resend (s : State) (q : Fin 24) : State :=
  let p := s.port q
  if p.retry.isEmpty then s
  else if 16 ≤ p.resends then goDown s q
  else (s.modPort q fun p => p.retry.foldl (fun p f => p.put q.val (.data f.fseq f.pstart f.body)) { p with resends := p.resends + 1 }).countPort q 0 p.retry.length

/-- A NAK with an ACK that has not been acted on (R282). -/
def takeNak (s : State) (q : Fin 24) (ack : Nat) : State :=
  let s1 := ackTo s q ack
  if (s1.port q).lastNak == some ack then s1
  else resend (s1.modPort q fun p => { p with lastNak := some ack }) q

/-- What every good flit carries: ACK, NAK and credits. A flit without NAK ends the NAK that was acted on. -/
def takeHeader (s : State) (q : Fin 24) (f : Flit) : State :=
  let s1 := takeCredits s q (flitCredA f) (flitCredB f)
  if flitNak f then takeNak s1 q (flitAck f) else (ackTo s1 q (flitAck f)).modPort q fun p => { p with lastNak := none }

/-- A flit is missing: NAK is set, with ACK at the last good FSEQ (R281). -/
def setNak (s : State) (q : Fin 24) : State :=
  let s1 := if (s.port q).nak then s else s.countPort q 1 1
  s1.modPort q fun p => { p with nak := true, lostFlits := p.lostFlits + 1 }

/-- NAK_RECEIVED. -/
def execNakReceived (port : Fin 24) (ack : Nat) (s : State) : Result :=
  .next (if linkUp (s.port port) then takeNak s port (ack % 4096) else s)

/-- ACK_TIMEOUT: ACK has not advanced for 4 µs while flits are unacknowledged. -/
def execAckTimeout (port : Fin 24) (s : State) : Result := .next (if linkUp (s.port port) then resend s port else s)

/-! ### Lanes (R284 to R286, R298) -/

/-- Bring logical lane l back on spares for the units that are marked, by an ADD; the transmitting engine moves an optical fault to wavelength 8 (R285). -/
def addLane (p : Port) (l : Nat) : Port :=
  let d := p.tx
  let ne := d.isBad .electrical (d.home .electrical l)
  let no := d.isBad .optical (d.home .optical l)
  let phys := if ne then 8 else d.home .electrical l
  let wl := if no then 8 else d.home .optical l
  if (!ne || d.spareFree .electrical) && (!no || d.spareFree .optical) then
    let p1 := if no then p.command [1, phys, 8] else p
    { p1 with tx := { d with cmds := d.cmds ++ [{ add := true, lane := l, phys := phys, wl := wl, slot := (p.slot + 16) % 2 ^ 32 }] } }
  else p

/-- A lane command with the spare of a class in place of its own unit. -/
def LaneCmd.onSpare (c : LaneCmd) (cls : LaneClass) : LaneCmd :=
  match cls with | .electrical => { c with phys := 8 } | .optical => { c with wl := 8 }

/-- An ADD that waits for logical lane l is widened by the spare of another class, or withdrawn where that spare is gone (R298). -/
def widenAdd (p : Port) (l : Nat) (cls : LaneClass) : Port :=
  let d := p.tx
  if d.spareFree cls then
    let mine := fun (c : LaneCmd) => c.add && c.lane == l
    let p1 := if cls = .optical then p.command [1, ((d.cmds.find? mine).map fun c => c.phys).getD 8, 8] else p
    { p1 with tx := { d with cmds := d.cmds.map fun c => if mine c then c.onSpare cls else c } }
  else { p with tx := { d with cmds := d.cmds.filter fun c => !(c.add && c.lane == l) } }

/-- The transmitter answers a fault of a class on logical lane l: it drops the lane, or removes it by command while the receiver still takes it, and brings in the spare of the class (R285). -/
def answerFault (auto live : Bool) (l : Nat) (cls : LaneClass) (p : Port) : Port :=
  let d := p.tx
  let u := d.home cls l
  let running := getV d.lanes l != 0xF && !d.cmds.any fun c => !c.add && c.lane == l
  let d1 := d.mark cls u
  let d2 := if !live then d1.drop l
    else if running then
      { d1 with cmds := d1.cmds ++ [{ add := false, lane := l, phys := getV d.lanes l, wl := getV d.wls l, slot := (p.slot + 16) % 2 ^ 32 }] }
    else d1
  let p1 := { p with tx := d2 }
  match d.cmds.find? fun c => c.add && c.lane == l with
  | some c => if (match cls with | .electrical => c.phys | .optical => c.wl) = u then widenAdd p1 l cls else p1
  | none => if auto && running then addLane p1 l else p1

/-- The width that a direction comes to is settled; fewer than four lanes take the port DOWN (R286, R290). -/
def settleLanes (s : State) (q : Fin 24) (transmit : Bool) : State :=
  let d := if transmit then (s.port q).tx else (s.port q).rx
  if d.target ((portCtl s q).getLsbD 1) (maxWidth (portCtl s q)) = 0 then goDown s q
  else if transmit then settleTx s q else settleRx s q

/-- A fault report on logical lane l of the transmit direction; a lane that this training has never run has no unit that could fail. -/
def txFault (s : State) (q : Fin 24) (l : Nat) (cls : LaneClass) (live : Bool) : State :=
  if (s.port q).tx.home cls l = 0xF then s
  else settleLanes (s.modPort q (answerFault ((portCtl s q).getLsbD 1) live l cls)) q true

/-- The receiver marks a physical lane or a wavelength: it reports the logical lane that has it in FAULT, drops the lane at once where it has failed, and maps the spare wavelength in its engine for an optical fault (R284, R285, R298). -/
def rxFault (s : State) (q : Fin 24) (u : Nat) (cls : LaneClass) (failed : Bool) : State :=
  let d := (s.port q).rx
  let d1 := d.mark cls u
  if !linkUp (s.port q) then s.modPort q fun p => { p with rx := d1 }
  else
    let s1 := match d.onUnit cls u with
      | none => s.modPort q fun p => { p with rx := d1 }
      | some l =>
        let lost := failed && getV d.lanes l != 0xF
        let d2 := if lost then d1.drop l else d1
        if d.isBad cls u && !lost then s.modPort q fun p => { p with rx := d2 }
        else
          let spare := cls == .optical && (portCtl s q).getLsbD 1 && d1.spareFree cls
          s.modPort q fun p =>
            { (if spare then p.command [2, 8, d.home .electrical l] else p) with
              rx := d2, fault := some (l, cls), faultCount := (p.faultCount + 1) % 256 }
    settleLanes s1 q false

/-- LANE_FAILED: no correctable codeword for four codeword times, or a faulty wavelength. -/
def execLaneFailed (port : Fin 24) (lane : Fin 9) (cls : LaneClass) (s : State) : Result := .next (rxFault s port lane.val cls true)

/-- A physical lane degrades: it stays in the rotation until the transmitter removes it; a lane that is marked already brings no new report. -/
def laneDegraded (s : State) (q : Fin 24) (u : Nat) : State :=
  if linkUp (s.port q) && !(s.port q).rx.isBad .electrical u then rxFault s q u .electrical false else s

/-- LANE_DEGRADED. -/
def execLaneDegraded (port : Fin 24) (lane : Fin 9) (s : State) : Result := .next (laneDegraded s port lane.val)

/-- A spare that comes into use is written to the event ring, the RAS log and the counters (R285, R297). -/
def noteSwap (s : State) (q : Fin 24) (old : Dir) (c : LaneCmd) : State :=
  let part := (s.port q).owner.map fin16
  let s1 := if c.add && c.phys == 8 && !old.laneSpared then
      rasLog (portEvent (s.countPort q 4 1) q evLaneSwap c.lane 0) rasLaneSpared actSpared part 0 (rasUnit 0 0 0 c.lane) else s
  if c.add && c.wl == 8 && !old.wlSpared then
    rasLog (portEvent (s1.countPort q 5 1) q evWavelengthSwap c.lane 0) rasWavelengthSpared actSpared part 0 (rasUnit 0 0 0 c.lane)
  else s1

/-- The commands that wait behind one that has taken effect: the first of them is sent now, 16 slots ahead (R285). -/
def nextCmds (slot : Nat) : List LaneCmd → List LaneCmd
  | [] => []
  | c :: l => { c with slot := (slot + 16) % 2 ^ 32 } :: l

/-- LANE_CMD_EFFECTIVE: at the commanded slot the oldest command of the direction takes effect (R285), and a width that waited for it is settled (R298). -/
def laneCmdEffective (s : State) (q : Fin 24) (transmit : Bool) : State :=
  let p := s.port q
  let d := if transmit then p.tx else p.rx
  match d.cmds with
  | [] => s
  | c :: rest =>
    let s1 := s.modPort q fun p =>
      if transmit then { p with tx := { p.tx.run c with cmds := nextCmds p.slot rest } } else { p with rx := { p.rx.run c with cmds := rest } }
    settleLanes (noteSwap s1 q d c) q transmit

def execLaneCmdEffective (port : Fin 24) (transmit : Bool) (s : State) : Result := .next (laneCmdEffective s port transmit)

/-! ### STATE flits (R272) -/

/-- The partner's identity, flags, beacon and codeword count. -/
def takeIdentity (s : State) (q : Fin 24) (b : StateBody) : State :=
  s.modPort q fun p => { p with
    partnerRank := b.rank, partnerPort := b.port, partnerDom := b.domain, partnerPlan := b.hasPlan, partnerOwned := b.owned,
    partnerTrained := b.trained, partnerJoin := b.joinReq, partnerBeacon := b.beacon, rxSlot := b.cwcount, stateSeen := true }

/-- VERIFIED: parcels of each virtual lane up to the reported PSEQ are verified (R280). -/
def takeVerified (s : State) (q : Fin 24) (vs : List Nat) : State :=
  s.modPort q fun p => { p with
    verifiedRx := Vector.ofFn fun i => vs.getD i.val (getV p.verifiedRx i.val) % 65536,
    unverified := p.unverified.filter fun u =>
      match vs[u.1]? with | some v => decide (32768 ≤ (v + 65536 - u.2.1) % 65536) | none => true }

/-- PFAIL: the step in which the parcel was sent fails its check; a mirror record is sent again from its start (R279, R336). -/
def takePfail (s : State) (q : Fin 24) (x : Nat × Nat) : State :=
  match (s.port q).unverified.find? fun u => u.1 == x.1 && u.2.1 == x.2 with
  | none => s
  | some u =>
    let s1 := s.modPort q fun p => { p with unverified := p.unverified.filter fun v => v != u }
    let s2 := if u.2.2.2 = noStep then s1 else failStep s1 (fin16 u.2.2.1) u.2.2.2 2
    if x.1 = 2 then resendMirror s2 (fin16 u.2.2.1) else s2

/-- Two lane commands ask for the same. -/
def LaneCmd.same (a b : LaneCmd) : Bool := a.add == b.add && a.lane == b.lane && a.phys == b.phys && a.wl == b.wl

/-- LANE_CMD: the partner's transmitter commands the receive direction; a command that is already pending or done is not new. -/
def takeLaneCmd (s : State) (q : Fin 24) (c : LaneCmd) : State :=
  let d := (s.port q).rx
  let done := if c.add then getV d.lanes c.lane == c.phys && getV d.wls c.lane == c.wl else getV d.lanes c.lane == 0xF
  if done then s
  else s.modPort q fun p => { p with rx := { p.rx with cmds := p.rx.cmds.filter (fun x => !x.same c) ++ [c] } }

/-- FAULT: a report that has not been acted on. -/
def takeFault (s : State) (q : Fin 24) (b : StateBody) : State :=
  match b.fault with
  | none => s
  | some (l, cls, k) =>
    if k = (s.port q).partnerFaults then s
    else txFault (s.modPort q fun p => { p with partnerFaults := k }) q l cls (b.rxActive.testBit l)

/-- LEAVE: the partner has gone to TRAINED, and so does the port (R295). -/
def takeLeave (s : State) (q : Fin 24) (leave : Bool) : State :=
  if leave && (s.port q).st == .joined then leavePort (portEvent s q evPeerLeft 0 0) q false else s

/-- The body of a STATE flit acts. -/
def takeState (s : State) (q : Fin 24) (b : StateBody) : State :=
  let s1 := takeIdentity s q b
  let up := (s.port q).st == .joined || (s.port q).st == .leaving
  let s2 := match b.pfail with | some x => if up then takePfail s1 q x else s1 | none => s1
  let s3 := if up then takeVerified s2 q b.verified else s2
  let s4 := match b.laneCmd with | some c => takeLaneCmd s3 q c | none => s3
  tryJoin (takeLeave (takeFault s4 q b) q b.leave) q

/-! ### Flits that arrive (R267, R270, R271, R281) -/

/-- The body of a DATA flit in order: bytes that finish a parcel, and the parcels that start at PSTART (R271). Whole parcels go to the receive buffer. -/
def takeBody (p : Port) (f : Flit) : Port :=
  let k := flitPstart f
  let body := flitBody f
  let run := if p.rxRest.isEmpty then (if k ≤ 625 then body.drop k else []) else if k = 0 then body else p.rxRest ++ body
  let x := splitParcels 16 run
  { p with rxbuf := p.rxbuf ++ x.1, rxRest := if x.2.all fun b => b == 0 then [] else x.2 }

/-- A DATA flit: the next expected one is taken and clears NAK; another one means that a flit was lost (R271, R281). -/
def takeData (s : State) (q : Fin 24) (f : Flit) : State :=
  if flitFseq f = (s.port q).expected then
    s.modPort q fun p => { takeBody p f with expected := (p.expected + 1) % 4096, nak := false }
  else setNak s q

/-- The codewords of a physical lane with 12 or more corrected symbols in the current window; CW_LIMIT of them degrade the lane (R284). -/
def noteWeak (s : State) (q : Fin 24) (lane : Fin 9) : State :=
  let k := (s.port q).weak[lane] + 1
  let s1 := s.modPort q fun p => { p with weak := p.weak.set lane k }
  if wbits (s.force (0x30000 + 0x800 * q.val + 8)) 15 0 ≤ k then laneDegraded s1 q lane.val else s1

/-- What the decoder of a lane counts: codewords that it could not correct, and those that it has corrected (R267, R297). -/
def noteCodeword (s : State) (q : Fin 24) (lane : Fin 9) (k : Nat) : State :=
  if 15 < k then s.countPort q 3 1
  else if k = 0 then s
  else
    let s1 := s.countPort q 2 1
    if 12 ≤ k then noteWeak s1 q lane else s1

/-- The lane's codeword count goes on to the next with this CW_TAG (DEDUCED, assumption 52). -/
def lockTag (s : State) (q : Fin 24) (tag : Fin 16) : State :=
  s.modPort q fun p => { p with rxSlot := p.rxSlot + (tag.val + 16 - p.rxSlot % 16) % 16 }

/-- A codeword arrives on a physical lane. One that cannot be corrected, a wrong FCRC or a reserved FTYPE is a lost flit where the lane is in the rotation; the spare lane carries IDLE flits (R267, R270, R285). -/
def flitArrives (s : State) (q : Fin 24) (cw : Codeword) : State :=
  if !linkUp (s.port q) then s
  else
    let s1 := noteCodeword s q cw.lane cw.corrected
    let inRun := (s1.port q).rx.uses cw.lane.val
    if !linkUp (s1.port q) then s1
    else if 15 < cw.corrected || !flitGood cw.flit then (if inRun then setNak s1 q else s1)
    else if !inRun && !(cw.lane.val == 8 && flitType cw.flit == 0) then s1
    else
      let s2 := takeHeader (lockTag s1 q cw.tag) q cw.flit
      if !linkUp (s2.port q) then s2
      else if flitType cw.flit = 1 then takeData s2 q cw.flit
      else if flitType cw.flit = 2 then takeState s2 q (flitState cw.flit)
      else s2

/-- FLIT_RECEIVED. -/
def execFlitReceived (port : Fin 24) (f : Codeword) (s : State) : Result := .next (flitArrives s port f)

/-- STATE_FLIT_RECEIVED: the flit of the codeword is a STATE flit; any other is what its own type says. -/
def execStateFlitReceived (port : Fin 24) (f : Codeword) (s : State) : Result := .next (flitArrives s port f)

/-! ### Training (R289, R290) -/

/-- Neither crossing of the sluice is held in reset after a stall (R441). -/
def crossingsUp (s : State) (q : Fin 24) : Bool := !s.sys.stalled.contains (.sluiceTx q) && !s.sys.stalled.contains (.sluiceRx q)

/-- TRAINING_WINDOW: a burst of the training pattern starts or ends. -/
def execTrainingWindow (port : Fin 24) (s : State) : Result :=
  .next (if (s.port port).st == .seeking && crossingsUp s port then s.modPort port fun p => { p with burst := !p.burst } else s)

/-- PARTNER_DETECTED. -/
def execPartnerDetected (port : Fin 24) (s : State) : Result :=
  .next (if (s.port port).st == .seeking && crossingsUp s port then s.modPort port fun p => { p with st := .training, burst := false } else s)

/-- TRAINING_COMPLETE: the two ends have exchanged STATE flits. Every lane maps anew, VLBUF takes effect, the line starts at slot 0, the identity is known, and the port may ask to join. DESIGN CHOICE (assumption 53): slot counts, fault counts and FSEQ start at zero with each training. -/
def trainingComplete (s : State) (q : Fin 24) (f : Flit) : State :=
  if (s.port q).st == .training && flitGood f && flitType f == 2 then
    let w := maxWidth (portCtl s q)
    let s1 := s.modPort q fun p => { p.quiet .trained with
      tx := Dir.trained w, rx := Dir.trained w, valid := true, vlbuf := s.force (0x30000 + 0x800 * q.val + 0xC), faultCount := 0,
      partnerFaults := 0, slot := 0, turn := 0, line := [], told := (4095, false),
      news := { flags := 0, fault := none, laneCmd := none, pfail := none } }
    askJoin (takeIdentity s1 q (flitState f)) q
  else s

def execTrainingComplete (port : Fin 24) (f : Flit) (s : State) : Result := .next (trainingComplete s port f)

/-- TRAINING_TIMEOUT: the port seeks again. -/
def execTrainingTimeout (port : Fin 24) (s : State) : Result :=
  .next (if (s.port port).st == .training then s.modPort port fun p => { p with st := .seeking } else s)

/-- QUARANTINE_END (R292). -/
def execQuarantineEnd (port : Fin 24) (s : State) : Result :=
  .next (if (s.port port).st == .quarantined then s.modPort port fun p => { p.setDark false with st := .seeking, flaps := 0, quarLeft := 0 } else s)

/-! ### Beacons (R221, R291) -/

/-- BEACON_TICK: the running collective engine increments the BEACON field of every sluice. -/
def execBeaconTick (s : State) : Result :=
  .next (if s.sys.coreUp then { s with ports := s.ports.map fun p => { p with beacon := (p.beacon + 1) % 256 } } else s)

/-- PEER_SUSPECT or PEER_RECOVERED names the port, its planes and the rank that R189 places on it; a sluice of no valid plane has no entry. -/
def peerEvent (s : State) (q : Fin 24) (code : Nat) : State :=
  match (s.port q).owner with
  | none => s
  | some o =>
    let n := fin16 o
    match planeTable (s.part n) with
    | none => s
    | some t =>
      match PlaneTable.role t q.val with
      | none => s
      | some (pl, c) =>
        let mask := ((PlaneTable.validPlanes t).filter fun k => (PlaneTable.ports t k).contains q.val).foldl (fun a k => a ||| 2 ^ k) 0
        event s n code 0xF (stepNow (s.part n)) [(12, 0, 8, q.val), (13, 0, 8, mask), (14, 0, 16, PlaneTable.roleRank t pl c)]

/-- BEACON_SAMPLE: no increment since the previous sample is a miss, and a port that delivers no STATE flit misses at every sample; four in a row make the peer suspect. A sample of a DARK port samples nothing. DESIGN CHOICE (assumption 54): the 1 ms windows of R284 end with the samples. -/
def beaconSample (s : State) (q : Fin 24) : State :=
  let p := s.port q
  if p.st == .dark then s
  else
    let s0 := s.modPort q fun p => { p with weak := Vector.replicate 9 0 }
    if p.partnerBeacon = p.sampledBeacon then
      let s1 := (s0.modPort q fun p => { p with misses := p.misses + 1 }).countPort q 6 1
      if 4 ≤ p.misses + 1 && !p.suspect then peerEvent (s1.modPort q fun p => { p with suspect := true }) q evPeerSuspect else s1
    else
      let s1 := s0.modPort q fun p => { p with misses := 0, sampledBeacon := p.partnerBeacon, suspect := false }
      if p.suspect then peerEvent s1 q evPeerRecovered else s1

def execBeaconSample (port : Fin 24) (s : State) : Result := .next (beaconSample s port)

/-! ### Optical engines (R287, R447) -/

/-- The transmitter's own engine reports a fault on a wavelength: a planned swap of the lane that uses it (R285). -/
def txWavelength (s : State) (q : Fin 24) (w : Nat) : State :=
  match (s.port q).tx.onUnit .optical w with
  | some l => if linkUp (s.port q) then txFault s q l .optical true else s
  | none => s.modPort q fun p => { p with tx := p.tx.mark .optical w }

/-- The answer of one engine to STATUS: faulty wavelengths of either direction, or a missing answer; the third in a row takes the port DOWN. -/
def takeEngine (s : State) (a : EngineStatus) : State :=
  let p := s.port a.port
  if !p.present then s
  else if !a.answered then
    let s1 := s.modPort a.port fun p => { p with engineMiss := p.engineMiss + 1 }
    if 3 ≤ p.engineMiss + 1 then
      goDown (s1.modPort a.port fun p => { p with tx := { p.tx with badLanes := 0x1FF }, rx := { p.rx with badLanes := 0x1FF } }) a.port
    else s1
  else
    let s1 := s.modPort a.port fun p => { p with engineMiss := 0 }
    let s2 := ((List.range 9).filter fun w => a.lowPower.testBit w && !p.rx.badWls.testBit w).foldl (fun s w => rxFault s a.port w .optical false) s1
    ((List.range 9).filter fun w => a.txFault.testBit w && !p.tx.badWls.testBit w).foldl (fun s w => txWavelength s a.port w) s2

/-- OPT_POLL: the 10 ms poll, once the sideband bus is up. -/
def execOptPoll (answers : List EngineStatus) (s : State) : Result :=
  .next (if s.sys.optUp then answers.foldl takeEngine s else s)

/-- OPT_INT_ASSERT (R447): the assertion is counted; a sweep follows unless one began within the last 1 ms, the bus is not up, or the input is ignored. Assertions inside that 1 ms wait for the one sweep that ends it: the command that brings this sweep counts nothing again. While PORST_N is asserted the input is ignored (R475). -/
def optIntAssert (s : State) (due : Bool) (answers : List EngineStatus) : State :=
  if s.sys.porst then s else
  let k := if due && s.sys.optPending then 0 else 1
  let s1 := { s with sys := { s.sys with optInt := true, optAsserts := min 65535 (s.sys.optAsserts + k) } }
  if !s.sys.optUp || s.sys.optStuck then s1
  else if due then
    answers.foldl takeEngine { s1 with sys := { s1.sys with optSweeps := min 65535 (s1.sys.optSweeps + 1), optPending := false } }
  else { s1 with sys := { s1.sys with optPending := true } }

def execOptIntAssert (sweepDue : Bool) (answers : List EngineStatus) (s : State) : Result := .next (optIntAssert s sweepDue answers)

/-- OPT_STUCK (R447): the input has stayed asserted for 100 ms. -/
def execOptStuck (s : State) : Result := .next (if s.sys.optInt && !s.sys.porst then { s with sys := { s.sys with optStuck := true } } else s)

/-- OPT_INT_DEASSERT (R447): the input has been deasserted for 1 ms. -/
def execOptIntDeassert (s : State) : Result := .next { s with sys := { s.sys with optInt := false, optStuck := false } }

/-! ### The mirror's timeouts -/

/-- MIRROR_DETACHED (R338): a record stays unacknowledged for MTMO, or every mirror port is DOWN. -/
def mirrorDetached (s : State) (n : Fin 16) : State :=
  let p := s.part n
  if mirrorLive p && p.mirror.job.isNone && (!p.mirror.awaiting.isEmpty || allDown s (mirrorPorts p)) then detach s n else s

def execMirrorDetached (fn : Fin 16) (s : State) : Result := .next (mirrorDetached s fn)

/-- MIRROR_SYNC_TIMEOUT (R337, R350): the mirror is DETACHED, and the descriptor completes TIMEOUT. -/
def mirrorSyncTimeout (s : State) (n : Fin 16) : State :=
  if syncing (s.part n) then settle (tryOpen (endJob (detach s n) n stTimeout 0) n) n else s

def execMirrorSyncTimeout (fn : Fin 16) (s : State) : Result := .next (mirrorSyncTimeout s fn)

/-- SHARD_RESTORE_TIMEOUT (R344, R348). -/
def shardRestoreTimeout (s : State) (n : Fin 16) : State :=
  if restoring (s.part n) then settle (tryOpen (shardLost s n) n) n else s

def execShardRestoreTimeout (fn : Fin 16) (s : State) : Result := .next (shardRestoreTimeout s fn)

end Sys2Proof.Machine
end

