-- ==== Sys2Proof/Machine/Firmware.lean ====
section
/-! DEFINITION. Firmware banks and their check (R460, R461), read-back signatures of wipes (R466, R467), and the wipe of a partition. -/
namespace Sys2Proof.Machine

/-! ### Firmware (R460, R461) -/

/-- The bytes of a bank or of a mailbox transfer. -/
def wordBytes (ws : List Word) : List Byte := ws.flatMap fun w => toLE 4 w.toNat

def word (ws : List Word) (i : Nat) : Nat := (ws.getD i 0).toNat

def fwLength (ws : List Word) : Nat := word ws 3

/-- A bank passes when MAGIC and LENGTH are valid, SIG verifies under Erelaut's firmware key, and SVN is at least the fused minimum. -/
def bankPasses (svnMin : Nat) (ws : List Word) : Bool :=
  let n := fwLength ws
  word ws 0 == 0x47465731 && n % 4 == 0 && decide (n ≤ 1048352) && decide (n + 160 ≤ 4 * ws.length) && decide (svnMin ≤ word ws 2)
    && Config.ecdsaVerify Config.firmwareKey (Config.sha384 ((wordBytes ws).take (n + 64))) (((wordBytes ws).drop (n + 64)).take 96)

def bankOf (l : Lcs) (b : Bool) : List Word := if b then l.bankB else l.bankA
def setBank (l : Lcs) (b : Bool) (ws : List Word) : Lcs := if b then { l with bankB := ws } else { l with bankA := ws }

/-- The boot ROM checks the active bank, then the other one; the first that passes runs, and neither leaves recovery mode. -/
def bootRom (s : State) : State :=
  let l := s.lcs
  let pass := fun b => bankPasses l.svnMin (bankOf l b)
  if pass l.active || pass (!l.active) then
    let b := if pass l.active then l.active else !l.active
    { s with lcs := { l with
      running := b, version := word (bankOf l b) 1, otherValid := pass (!b), fwUp := true, recovery := false } }
  else { s with lcs := { l with fwUp := false, recovery := true, otherValid := false } }

/-- The controller boots: a power die of another die set keeps the ROM in recovery mode, whatever the banks hold (R472). -/
def boot (s : State) : State :=
  match s.sys.rampWait with
  | some env => if env.powerSerial == s.lcs.serial.toNat then bootRom s else { s with lcs := { s.lcs with fwUp := false, recovery := true } }
  | none => bootRom s

/-- A fresh nonce from the random source (R465). -/
def freshNonce (s : State) : State :=
  let (v, s1) := s.draw
  { s1 with lcs := { s1.lcs with nonce := BitVec.ofNat 128 v } }

/-! ### Signatures (R466, R467) -/

/-- Unit counts per basin of classes 1 to 5. -/
def perBasin : Nat → Nat
  | 1 => 524288
  | 2 => 32768
  | 3 => 184320
  | 4 => 98304
  | 5 => 512
  | _ => 0

/-- UNITS of a class in the scope of a partition with `k` basins. -/
def partUnits (k c : Nat) : Nat := if c = 6 then 2304 else perBasin c * k

/-- UNITS of a class in a wipe of the whole device with `k` basins in service or spare. -/
def deviceUnits (k c : Nat) : Nat :=
  match c with
  | 4 => 12582912
  | 5 => 65536
  | 6 => 36864
  | 7 => 2048
  | 8 => 65536
  | _ => perBasin c * k

/-- Units of a class that failed read-back twice. -/
def missed (ms : List (Nat × Nat)) (c : Nat) : Nat := ((ms.filter fun m => m.1 == c).map fun m => m.2).sum

/-- The signature over the records of some classes. -/
def wipeSignature (units : Nat → Nat) (ms : List (Nat × Nat)) (classes : List Nat) : Word :=
  BitVec.ofNat 32 (crc32c (classes.flatMap fun c => toLE 4 c ++ toLE 4 (units c) ++ toLE 4 (missed ms c)))

/-- RAS entries of the classes with a mismatch (R468). -/
def wipeRas (s : State) (n : Option (Fin 16)) (ms : List (Nat × Nat)) : State :=
  ((List.range 9).filter fun c => missed ms c != 0).foldl (fun s c => rasLog s (if c = 2 then rasCisternUe else rasSramUe) actFenced n 0 0) s

/-! ### The wipe of a partition (R390, R466) -/

def inRanges (rs : List (Nat × Nat)) (b : Nat) : Bool := rs.any fun r => decide (r.1 ≤ b) && decide (b < r.1 + r.2)

/-- Zero everything that the basins of some ranges hold. -/
def wipeBasins (s : State) (rs : List (Nat × Nat)) : State :=
  { s with
    sram := s.sram.filter fun e => !inRanges rs (basinOf e.1),
    badSram := s.badSram.filter fun a => !inRanges rs (basinOf a),
    cistern := s.cistern.filter fun e => !inRanges rs (wordBasin e.1),
    chunk := s.chunk.filter fun e => !inRanges rs (e.1 / 32768),
    chunkNan := s.chunkNan.filter fun e => !inRanges rs (e.1 / 32768),
    sump := s.sump.filter fun e => !inRanges rs (e.1 / 131072),
    sumpNan := s.sumpNan.filter fun e => !inRanges rs (e.1 / 131072) }

/-- A partition after its reset: no plan, handles, epoch or steps; its committed partition-scoped values stand (R390). -/
def clearedPart (p : Part) : Part :=
  { Part.reset with
    shutter := p.shutter, reason := p.reason, numerics := p.numerics, arrayMode := p.arrayMode, cstRetire := p.cstRetire,
    cfgPending := p.cfgPending }

/-- The snapshot slots of a partition are wiped, and a read of one ends ABORTED (R458). -/
def clearSlots (s : State) (n : Fin 16) : State :=
  let s1 := s.modSlots n fun _ => (Slot.empty, Slot.empty)
  if s.mbx.st == .read && wbits s.mbx.cmd 7 0 == 0x11 && wbits s.mbx.cmd 11 8 == n.val then
    { s1 with mbx := { s1.mbx with st := .error, result := 6, words := 0, buf := [] } }
  else s1

/-! ### The mailbox command in progress (R453, R454, R461) -/

def mbxRunning (s : State) : Bool := s.mbx.st == .busy || s.mbx.st == .write || s.mbx.st == .read

def mbxOp (s : State) : Nat := wbits s.mbx.cmd 7 0
def mbxPart (s : State) : Fin 16 := fin16 (wbits s.mbx.cmd 11 8)
def mbxSlot (s : State) : Bool := s.mbx.cmd.getLsbD 12

/-- The slot of a SNAP_READ is in use no longer (R458). -/
def releaseSlot (s : State) : State :=
  if s.mbx.st == .read && mbxOp s == 0x11 then
    s.modSlots (mbxPart s) fun x => putSlot x (mbxSlot s) { getSlot x (mbxSlot s) with inUse := false }
  else s

/-- The command ends with a state and a result. -/
def mbxEnd (s : State) (st : MbxSt) (result : Nat) : State :=
  let s1 := releaseSlot s
  { s1 with mbx := { s1.mbx with st := st, result := result, words := 0, buf := [] } }

/-- The controller restarts into its active bank; a mailbox command in progress ends ABORTED (R461). -/
def restart (s : State) : State := boot (if mbxRunning s then mbxEnd s .error 6 else s)

end Sys2Proof.Machine
end

