-- ==== Sys2Proof/Machine/Shutter.lean ====
section
/-! DEFINITION. Shutters (R22 to R28, R494), function resets (R390 to R393), and resets and power-up of the device core (R440 to R445). -/
namespace Sys2Proof.Machine

/-! ### The course of a closure -/

/-- Make one substitution that a closure carries. Where its spare has gone, the closure becomes FAULT_FENCE, and the event of R27 names the resource; a function reset goes on to its end (R494). -/
def makeSpare (s : State) (n : Fin 16) (g : GateReq) : State :=
  if spareNow s g then closureSubstitute s n g else let u := reqUnit s g; fenceUnit s n g u.1 u.2.1 u.2.2

/-- Make the substitutions that a closure carries. -/
def makeSpares (s : State) (n : Fin 16) : State :=
  (s.part n).closureSpares.foldl (fun s g => makeSpare s n g) (s.modPart n fun p => { p with closureSpares := [] })

/-- A closure ends CLOSED for FAULT_FENCE (R27, R468, R494). -/
def fenceClosed (s : State) (n : Fin 16) : State :=
  s.modPart n fun p => { p with shutter := .closed, reason := .faultFence, fenceAfter := false }

/-- SHUTTER_QUIESCED: every unit of the partition is quiescent. A function reset goes on to its wipe, SPARING to its substitution, and FAULT_FENCE stays CLOSED. -/
def shutterQuiesced (s : State) (n : Fin 16) : State :=
  let p := s.part n
  if p.shutter != .closing then s
  else
    match p.reason with
    | .functionReset => s.modPart n fun p => { p with shutter := .wiping }
    | .sparing =>
      let s1 := makeSpares s n
      if (s1.part n).reason == .sparing then s1.modPart n fun p => { p with shutter := .opening } else settleGates (fenceClosed s1 n)
    | _ => settleGates ((makeSpares s n).modPart n fun p => { p with shutter := .closed })

def execShutterQuiesced (fn : Fin 16) (s : State) : Result := .next (shutterQuiesced s fn)

/-- Basins that the wipe of a partition covers (R361). -/
def wipeCount (rs : List (Nat × Nat)) : Nat := ((List.range 128).filter (inRanges rs)).length

/-- WIPE_COMPLETE (steps 5 and 6 of R26): memories are zero, the signature is recorded, registers return to reset, and the sluices have no owner; a mismatch, or a fault with no spare, ends in FAULT_FENCE. -/
def wipeComplete (s : State) (n : Fin 16) (ms : List (Nat × Nat)) : State :=
  let p := s.part n
  if p.shutter != .wiping then s
  else
    let rs := p.wipeRange
    let sig := wipeSignature (partUnits (wipeCount rs)) ms [1, 2, 3, 4, 5, 6]
    let s1 := makeSpares s n
    let fence := (s1.part n).fenceAfter
    let s2 := clearSlots (assignPorts (wipeBasins s1 rs) n [] none) n
    let s3 := s2.modFn n fun f => { Fn.reset with wipeSig := sig, d3hot := f.d3hot, devctl := f.devctl }
    let s4 := s3.modPart n clearedPart
    let s5 := wipeRas s4 (some n) ms
    if fence || !((List.range 9).all fun c => missed ms c == 0) then settleGates (fenceClosed s5 n)
    else s5.modPart n fun p => { p with shutter := .opening }

/-- A function reset of some partition is under way. -/
def resetsRun (s : State) : Bool :=
  s.parts.toList.any fun p => p.reason == .functionReset && p.shutter != .open_

/-- Once the resets of an accepted token are over, the command is DONE, the controller restarts into its active bank, and LCS_WIPE_SIG covers every class; a mismatch leaves every Shutter CLOSED (R465, R468). -/
def tokenDone (s : State) : State :=
  if !s.lcs.tokenBusy || resetsRun s then s
  else
    let ms := s.lcs.tokenMiss
    let s1 := if ms.all fun m => m.2 == 0 then s
      else { s with parts := s.parts.map fun p => { p with shutter := .closed, reason := .faultFence } }
    let s2 := restart (if s1.mbx.st == .busy && mbxOp s1 == 0x40 then mbxEnd s1 .done 0 else s1)
    { s2 with lcs := { s2.lcs with
      tokenBusy := false, tokenMiss := [],
      wipeSig := wipeSignature (deviceUnits (s.spares.enabled + s.spares.spareBasins)) ms [1, 2, 3, 4, 5, 6, 7, 8] } }

/-- WIPE_COMPLETE; the wipes of a token gather their mismatches. -/
def execWipeComplete (fn : Fin 16) (mismatch : List (Nat × Nat)) (s : State) : Result :=
  let s1 := if s.lcs.tokenBusy && (s.part fn).shutter == .wiping then
      { s with lcs := { s.lcs with tokenMiss := s.lcs.tokenMiss ++ mismatch } } else s
  .next (tokenDone (wipeComplete s1 fn mismatch))

/-- SHUTTER_OPEN: what joined the closure late is substituted, the Shutter opens, and the partition's gate applies what waited. -/
def shutterOpen (s : State) (n : Fin 16) : State :=
  if (s.part n).shutter != .opening then s
  else
    let s1 := makeSpares s n
    if (s1.part n).shutter != .opening || (s1.part n).fenceAfter then settleGates (fenceClosed s1 n)
    else settleGates (s1.modPart n fun p => { p with shutter := .open_ })

def execShutterOpen (fn : Fin 16) (s : State) : Result := .next (tokenDone (shutterOpen s fn))

/-! ### Function resets -/

/-- Function n is there: the physical function always, a virtual one while VF Enable is set (R391). -/
def fnExists (s : State) (n : Fin 16) : Bool := n.val == 0 || s.sys.vfEnable

/-- The host reaches the function: the core is ready and the link is up. -/
def hostReaches (s : State) (n : Fin 16) : Bool := s.sys.ready && s.sys.linkUp && fnExists s n

/-- The configuration space of a function as a conventional reset, a Function Level Reset or the way out of D3hot leaves it (R356, R391 to R393). -/
def resetConfig (s : State) (n : Fin 16) : State := s.modFn n fun f => { f with devctl := Fn.reset.devctl, d3hot := false }

/-- Clearing VF Enable resets every virtual function (R391). -/
def clearVf (s : State) : State :=
  if s.sys.vfEnable then
    (allParts.filter fun n => n.val != 0).foldl functionReset { s with sys := { s.sys with vfEnable := false } }
  else s

/-- FUNCTION_LEVEL_RESET: a function reset; that of the physical function also clears VF Enable and discards the uncommitted staging image (R391, R405). -/
def functionLevelReset (s : State) (n : Fin 16) : State :=
  if !hostReaches s n then s
  else
    let s1 := functionReset (resetConfig s n) n
    if n.val = 0 then clearVf { s1 with cfg := { s1.cfg with staged := [], bad := [] } } else s1

def execFunctionLevelReset (fn : Fin 16) (s : State) : Result := .next (settleGates (functionLevelReset s fn))

/-- FN_RESET (R390, R391). -/
def execFnReset (fn : Fin 16) (value : Word) (s : State) : Result :=
  .next (if hostReaches s fn && value.getLsbD 0 then settleGates (functionReset s fn) else s)

/-- VF_ENABLE_CLEAR. -/
def execVfEnableClear (s : State) : Result := .next (if hostReaches s 0 then settleGates (clearVf s) else s)

/-- VF_ENABLE_SET: each virtual function starts in the state that its function reset left (R391). -/
def execVfEnableSet (s : State) : Result :=
  .next (if hostReaches s 0 then { s with sys := { s.sys with vfEnable := true } } else s)

/-- D0_TO_D3HOT (R392). -/
def execD0ToD3hot (fn : Fin 16) (s : State) : Result :=
  .next (if hostReaches s fn then s.modFn fn fun f => { f with d3hot := true } else s)

/-- D3HOT_TO_D0: a function reset (R392). -/
def execD3hotToD0 (fn : Fin 16) (s : State) : Result :=
  .next (if hostReaches s fn && (s.fn fn).d3hot then settleGates (functionReset (resetConfig s fn) fn) else s)

/-! ### The host link (R393) -/

/-- What the outstanding COPYs and CST_READs of a partition were to write in the Transom window or host memory is undefined (R133, R157, R394). -/
def spoilOutside (s : State) (n : Fin 16) : State :=
  (flightsWhere s n fun f => f.phase == .running).foldl (fun s x =>
    let rs := if dOpcode x.2.d = 0x08 then Tensor.ranges (tensorAt (s.part n) (fld x.2.d 10 0 12))
      else if dOpcode x.2.d = 0x22 then readTargets (s.part n) x.2.d else []
    scramble s n x.2.step (rs.filter fun y => spaceOf y.1 != 0)) s

/-- The link leaves DL_Active: transfers under way fail, every function is reset, and the configuration space returns to its initial state. -/
def linkLost (s : State) : State :=
  if s.sys.linkUp then
    let s0 := allParts.foldl spoilOutside { s with sys := { s.sys with linkUp := false } }
    let s1 := (allParts.filter (fnExists s)).foldl functionReset s0
    allParts.foldl resetConfig { s1 with sys := { s1.sys with vfEnable := false } }
  else s

/-- HOST_LINK_DOWN. -/
def execHostLinkDown (s : State) : Result := .next (settleGates (linkLost s))

/-- HOST_LINK_UP: the link returns, and its crossing is monitored again. -/
def execHostLinkUp (s : State) : Result :=
  .next (if s.sys.ready && !s.sys.perst then
      { s with sys := { s.sys with linkUp := true, stalled := s.sys.stalled.filter fun x => x != .pcie } }
    else s)

/-! ### Resets of the device core (R405, R440, R443) -/

/-- PERST_N wipes the snapshot slots and the mailbox buffers; a mailbox command in progress ends ABORTED, and the mailbox is IDLE (R440, R453). -/
def endMailbox (s : State) : State :=
  { s with
    slots := Vector.replicate 16 (Slot.empty, Slot.empty),
    lcs := { s.lcs with tokenBusy := false, tokenMiss := [] },
    mbx := { s.mbx with st := .idle, result := if mbxRunning s then 6 else s.mbx.result, words := 0, buf := [] } }

/-- The input fault wipes the same two memories (R466). A mailbox command whose buffer is in use ends ABORTED with it (DEDUCED, assumption 55). -/
def wipeBuffers (s : State) : State :=
  let s1 := if s.mbx.st == .write || s.mbx.st == .read then mbxEnd s .error 6 else s
  { s1 with slots := Vector.replicate 16 (Slot.empty, Slot.empty) }

/-- PWR registers stand through a reset of the device core (R405). -/
def keepPwr (m : RegMap) : RegMap := m.filter fun e => e.1 / 0x10000 == 2

/-- A reset of the device core and of the host domain: Shutters close, sluices are DARK, memories are wiped, staged blocks but PWR return to reset, and committed PWR values come into force. The always-on domain is untouched, and a crossing whose clock is absent stays in reset (R440, R441). -/
def coreReset (s : State) : State :=
  let pwr := keepPwr s.cfg.committed
  { s with
    sram := [], badSram := [], cistern := [], weights := [], laneq := [], chunk := [], chunkNan := [], sump := [], sumpNan := [], drains := [],
    parts := Vector.replicate 16 { Part.reset with shutter := .closed },
    fns := Vector.replicate 16 Fn.reset,
    ports := Vector.replicate 24 Port.reset,
    cfg := { Cfg.reset with committed := pwr, force := pwr },
    spares := Spares.reset,
    power := { s.power with counters := Vector.replicate 16 0, microJ := 0 },
    evtStatus := 0, evtFaultEn := 3, evtError := 0,
    sys := { s.sys with
      coreUp := false, ready := false, linkUp := false, vfEnable := false, haltAccepted := 0, haltCoalesced := 0, optAsserts := 0,
      optSweeps := 0, optPending := false, optStuck := false, optUp := false, stallClass := 0, stallIndex := 0, stallCount := 0,
      modePending := [], compat := [], d2dTrained := 0, d2dReady := false } }

/-- Record the cause of a reset of the device core, and keep it among the fault records (R443, R459). -/
def recordCause (s : State) (code : Nat) : State :=
  let (time, s1) := s.draw
  let e : BitVec 256 := packFields 256 [(0, 0, 8, 0x80 + code), (1, 0, 8, actNone), (2, 7, 1, 1), (4, 0, 32, noStep), (24, 0, 64, time)]
  { s1 with sys := { s1.sys with cause := code }, lcs := { s1.lcs with records := (e :: s1.lcs.records).take 32 } }

/-- The core rails go down, and with them everything outside the always-on domain. -/
def railsOff (s : State) (code : Nat) : State :=
  let s1 := coreReset (recordCause s code)
  tokenDone { s1 with
    sys := { s1.sys with rails := false, rampWait := none },
    power := { s1.power with code := 0, target := 0, vsram := 0, emergency := false, covered := [], ceiling := [] } }

/-- The input fault of R416: FG2-P shuts down every rail but VAON, the device core is reset with its memories, and PL_FAULT_N is asserted. With the rails down already, FG2-P still asserts it, and a power-up that waits is given up. -/
def inputFault (s : State) : State :=
  if s.sys.porst then s
  else
    let s1 := if s.sys.rails then wipeBuffers (railsOff s 4) else s
    { s1 with sys := { s1.sys with rampWait := none }, power := { s1.power with plFault := true } }

/-- PORST_N resets every domain; the cause is recorded where the core was running. Fuses, the firmware store and the fault records stay. -/
def porstAssert (s : State) : State :=
  let s1 := endMailbox (coreReset (if s.sys.rails then recordCause s 1 else s))
  { s1 with
    cfg := Cfg.reset, power := Power.reset, mbx := Mbx.reset, ras := [], rasOverflow := false,
    lcs := { s1.lcs with fwUp := false, recovery := false, wipeSig := 0 },
    sys := { s1.sys with porst := true, rails := false, rampWait := none, trip := false, halt := false, mgmtFallback := false, tapReset := true } }

/-- PORST_ASSERT. -/
def execPorstAssert (s : State) : Result := .next (if s.sys.porst then s else porstAssert s)

/-- VDDIO18_FALL (R486): as an assertion of PORST_N. -/
def execVddio18Fall (s : State) : Result := .next (if s.sys.porst then s else porstAssert s)

/-! ### Power-up (R444) -/

/-- The wipe of classes 1 to `top`, its signature, and the Shutters: OPEN, or CLOSED for FAULT_FENCE after a mismatch (R467, R468). -/
def bootWipe (s : State) (env : BootEnv) (top : Nat) : State :=
  let sig := wipeSignature (deviceUnits (env.enabled + env.spareBasins)) env.wipeMismatch ((List.range top).map (· + 1))
  let bad := !((List.range 9).all fun c => missed env.wipeMismatch c == 0)
  let s1 := wipeRas { s with lcs := { s.lcs with wipeSig := sig } } none env.wipeMismatch
  { s1 with parts := s1.parts.map fun p => { p with
    shutter := if bad then .closed else .open_, reason := if bad then .faultFence else .none } }

/-- The optical sideband bus fills LNK_PORT_n_OPT and commands every engine DARK (step 4). -/
def bootEngines (s : State) (env : BootEnv) : State :=
  env.engines.foldl (fun s e =>
      if e.1 < 24 then s.modPort (fin24 e.1) fun p => ({ p with addr := e.2 % 128, present := true } : Port).command [4, 1] else s)
    { s with sys := { s.sys with optUp := true } }

/-- A BSN_MAP_n value within the bounds of its fields (R114). -/
def basinWord (w : Word) : Word := BitVec.ofNat 32 (min 135 (wbits w 7 0) + 256 * min 2 (wbits w 9 8) + 1024 * min 18 (wbits w 14 10))

/-- A CST_BANK_MAP_n value with the banks that SPARES_USED counts (R167). -/
def bankWord (w : Word) : Word :=
  let k := min 2 (wbits w 1 0)
  BitVec.ofNat 32 (k + (if 1 ≤ k then 4 * wbits w 7 2 + 256 else 0) + if k = 2 then 512 * wbits w 14 9 + 32768 else 0)

/-- The results of the basin self-test (step 5). DESIGN CHOICE (assumption 44): a basin that boots with arrays on their spare row does not say which, and they count as arrays whose spare row is still free until all 18 have used theirs. -/
def bootBasins (s : State) (env : BootEnv) : State :=
  { s with spares := { Spares.reset with
    enabled := min 128 env.enabled, spareBasins := min 8 env.spareBasins,
    basinMap := (env.basinMap.take 128).zipIdx.foldl (fun m x => Sparse.put (BitVec.ofNat 32 x.2) m x.2 (basinWord x.1)) [],
    bankMap := (env.bankMap.take 128).zipIdx.foldl (fun m x => Sparse.put 0 m x.2 (bankWord x.1)) [] } }

/-- The device core is ready (step 7): the PCI Express link serves the host, unless its crossing is held in reset (R441). -/
def coreReady (s : State) : State :=
  { s with sys := { s.sys with ready := true, linkUp := s.sys.linkUp || (!s.sys.ready && !s.sys.stalled.contains .pcie) } }

/-- Steps 3 to 5, and step 7 once PERST_N is deasserted: the core may become ready only while configuration requests arrive (R445). -/
def coreBoot (s : State) (env : BootEnv) (top : Nat) : State :=
  let s1 := bootBasins (bootEngines (bootWipe s env top) env) env
  let s2 := { s1 with sys := { s1.sys with coreUp := true } }
  if s2.sys.perst || !env.coreReady then s2 else coreReady s2

/-- FG2-P ramps VPHY, VD2D, VSRAM to 0.77 V and VCORE to 0.72 V, and the rest of the sequence follows; an input that leaves its range during the ramp shuts FG2-P down (R416, R444, R490). -/
def ramp (s : State) (env : BootEnv) : State :=
  let s1 := { s with
    sys := { s.sys with rails := true, rampWait := none },
    power := { s.power with code := 68, measCode := 68, target := 68, vsram := 88, frames := s.power.frames ++ [(true, 88), (false, 68)] } }
  if !env.railsUp then inputFault s1 else coreBoot s1 env 8

/-- The release of PORST_N: the boot ROM, the check of the power die, and the rails, which wait for firmware that passes and until every sensor reads below 110 °C (R426, R444, R461, R472, R490). -/
def porstRelease (s : State) (env : BootEnv) : State :=
  let s1 := freshNonce { s with sys := { s.sys with
    porst := false, mgmtFallback := !env.mgtClk, tapReset := false, halt := s.sys.haltRaw, rampWait := some env,
    stalled := if env.mgtClk then s.sys.stalled.filter fun x => x != .mgmt else s.sys.stalled } }
  let s2 := boot s1
  if !s2.lcs.fwUp || env.hot then s2 else ramp s2 env

/-- POWER_SAMPLE (R423, R424); the first with firmware running and every sensor below 110 °C lets a power-up that waits go on (R426). -/
def execPowerSample (m : PowerMeas) (s : State) : Result :=
  let s1 := powerSample s m
  .next (match s1.sys.rampWait with
    | some env => if s1.lcs.fwUp && m.sensors.all fun t => decide (t < tempCode 110) then ramp s1 env else s1
    | none => s1)

/-- PORST_RELEASE. -/
def execPorstRelease (env : BootEnv) (s : State) : Result := .next (if s.sys.porst then porstRelease s env else s)

/-- PERST_ASSERT: the device core and the host domain are reset, and the mailbox ends; while PORST_N is asserted only the level is taken (R440, R448, R453, R475). -/
def perstAssert (s : State) : State :=
  let s1 := { s with sys := { s.sys with perst := true } }
  if s.sys.perst || s.sys.porst then s1
  else endMailbox (if s.sys.rails then coreReset (recordCause s1 2) else s1)

def execPerstAssert (s : State) : Result := .next (perstAssert s)

/-- PERST_DEASSERT: steps 3 to 7 follow where the core was reset, step 7 alone where it is up already. -/
def perstDeassert (s : State) (env : BootEnv) : State :=
  let s1 := { s with sys := { s.sys with perst := false } }
  if s.sys.porst || !s.sys.rails then s1
  else if s.sys.coreUp then (if env.coreReady then coreReady s1 else s1)
  else coreBoot s1 env 7

def execPerstDeassert (env : BootEnv) (s : State) : Result := .next (perstDeassert s env)

/-! ### Faults of the supply that stop the core -/

/-- THERMTRIP (R426): the rails go down, and the trip stands until PORST_N; the flag of FG2-P goes with them (R490). -/
def execThermtrip (s : State) : Result :=
  .next (if s.sys.porst then s
    else
      let s1 := if s.sys.rails then railsOff s 3 else s
      { s1 with sys := { s1.sys with trip := true, rampWait := none }, power := { s1.power with plFault := false } })

/-- VCORE_UNDERVOLTAGE (R417): FG2-P shuts down. -/
def execVcoreUndervoltage (s : State) : Result :=
  .next (if s.sys.rails then inputFault s else s)

/-- INPUT_FAULT (R416). -/
def execInputFault (s : State) : Result := .next (inputFault s)

end Sys2Proof.Machine
end

