-- ==== Sys2Proof/Machine/Boundary.lean ====
section
/-! DEFINITION. Clock crossings and their stalls (R434 to R441), HALT_IN (R446), the TAP, the Transom's modules and transactions (R413, R445), configuration requests, and requests to the host that fail (R394). -/
namespace Sys2Proof.Machine

/-! ### Transfers that fail while outstanding -/

/-- Address ranges beyond basin SRAM that a flight transfers to or from: those of a running COPY or CST_READ, or the image that a descriptor held at the gate reads. -/
def transferRanges (s : State) (n : Fin 16) (f : Flight) : List (Nat × Nat) :=
  let p := s.part n
  let op := dOpcode f.d
  let rs : List (Nat × Nat) :=
    if f.phase == .running then
      if op = 0x08 then Tensor.ranges (tensorAt p (fld f.d 8 0 12)) ++ Tensor.ranges (tensorAt p (fld f.d 10 0 12))
      else if op = 0x22 then readTargets p f.d
      else []
    else if f.phase == .gate then imageRange s f.d
    else []
  rs.filter fun x => spaceOf x.1 != 0

/-- An outstanding transfer fails at an address (R133, R157, R491): DMA_FAULT names it, what it was to write is undefined, and the descriptor ends ABORTED. -/
def failTransfer (s : State) (n : Fin 16) (r : Fin 8) (f : Flight) (addr : Nat) : State :=
  let stop := fun (s : State) => endFlight (dmaFault s n r f.seq addr f.step) n r f.seq stAborted (abortDetail 1)
  if dOpcode f.d = 0x08 then stop (scramble s n f.step (Tensor.ranges (tensorAt (s.part n) (fld f.d 10 0 12))))
  else if dOpcode f.d = 0x22 then
    let tag : Tag := { fn := n.val, ring := r.val, seq := f.seq }
    let s1 := scramble { s with laneq := s.laneq.filter fun o => o.tag != tag } n f.step (readTargets (s.part n) f.d)
    stop (if cClear f.d then maybeClear s1 (readWords f) else s1)
  else noReadFlight s n r f addr

/-! ### Requests to the host (R373, R394) -/

/-- The ring stops in FAULT and writes RING_FAULT. -/
def ringFault (s : State) (n : Fin 16) (r : Fin 8) (why : Stop) (iova write : Nat) : State :=
  event (s.modRing n r fun x => { x with stop := why }) n evRingFault r.val (stepNow (s.part n)) [(12, 0, 64, iova), (20, 0, 1, write)]

/-- A descriptor read fails: only a ring that would issue reads its next slot. -/
def fetchFails (s : State) (n : Fin 16) (r : Fin 8) : State :=
  let x := s.ring n r
  if mayIssue s n r then ringFault s n r .fetchFault (x.base.toNat + 64 * (x.issue % depthOf x.ctl)) 0 else s

/-- A completion write fails: the descriptor's effects stand, its slot is as before, and HEAD does not pass it until RESUME has it written again (R373, R395); it is the last completion that the ring has written, of whatever descriptor. One that is being written again keeps the ring in FAULT. -/
def completionFails (s : State) (n : Fin 16) (r : Fin 8) : State :=
  let x := s.ring n r
  if !mayDma s n then s
  else if !x.failed.isEmpty && x.stop == .none then ringFault s n r .completionFault ((x.failed.headD (0, [], false)).1) 1
  else
    match x.last with
    | some l =>
      let s1 := (hostWrite s l.addr l.old).modRing n r fun x => { x with
        head := l.head, written := l.written, failed := x.failed ++ [(l.addr, l.bytes, l.irq)], last := none }
      settle (ringFault s1 n r .completionFault l.addr 1) n
    | none => s

/-- A data transfer of descriptor `seq` fails at a host address. -/
def dataFails (s : State) (n : Fin 16) (r : Fin 8) (seq addr : Nat) : State :=
  match findFlight s n r seq with
  | some f =>
    if spaceOf addr == 8 && (transferRanges s n f).any fun x => decide (x.1 ≤ addr) && decide (addr < x.1 + x.2) then
      settle (failTransfer s n r f addr) n
    else s
  | none => s

/-- A failed event or interrupt write is counted. -/
def countDropped (s : State) (n : Fin 16) : State := s.modFn n fun f => { f with evt := { f.evt with dropped := min 65535 (f.evt.dropped + 1) } }

/-- The write of the last event entry fails (R394): its slot is as before, and it is dropped and counted. -/
def eventFails (s : State) (n : Fin 16) : State :=
  match (s.fn n).evt.last with
  | some (a, old) =>
    if (s.fn n).evt.prod = (s.fn n).evt.head then s
    else countDropped ((hostWrite s a old).modFn n fun f => { f with evt := { f.evt with prod := (f.evt.prod + noStep) % 2 ^ 32, last := none } }) n
  | none => s

/-- An MSI-X message of the function fails: it is counted and dropped (R394). -/
def messageFails (s : State) (n : Fin 16) : State :=
  if s.out.posted.any fun x => x.kind == .message && x.fn == n.val then countDropped s n else s

/-- A write of the local store's newest record fails in host memory: the record is not complete, its step fails its check, and RAS records LSTORE_FAULT (R394, R491). -/
def localStoreFails (s : State) (n : Fin 16) : State :=
  match mirrorTable (s.part n), (s.part n).mirror.records.getLast? with
  | some m, some r =>
    if storeOn m && spaceOf (MirrorTable.lstore m) == 8 && (findStep (s.part n) r.step).any fun k => k.fate == .open_ then
      let s1 := modStep s n r.step fun k => { k with localDone := false }
      let s2 := s1.modPart n fun p => { p with mirror := { p.mirror with records := p.mirror.records.dropLast } }
      settle (tryOpen (failStep (lstoreFault s2 n (MirrorTable.lstore m)) n r.step 4) n) n
    else s
  | _, _ => s

/-- A write of the hosted store fails in host memory: the transfer that is arriving is not acknowledged, and RAS records LSTORE_FAULT (R394, R491). -/
def hostedStoreFails (s : State) (n : Fin 16) : State :=
  match mirrorTable (s.part n) with
  | some m =>
    if spaceOf (MirrorTable.hstore m) == 8 && !(hostedOf s n).xfers.isEmpty then
      rasLog (modHosted s n fun h => { h with xfers := h.xfers.drop 1 }) rasLstoreFault actNone (some n) (MirrorTable.hstore m) 0
    else s
  | none => s

/-- HOST_REQUEST_FAILURE. -/
def execHostRequestFailure (k : HostFailure) (s : State) : Result :=
  .next (match k with
    | .fetch n r => fetchFails s n r
    | .completion n r => completionFails s n r
    | .data n r seq addr => dataFails s n r seq addr
    | .store n hosted => if hosted then hostedStoreFails s n else localStoreFails s n
    | .message n => messageFails s n
    | .event n => eventFails s n)

/-- Device Control as its configuration register shows it: Enable Relaxed Ordering [4], Max_Payload_Size [7:5], Max_Read_Request_Size [14:12]. The rule names the fields and gives no layout: PRESUMED (assumption 56), that of the PCI Express specification. -/
def devctlWord (c : DevCtl) : Nat := (if c.relaxed then 16 else 0) + 32 * c.payload.val + 4096 * c.readRequest.val

/-- Device Control after a write: a size code that R356 does not support changes nothing (DESIGN CHOICE, assumption 56). -/
def devctlWrite (c : DevCtl) (w : Nat) : DevCtl :=
  { relaxed := w.testBit 4,
    payload := if h : w / 32 % 8 < 3 then ⟨w / 32 % 8, h⟩ else c.payload,
    readRequest := if h : w / 4096 % 8 < 6 then ⟨w / 4096 % 8, h⟩ else c.readRequest }

/-- A register of configuration space (R356). -/
def configValue (s : State) (n : Fin 16) (reg : ConfigReg) : Nat :=
  match reg with
  | .identity => (if n.val = 0 then 0x0F22 else 0x0F23) * 2 ^ 16 + Config.vendorId.toNat
  | .classCode => 0x120000
  | .deviceControl => devctlWord (s.fn n).devctl

/-- A configuration request (R444, R445): Request Retry Status until the device core is ready, from then on it is served and completes normally; without a trained link no request arrives. No time is counted: when a core that is up becomes ready is an open value (assumption 57). -/
def configRequest (s : State) (serve : State → State) : State :=
  if s.sys.porst || s.sys.perst || !s.sys.coreUp || s.sys.stalled.contains .pcie || (s.sys.ready && !s.sys.linkUp) then s
  else
    let x := if s.sys.ready then (1, s) else s.draw
    if x.1 % 2 = 0 then { x.2 with out := { x.2.out with answer := 1 } }
    else
      let s1 := serve (coreReady x.2)
      { s1 with out := { s1.out with answer := 2 } }

/-- A read of a function's configuration space; a function that does not exist gives nothing. -/
def configRead (s : State) (n : Fin 16) (reg : ConfigReg) : State :=
  configRequest s fun s => if fnExists s n then { s with out := { s.out with readData := BitVec.ofNat 64 (configValue s n reg) } } else s

/-- A write to it: Device Control takes the value (R357), identity and class code are read-only. -/
def configWrite (s : State) (n : Fin 16) (reg : ConfigReg) (v : BitVec 64) : State :=
  configRequest s fun s =>
    if fnExists s n && reg == .deviceControl then s.modFn n fun f => { f with devctl := devctlWrite f.devctl v.toNat } else s

/-- HOST_CONFIG_REQUEST: a configuration request that neither reads nor writes a register of R356. -/
def execHostConfigRequest (s : State) : Result := .next (configRequest s id)

/-! ### The Transom (R413, R439, R444, R445) -/

/-- Some byte of a window range belongs to a partition whose Shutter is not OPEN (R23). -/
def windowClosed (s : State) (addr len : Nat) : Bool :=
  allParts.any fun n =>
    let w := s.force (0x40100 + 4 * n.val)
    (s.part n).shutter != .open_ && overlap addr (max 1 len) (wbits w 15 0 * 2 ^ 30) (wbits w 31 16 * 2 ^ 30)

/-- Bytes of the window. -/
def windowRead (s : State) (a : Nat) : Nat → List Byte
  | 0 => []
  | k + 1 => Sparse.get 0 s.transom (a % 2 ^ 44) :: windowRead s (a + 1) k

def windowWrite (s : State) (a : Nat) : List Byte → State
  | [] => s
  | b :: bs => windowWrite { s with transom := Sparse.put 0 s.transom (a % 2 ^ 44) b } (a + 1) bs

/-- TRANSOM_TRANSACTION: NOT_READY before READY and for a partition that is shut, else served. -/
def transomTransaction (s : State) (t : Transaction) : State :=
  let len := match t.data with | some bs => bs.length | none => t.len
  if !s.sys.d2dReady || windowClosed s t.addr len then { s with out := { s.out with answer := 3, bytes := [] } }
  else
    match t.data with
    | some bs => let s1 := windowWrite s t.addr bs; { s1 with out := { s1.out with answer := 5, bytes := [] } }
    | none => { s with out := { s.out with answer := 5, bytes := windowRead s t.addr t.len } }

def execTransomTransaction (t : Transaction) (s : State) : Result := .next (transomTransaction s t)

/-- A module trains: it is enabled, the core is up, and its crossing is out of reset (R441, R444). The first sets READY. -/
def moduleTrains (s : State) (m : Fin 16) : State :=
  if s.sys.coreUp && (s.force 0x40000).getLsbD m.val && !s.sys.stalled.contains (.transom m) then
    { s with sys := { s.sys with d2dTrained := s.sys.d2dTrained ||| 2 ^ m.val, d2dReady := true } }
  else s

/-- TRANSOM_RETRAIN: an untrained module retries; it trains where a compute die answers. -/
def execTransomRetrain (module : Fin 16) (answered : Bool) (s : State) : Result :=
  .next (if answered then moduleTrains s module else s)

/-- TRANSOM_MODULE_TRAINED. -/
def execTransomModuleTrained (module : Fin 16) (s : State) : Result := .next (moduleTrains s module)

/-! ### Stopped clocks (R439) -/

/-- The crossing is monitored. -/
def monitored (s : State) : Crossing → Bool
  | .sluiceTx n => (s.port n).st != .dark && (s.port n).st != .quarantined
  | .sluiceRx n => [PortSt.training, .trained, .joined, .leaving].contains (s.port n).st
  | .transom m => (s.force 0x40000).getLsbD m.val && s.sys.d2dTrained.testBit m.val
  | .pcie => s.sys.linkUp
  | .mgmt => !s.sys.porst && !s.sys.mgmtFallback
  | .reset => false
  | .jtag => false

/-- EVT_STATUS.CDC_STALL and CDC_STALL_LAST, which the device core holds. -/
def noteStall (s : State) (x : Crossing) : State :=
  if s.sys.coreUp then
    { s with
      evtStatus := s.evtStatus ||| 2 ^ evtCdcStall,
      sys := { s.sys with
        stallClass := (crossingCode x).1, stallIndex := (crossingCode x).2, stallCount := min 65535 (s.sys.stallCount + 1) } }
  else s

/-- The CDC_STALL entry, for the partition that owns the sluice or for the physical function. -/
def stallEvent (s : State) (x : Crossing) : State :=
  let n : Fin 16 := match x with
    | .sluiceTx q => portFn s q
    | .sluiceRx q => portFn s q
    | _ => 0
  event s n evCdcStall 0xF (stepNow (s.part n)) [(12, 0, 8, (crossingCode x).1), (13, 0, 8, (crossingCode x).2)]

/-- Outstanding transfers through the Transom fail. -/
def failTransom (s : State) : State :=
  allParts.foldl (fun s n =>
    settle ((flightsWhere s n fun f => f.phase == .running || f.phase == .gate).foldl (fun s x =>
      match (transferRanges s n x.2).find? fun a => spaceOf a.1 == 4 with
      | some a => failTransfer s n x.1 x.2 a.1
      | none => s) s) n) s

/-- What a stall of each class causes. -/
def stallResult (s : State) : Crossing → State
  | .sluiceTx q => goDown s q
  | .sluiceRx q => goDown s q
  | .transom m =>
    let t := s.sys.d2dTrained &&& (0xFFFF ^^^ 2 ^ m.val)
    failTransom { s with sys := { s.sys with d2dTrained := t, d2dReady := s.sys.d2dReady && t != 0 } }
  | .pcie => settleGates (linkLost s)
  | .mgmt => { s with sys := { s.sys with mgmtFallback := true } }
  | _ => s

/-- CDC_STALL: a monitored crossing that is not in reset already shows no clock edge for CDC_TIMEOUT. -/
def cdcStall (s : State) (x : Crossing) : State :=
  if !monitored s x || s.sys.stalled.contains x then s
  else
    let s1 := noteStall s x
    let s2 := if x = .pcie then s1 else stallEvent s1 x
    stallResult { s2 with sys := { s2.sys with stalled := s2.sys.stalled ++ [x] } } x

def execCdcStall (x : Crossing) (s : State) : Result := .next (cdcStall s x)

/-- CROSSING_RELEASE (R441): both sides have reported release. -/
def execCrossingRelease (x : Crossing) (s : State) : Result :=
  .next { s with sys := { s.sys with stalled := s.sys.stalled.filter fun y => y != x } }

/-- CROSSING_DRAINED (R437): the empty crossing takes the mode that CDC_MODE asks for. -/
def crossingDrained (s : State) (x : Crossing) : State :=
  if s.sys.modePending.contains x then
    { s with sys := { s.sys with
      modePending := s.sys.modePending.filter fun y => y != x,
      compat := s.sys.compat.filter (fun y => y != x) ++ if wantsCompat s x then [x] else [] } }
  else s

def execCrossingDrained (x : Crossing) (s : State) : Result := .next (crossingDrained s x)

/-! ### HALT_IN and the TAP -/

/-- HALT_IN_CHANGE (R446): the raw level has been stable, with `coalesced` raw changes absorbed by the dwell; while PORST_N is asserted only the level is kept. CDC_HALT counts while the device core is up. -/
def haltInChange (s : State) (level : Bool) (coalesced : Nat) : State :=
  if s.sys.porst then { s with sys := { s.sys with haltRaw := level } }
  else
    let moved := if level == s.sys.halt then 0 else 1
    let s1 := { s with sys := { s.sys with haltRaw := level, halt := level } }
    let s2 := if s.sys.coreUp then
        { s1 with sys := { s1.sys with
          haltAccepted := min 65535 (s1.sys.haltAccepted + moved), haltCoalesced := min 65535 (s1.sys.haltCoalesced + coalesced) } }
      else s1
    if s.sys.halt && !level then settleGates s2 else s2

def execHaltInChange (level : Bool) (coalesced : Nat) (s : State) : Result := .next (haltInChange s level coalesced)

/-- TAP_RESET (R440): the TAP and the die wrapper alone. -/
def execTapReset (s : State) : Result := .next { s with sys := { s.sys with tapReset := true } }

end Sys2Proof.Machine
end

