-- ==== Sys2Proof/Machine/HostRegs.lean ====
section
/-! DEFINITION. The BAR2 registers of a function (R362 to R365, R386 to R390): rings, doorbells, the event ring, MSI-X, errors and the function reset. -/
namespace Sys2Proof.Machine

/-! ### Rejections (R389) -/

/-- Record a rejected write of BAR2. -/
def bar2Error (s : State) (n : Fin 16) (code off value : Nat) : State :=
  s.modFn n fun f => { f with
    lastError := BitVec.ofNat 32 (code % 256 + off % 2 ^ 18 * 256 + 2 ^ 31), errorValue := BitVec.ofNat 32 value,
    errorCount := min 65535 (f.errorCount + 1) }

/-! ### Rings (R364, R365, R373) -/

/-- HEAD = TAIL and nothing in flight. -/
def ringIdle (x : Ring) : Bool := x.head == x.tail && x.flights.isEmpty

/-- STATE of FN_RING_n_STATUS. -/
def ringState (x : Ring) : Nat :=
  if !enabled x.ctl then 0
  else match x.stop with
    | .halted => 3
    | .fetchFault => 4
    | .completionFault => 4
    | .none => if ringIdle x then 1 else 2

/-- A _LO word: the reserved bits read zero. -/
def loWord (v : Word) : Word := v &&& 0xFFFFF000

/-- The pair that a HI write completes (R11). -/
def joinPair (old : BitVec 64) (lo : Option Word) (hi : Word) : BitVec 64 :=
  hi ++ (lo.getD (BitVec.ofNat 32 old.toNat))

/-- The ring as its enabling leaves it: HEAD, TAIL and the sequence numbers start at 0. -/
def startedRing (x : Ring) (ctl : Word) : Ring :=
  { x with ctl := ctl, head := 0, tail := 0, issue := 0, stop := .none, flights := [], owed := [], written := [], failed := [], last := none, unsignalled := 0 }

/-- The code that rejects a write of FN_RING_n_CTL, if any. -/
def ctlVerdict (x : Ring) (v : Word) : Option Nat :=
  let depth := wbits v 4 1
  if enabled x.ctl && depth != wbits x.ctl 4 1 then some errRingEnabled
  else if depth < 6 then some errBadValue
  else if enabled x.ctl && !enabled v && !(ringState x == 1) then some errRingBusy
  else none

/-- A write of FN_RING_n_CTL. -/
def writeCtl (s : State) (n : Fin 16) (r : Fin 8) (off : Nat) (v : Word) : State :=
  let x := s.ring n r
  match ctlVerdict x v with
  | some code => bar2Error s n code off v.toNat
  | none =>
    let c := v &&& 0xFF1F
    s.setRing n r (if enabled v && !enabled x.ctl then startedRing x c else { x with ctl := c })

/-- A write of FN_RING_n_CMD: RESUME returns a HALTED or FAULT ring to RUNNING; a completion that failed is written again at the next DESCRIPTOR_RETIRE. -/
def writeCmd (s : State) (n : Fin 16) (r : Fin 8) (off : Nat) (v : Word) : State :=
  if !v.getLsbD 0 then s
  else if (s.ring n r).stop == .none then bar2Error s n errNotHalted off v.toNat
  else settle (s.modRing n r fun x => { x with stop := .none }) n

/-- A write into the set-up registers of a ring. -/
def writeRing (s : State) (n : Fin 16) (r : Fin 8) (o off : Nat) (v : Word) : State :=
  let x := s.ring n r
  let setup := fun (y : Ring) => if enabled x.ctl then bar2Error s n errRingEnabled off v.toNat else s.setRing n r y
  match o with
  | 0x00 => setup { x with baseLo := some (loWord v) }
  | 0x04 => setup { x with base := joinPair x.base x.baseLo v, baseLo := none }
  | 0x08 => setup { x with cbaseLo := some (loWord v) }
  | 0x0C => setup { x with cbase := joinPair x.cbase x.cbaseLo v, cbaseLo := none }
  | 0x10 => writeCtl s n r off v
  | 0x14 =>
    if enabled x.ctl then bar2Error s n errRingEnabled off v.toNat
    else if wbits v 7 0 = 0 then bar2Error s n errBadValue off v.toNat
    else s.setRing n r { x with mod := v &&& 0xFFFFFF }
  | 0x24 => writeCmd s n r off v
  | _ => if o = 0x18 ∨ o = 0x1C ∨ o = 0x20 then s else bar2Error s n errBadOffset off v.toNat

/-- TAIL_new is within the ring's depth of HEAD and not behind TAIL. -/
def tailOk (x : Ring) (v : Nat) : Bool :=
  decide ((v + 2 ^ 32 - x.head) % 2 ^ 32 ≤ depthOf x.ctl) && decide ((v + 2 ^ 32 - x.tail) % 2 ^ 32 < 2 ^ 31)

/-- A 4-byte write to FN_DOORBELL_n: dropped in D3hot, dropped and counted while the Shutter is not OPEN (R23, R392). -/
def writeDoorbell (s : State) (n : Fin 16) (r : Fin 8) (off : Nat) (v : Word) : State :=
  if (s.part n).shutter != .open_ then s.count n 13 1
  else if (s.fn n).d3hot then s
  else if !enabled (s.ring n r).ctl then bar2Error s n errRingDisabled off v.toNat
  else if !tailOk (s.ring n r) v.toNat then bar2Error s n errBadTail off v.toNat
  else s.modRing n r fun x => { x with tail := v.toNat }

/-! ### The event ring (R386, R388) -/

/-- A write of FN_EVT_CTL. -/
def writeEvtCtl (s : State) (n : Fin 16) (v : Word) : State :=
  let e := (s.fn n).evt
  let depth := wbits v 4 1
  if enabled e.ctl && depth != wbits e.ctl 4 1 then bar2Error s n errRingEnabled 0x2008 v.toNat
  else if depth < 6 then bar2Error s n errBadValue 0x2008 v.toNat
  else
    let c := v &&& 0xFF1F
    let y : EvtRing := if enabled v && !enabled e.ctl then { e with ctl := c, head := 0, prod := 0, unacked := false } else { e with ctl := c }
    s.modFn n fun f => { f with evt := y }

/-- A write of FN_EVT_HEAD: within what has been written, it consumes entries and acknowledges the message; entries left over are announced again. -/
def writeEvtHead (s : State) (n : Fin 16) (v : Word) : State :=
  let e := (s.fn n).evt
  if (e.prod + 2 ^ 32 - e.head) % 2 ^ 32 < (v.toNat + 2 ^ 32 - e.head) % 2 ^ 32 then bar2Error s n errBadTail 0x200C v.toNat
  else
    let s1 := s.modFn n fun f => { f with evt := { f.evt with head := v.toNat, unacked := false } }
    if enabled e.ctl && v.toNat != e.prod then eventIrq s1 n else s1

/-- A write into the event ring registers. A write to the read-only FN_EVT_PROD is ignored (R11). DESIGN CHOICE (assumption 58): so is one to the read-clears FN_EVT_STATUS, without a record. -/
def writeEvt (s : State) (n : Fin 16) (o : Nat) (v : Word) : State :=
  let e := (s.fn n).evt
  let setup := fun (y : EvtRing) => if enabled e.ctl then bar2Error s n errRingEnabled (0x2000 + o) v.toNat else s.modFn n fun f => { f with evt := y }
  match o with
  | 0x00 => setup { e with baseLo := some (loWord v) }
  | 0x04 => setup { e with base := joinPair e.base e.baseLo v, baseLo := none }
  | 0x08 => writeEvtCtl s n v
  | 0x0C => writeEvtHead s n v
  | _ => s

/-! ### MSI-X -/

/-- A write of word `i` of the MSI-X table; unmasking a vector whose bit is pending sends its message. -/
def writeMsix (s : State) (n : Fin 16) (i : Nat) (v : Word) : State :=
  let f := s.fn n
  let w := if i % 4 = 3 then v &&& 1 else if i % 4 = 0 then v &&& 0xFFFFFFFC else v
  let s1 := s.setFn n { f with msix := Sparse.put (if i % 4 = 3 then 1 else 0) f.msix i w }
  if i % 4 = 3 ∧ w = 0 ∧ f.pba.testBit (i / 4) then
    sendVector (s1.modFn n fun f => { f with pba := f.pba ^^^ 2 ^ (i / 4) }) n (i / 4)
  else s1

/-! ### Access to BAR2 (R362) -/

/-- What an aligned offset of BAR2 holds. -/
inductive Bar2Reg where
  | readOnly
  | ring (r : Fin 8) (o : Nat)
  | evt (o : Nat)
  | fnReset
  | msix (i : Nat)
  | doorbell (r : Fin 8)
  | unlisted
  deriving DecidableEq, Repr

def bar2Reg (off : Nat) : Bar2Reg :=
  if 0x1000 ≤ off ∧ off < 0x1800 ∧ off % 0x100 < 0x28 then .ring (fin8 ((off - 0x1000) / 0x100)) (off % 0x100)
  else if 0x2000 ≤ off ∧ off < 0x2018 then .evt (off - 0x2000)
  else if off = 0x4000 then .fnReset
  else if 0x8000 ≤ off ∧ off < 0x8800 then .msix ((off - 0x8000) / 4)
  else if 0x10000 ≤ off ∧ off < 0x18000 ∧ off % 0x1000 = 0 then .doorbell (fin8 ((off - 0x10000) / 0x1000))
  else if [0x0, 0x4, 0x8, 0x3000, 0x3004, 0x3008, 0x4004, 0x4008].contains off || (decide (0xC000 ≤ off) && decide (off < 0xC010)) then .readOnly
  else .unlisted

/-- An aligned 32-bit write; while the Shutter is not OPEN only FN_RESET acts (R23). A write to a read-only register is ignored (R11). DESIGN CHOICE (assumption 58): so is one to a read-clears register (FN_LAST_ERROR, FN_ERROR_COUNT), without a record. -/
def write32 (s : State) (n : Fin 16) (off : Nat) (v : Word) : State :=
  match bar2Reg off with
  | .unlisted => bar2Error s n errBadOffset off v.toNat
  | .doorbell r => writeDoorbell s n r off v
  | .fnReset => if v.getLsbD 0 then settleGates (functionReset s n) else s
  | k =>
    if (s.part n).shutter != .open_ then bar2Error s n errShutter off v.toNat
    else match k with
      | .ring r o => writeRing s n r o off v
      | .evt o => writeEvt s n o v
      | .msix i => writeMsix s n i v
      | _ => s

/-- Offsets that take a 64-bit write as two 32-bit ones: _LO registers, and the MSI-X table as PCI Express requires. -/
def takes64 (off : Nat) : Bool :=
  off % 8 == 0 && (match bar2Reg off with
    | .ring _ o => o == 0 || o == 8
    | .evt o => o == 0
    | .msix _ => true
    | _ => false)

/-- A write of any size to BAR2 of function n. -/
def bar2Write (s : State) (n : Fin 16) (off size : Nat) (value : BitVec 64) : State :=
  let lo := BitVec.ofNat 32 value.toNat
  if !hostReaches s n || decide (0x40000 ≤ off) then s
  else if size = 8 ∧ takes64 off then write32 (write32 s n off lo) n (off + 4) (BitVec.ofNat 32 (value.toNat / 2 ^ 32))
  else if size ≠ 4 ∨ off % 4 ≠ 0 then bar2Error s n errBadOffset off (value.toNat % 2 ^ (8 * size) % 2 ^ 32)
  else write32 s n off lo

/-! ### Reads of BAR2 -/

/-- The value of an aligned 32-bit register. -/
def bar2Value (s : State) (n : Fin 16) (off : Nat) : Nat :=
  let f := s.fn n
  let p := s.part n
  match bar2Reg off with
  | .ring r o =>
    let x := s.ring n r
    (match o with
      | 0x00 => (x.baseLo.getD (BitVec.ofNat 32 x.base.toNat)).toNat
      | 0x04 => x.base.toNat / 2 ^ 32
      | 0x08 => (x.cbaseLo.getD (BitVec.ofNat 32 x.cbase.toNat)).toNat
      | 0x0C => x.cbase.toNat / 2 ^ 32
      | 0x10 => x.ctl.toNat
      | 0x14 => x.mod.toNat
      | 0x18 => x.head
      | 0x1C => x.tail
      | 0x20 => ringState x
      | _ => 0)
  | .evt o =>
    (match o with
      | 0x00 => (f.evt.baseLo.getD (BitVec.ofNat 32 f.evt.base.toNat)).toNat
      | 0x04 => f.evt.base.toNat / 2 ^ 32
      | 0x08 => f.evt.ctl.toNat
      | 0x0C => f.evt.head
      | 0x10 => f.evt.prod
      | 0x14 => f.evt.dropped
      | _ => 0)
  | .msix i => (msixWord f i).toNat
  | .doorbell r => (s.ring n r).tail
  | .readOnly =>
    if off = 0x0 then n.val + if n.val = 0 then 16 else 0
    else if off = 0x4 then (partRange s n.val).1 + 256 * (partRange s n.val).2
    else if off = 0x8 then (if p.plan.isSome then 1 else 0) + (if idle s n then 2 else 0) + if p.recovery && p.openStep.isNone then 4 else 0
    else if off = 0x3000 then f.lastError.toNat
    else if off = 0x3004 then f.errorValue.toNat
    else if off = 0x3008 then f.errorCount
    else if off = 0x4004 then p.shutter.code + 16 * p.reason.code
    else if off = 0x4008 then f.wipeSig.toNat
    else if 0xC000 ≤ off then f.pba / 2 ^ (8 * (off - 0xC000)) % 2 ^ 32
    else 0
  | _ => 0

/-- What a read clears: FN_LAST_ERROR, FN_ERROR_COUNT and FN_EVT_STATUS.DROPPED. -/
def bar2Clear (s : State) (n : Fin 16) (off : Nat) : State :=
  if off = 0x3000 then s.modFn n fun f => { f with lastError := 0 }
  else if off = 0x3008 then s.modFn n fun f => { f with errorCount := 0 }
  else if off = 0x2014 then s.modFn n fun f => { f with evt := { f.evt with dropped := 0 } }
  else s

/-- A read of any size: aligned 32-bit reads, and aligned 64-bit reads of the MSI-X table and the pending bits. -/
def bar2Read (s : State) (n : Fin 16) (off size : Nat) : State :=
  let give := fun (s : State) (v : Nat) => { s with out := { s.out with readData := BitVec.ofNat 64 v } }
  if !hostReaches s n || decide (0x40000 ≤ off) then s
  else if size = 4 ∧ off % 4 = 0 then give (bar2Clear s n off) (bar2Value s n off)
  else if size = 8 ∧ off % 8 = 0 ∧ ((0x8000 ≤ off ∧ off < 0x8800) ∨ (0xC000 ≤ off ∧ off < 0xC010)) then
    give s (bar2Value s n off + 2 ^ 32 * bar2Value s n (off + 4))
  else give s 0

/-! ### Commands -/

/-- DOORBELL: a write of `size` bytes at an offset of the ring's doorbell page. -/
def execDoorbell (fn : Fin 16) (ring : Fin 8) (pageOff size : Nat) (value : Word) (s : State) : Result :=
  .next (bar2Write s fn (0x10000 + 0x1000 * ring.val + pageOff % 0x1000) size (BitVec.ofNat 64 value.toNat))

/-- RING_ENABLE. -/
def execRingEnable (fn : Fin 16) (ring : Fin 8) (value : Word) (s : State) : Result :=
  .next (bar2Write s fn (0x1010 + 0x100 * ring.val) 4 (BitVec.ofNat 64 value.toNat))

/-- RESUME. -/
def execResume (fn : Fin 16) (ring : Fin 8) (value : Word) (s : State) : Result :=
  .next (bar2Write s fn (0x1024 + 0x100 * ring.val) 4 (BitVec.ofNat 64 value.toNat))

/-- EVT_RING_ENABLE. -/
def execEvtRingEnable (fn : Fin 16) (value : Word) (s : State) : Result := .next (bar2Write s fn 0x2008 4 (BitVec.ofNat 64 value.toNat))

/-- EVT_HEAD_WRITE. -/
def execEvtHeadWrite (fn : Fin 16) (value : Word) (s : State) : Result := .next (bar2Write s fn 0x200C 4 (BitVec.ofNat 64 value.toNat))

/-- MSIX_UNMASK: a write of Vector Control with the mask bit clear. -/
def execMsixUnmask (fn : Fin 16) (vector : Fin 128) (s : State) : Result := .next (bar2Write s fn (0x800C + 16 * vector.val) 4 0)

/-- IRQ_MODERATION_TIMER (R388): MOD.USEC has passed since the first completion not signalled. -/
def irqModerationTimer (s : State) (n : Fin 16) (r : Fin 8) : State :=
  let x := s.ring n r
  if mayDma s n && irqEn x.ctl && wbits x.mod 23 8 != 0 && x.unsignalled != 0 then
    sendVector (s.modRing n r fun x => { x with unsignalled := 0 }) n (vectorOf x.ctl)
  else s

def execIrqModerationTimer (fn : Fin 16) (ring : Fin 8) (s : State) : Result := .next (irqModerationTimer s fn ring)

end Sys2Proof.Machine
end

