-- ==== Sys2Proof/Machine/Mailbox.lean ====
section
/-! DEFINITION. The mailbox of the management controller (R451 to R465, R470): who reaches it, its commands, its data window, and life-cycle tokens. -/
namespace Sys2Proof.Machine

/-! ### Access (R451 to R453) -/

def srcBit : Src → Bool
  | .host => false
  | .port => true

/-- An access of a source is served where it arrives: over the host path once the core is ready, over the management port after step 1 of R444, before which the port answers with a NACK. -/
def served (s : State) (src : Src) (k : State → State) : State :=
  match src with
  | .host => if hostReaches s 0 then k s else s
  | .port =>
    if s.sys.porst then { s with out := { s.out with answer := 4 } }
    else let s1 := k s; { s1 with out := { s1.out with answer := 2 } }

/-- MBX_ERROR records a rejection (R470). -/
def mbxError (s : State) (src : Src) (code off : Nat) : State :=
  { s with mbx := { s.mbx with
    error := BitVec.ofNat 32 (code % 256 + off % 2 ^ 20 * 256 + (if srcBit src then 2 ^ 28 else 0) + 2 ^ 31) } }

/-! ### Output pins (R475, R476) -/

/-- MGT_ALERT_N, or the in-band interrupt, is asserted (R451). -/
def mgtAlert (s : State) : Bool := s.mbx.alert && (s.mbx.st == .done || s.mbx.st == .error)

/-- FAULT_OUT is driven high: it is low while the device core is unpowered or in reset (R476). -/
def faultOutPin (s : State) : Bool := s.sys.coreUp && faultOut s

/-- THERMTRIP_N is asserted; an asserted PORST_N releases it (R426, R476). -/
def thermtripPin (s : State) : Bool := s.sys.trip && !s.sys.porst

/-! ### Ends and starts of commands -/

/-- The command delivers words. -/
def mbxGive (s : State) (ws : List Word) : State :=
  { s with mbx := { s.mbx with st := .read, words := ws.length, buf := ws } }

/-- The command takes words. -/
def mbxTake (s : State) (k : Nat) : State := { s with mbx := { s.mbx with st := .write, words := k, buf := [] } }

/-- `k` words that the manual leaves open. -/
def openWords : Nat → State → List Word × State
  | 0, s => ([], s)
  | k + 1, s =>
    let (v, s1) := s.draw
    let (ws, s2) := openWords k s1
    (BitVec.ofNat 32 v :: ws, s2)

/-! ### Snapshots (R31, R455, R458) -/

def hasPlan (s : State) (n : Fin 16) : Bool := (s.part n).plan.isSome

/-- SNAP_INFO: words 0 to 3 of both slots. -/
def runSnapInfo (s : State) : State :=
  let n := mbxPart s
  let hdr := fun (x : Slot) => (List.range 4).map fun i => x.words.getD i 0
  if hasPlan s n then mbxGive s (hdr s.slots[n].1 ++ hdr s.slots[n].2) else mbxEnd s .error 5

/-- SNAP_READ: the slot is in use until the read ends. -/
def runSnapRead (s : State) : State :=
  let n := mbxPart s
  let x := getSlot s.slots[n] (mbxSlot s)
  if hasPlan s n && x.valid then
    mbxGive (s.modSlots n fun y => putSlot y (mbxSlot s) { x with inUse := true }) x.words
  else mbxEnd s .error 5

/-- SNAP_REQUEST: at once for an idle partition, else at its next gate; with the last image where the Shutter is not OPEN. -/
def runSnapRequest (s : State) : State :=
  let n := mbxPart s
  if !hasPlan s n then mbxEnd s .error 5
  else if (s.part n).shutter != .open_ then mbxEnd s .done 0
  else
    let s1 := { s with mbx := { s.mbx with st := .busy } }
    gateIfIdle (s1.modPart n fun p => { p with snapPending := true }) false n

/-! ### Logs (R459) -/

/-- Header and sentinel words of AGE_LOG. -/
def ageWords (s : State) : List Word :=
  [BitVec.ofNat 32 (pwrStatus s 5)] ++ wordsLE 2 s.power.sweepTime ++ [BitVec.ofNat 32 (pwrStatus s 0), 0, 0, 0, 0] ++
    (List.range 64).map fun i =>
      BitVec.ofNat 32 (Sparse.get 0 s.power.sentinels i % 2 ^ 16 + Config.sentinelBasin i % 128 * 2 ^ 16)

def runAgeLog (s : State) : State := mbxGive s (ageWords s)

/-- The 32 records of FAULT_RECORD, newest first; records not made read zero. -/
def recordWords (s : State) : List Word := (List.range 32).flatMap fun i => wordsLE 8 (s.lcs.records.getD i 0).toNat

/-- FAULT_RECORD: the manual gives its header no contents. -/
def runFaultRecord (s : State) : State :=
  let (hdr, s1) := openWords 8 s
  mbxGive s1 (hdr ++ recordWords s)

/-! ### Firmware (R461) -/

/-- LCS_FW.OTHER_VALID follows the bank that does not run. -/
def noteOther (l : Lcs) : Lcs := { l with otherValid := bankPasses l.svnMin (bankOf l (!l.running)) }

/-- FW_UPDATE: the words overwrite the inactive bank. -/
def runFwUpdate (s : State) : State :=
  let k := s.mbx.arg.toNat
  if k < 40 ∨ 262128 < k then mbxEnd s .error 2
  else mbxTake { s with lcs := noteOther (setBank s.lcs (!s.lcs.active) []) } k

/-- The last word of FW_UPDATE has arrived: a bank that fails its check is marked empty. -/
def finishFwUpdate (s : State) : State :=
  if bankPasses s.lcs.svnMin s.mbx.buf then
    mbxEnd { s with lcs := noteOther (setBank s.lcs (!s.lcs.active) s.mbx.buf) } .done 0
  else mbxEnd s .error 3

/-- FW_ACTIVATE: a bank that passes becomes active and raises the minimum SVN; the controller may restart into it. -/
def runFwActivate (s : State) : State :=
  let b := s.mbx.arg.getLsbD 0
  let ws := bankOf s.lcs b
  if 4 ≤ s.mbx.arg.toNat then mbxEnd s .error 2
  else if !bankPasses s.lcs.svnMin ws then mbxEnd s .error 3
  else
    let s1 := mbxEnd { s with lcs := noteOther { s.lcs with active := b, svnMin := max s.lcs.svnMin (word ws 2) } } .done 0
    if s.mbx.arg.getLsbD 1 then restart s1 else s1

/-! ### Life-cycle tokens (R463 to R465) -/

/-- The transitions of R463 with the KEY_ID that each needs. -/
def transitions : List (Nat × Nat × Nat) := [(1, 2, 0), (2, 3, 0), (3, 4, 1), (4, 3, 1), (3, 5, 2), (4, 5, 2)]

def tokenByte (bs : List Byte) (i : Nat) : Nat := (bs.getD i 0).toNat
def tokenPart (bs : List Byte) (i k : Nat) : List Byte := (bs.drop i).take k

/-- Words of a token, by the KEY_ID in its first word. -/
def tokenLength (w : Word) : Nat := if wbits w 31 24 = 1 ∨ wbits w 31 24 = 2 then 68 else 44

/-- The signatures that a KEY_ID asks for verify, and the owner key hashes to the fused hash. -/
def tokenSigned (l : Lcs) (bs : List Byte) : Bool :=
  let digest := Config.sha384 (bs.take 80)
  let sig := tokenPart bs 80 96
  let extra := tokenPart bs 176 96
  match tokenByte bs 3 with
  | 0 => Config.ecdsaVerify Config.lifecycleKey digest sig
  | 1 => Config.sha384 extra == l.ownerHash && Config.ecdsaVerify extra digest sig
  | 2 => Config.sha384 l.ownerKey == l.ownerHash && Config.ecdsaVerify Config.lifecycleKey digest sig && Config.ecdsaVerify l.ownerKey digest extra
  | _ => false

/-- RESULT of the checks of R465: OK, NOT_PERMITTED or AUTH_FAIL. -/
def tokenVerdict (l : Lcs) (bs : List Byte) : Nat :=
  let from' := tokenByte bs 1
  let to' := tokenByte bs 2
  if from' ≠ l.state then 4
  else match transitions.find? fun t => t.1 == from' && t.2.1 == to' with
    | none => 4
    | some t =>
      if tokenByte bs 0 == 1 && tokenByte bs 3 == t.2.2 && ofLE (tokenPart bs 4 8) == l.serial.toNat
          && ofLE (tokenPart bs 12 16) == l.nonce.toNat && ofLE (tokenPart bs 28 4) == 0
          && (to' == 3 || ofLE (tokenPart bs 32 48) == 0) && tokenSigned l bs then 0 else 3

/-- The fuses and the kept owner key after an accepted token. -/
def tokenFuses (l : Lcs) (bs : List Byte) : Lcs :=
  let l1 := { l with state := tokenByte bs 2 }
  let l2 := if tokenByte bs 2 = 3 then { l1 with ownerSet := true, ownerHash := tokenPart bs 32 48 } else l1
  if tokenByte bs 3 = 1 then { l2 with ownerKey := tokenPart bs 176 96 } else l2

/-- A sluice goes DARK with LNK_PORT_n_CTL.ENABLE at 0. -/
def darken (s : State) (q : Fin 24) : State :=
  let o := 0x30000 + 0x800 * q.val
  let off := fun (m : RegMap) => regPut m o (regGet m o &&& 0xFFFFFFFE)
  let s1 := portEnable s q true false
  { s1 with cfg := { s1.cfg with committed := off s1.cfg.committed, force := off s1.cfg.force } }

/-- An accepted token: fuses, function resets, wipes, sluices DARK; it is DONE when the resets are over (R465). Memories of an unpowered core are gone already. -/
def acceptToken (s : State) (bs : List Byte) : State :=
  let s1 := { s with
    lcs := { tokenFuses s.lcs bs with tokenBusy := true, tokenMiss := [] },
    mbx := { s.mbx with st := .busy, words := 0, buf := [] } }
  let s2 := if s.sys.coreUp then allParts.foldl functionReset s1 else s1
  tokenDone (settleGates (allPorts.foldl darken s2))

/-- The last word of a token has arrived: it is judged, and the nonce is replaced whatever the outcome. -/
def finishToken (s : State) : State :=
  let bs := wordBytes s.mbx.buf
  let v := tokenVerdict s.lcs bs
  let s1 := freshNonce s
  if v = 0 then acceptToken s1 bs else mbxEnd s1 .error v

/-! ### MBX_CMD -/

/-- Start a command; in recovery mode the ROM knows four of them (R461). -/
def startCommand (s : State) : State :=
  if s.lcs.recovery && !([0x00, 0x01, 0x30, 0x31].contains (mbxOp s)) then mbxEnd s .error 1
  else match mbxOp s with
  | 0x00 => mbxEnd s .done 0
  | 0x01 => mbxEnd s .done 0
  | 0x10 => runSnapInfo s
  | 0x11 => runSnapRead s
  | 0x12 => runSnapRequest s
  | 0x20 => runAgeLog s
  | 0x21 => runFaultRecord s
  | 0x30 => runFwUpdate s
  | 0x31 => runFwActivate s
  | 0x40 => mbxTake s 44
  | _ => mbxEnd s .error 1

/-- The owner's running command ends ABORTED; an on-demand snapshot is no longer owed. -/
def abortCommand (s : State) : State :=
  let s1 := if mbxOp s == 0x12 then s.modPart (mbxPart s) fun p => { p with snapPending := false } else s
  mbxEnd s1 .error 6

/-- A write to MBX_CMD (R453, R470): from the other source it is rejected while a command runs; the owner ends its command with ABORT alone; otherwise it takes the mailbox and starts the command. -/
def writeCommand (s : State) (src : Src) (v : Word) : State :=
  let running := mbxRunning s
  if running && s.mbx.source != srcBit src then mbxError s src errMbxBusy 0xB0000
  else if v.toNat / 2 ^ 13 ≠ 0 then mbxError s src errBadValue 0xB0000
  else if running then
    if wbits v 7 0 = 0x01 then
      let s1 := abortCommand s
      { s1 with mbx := { s1.mbx with cmd := v } }
    else mbxError s src errMbxState 0xB0000
  else startCommand { s with mbx := { s.mbx with cmd := v, source := srcBit src, result := 0, words := 0, buf := [], st := .busy } }

/-- MBX_NOP. -/
def execMbxNop (src : Src) (cmd : Word) (s : State) : Result := .next (served s src fun s => writeCommand s src cmd)

/-- MBX_ABORT. -/
def execMbxAbort (src : Src) (cmd : Word) (s : State) : Result := .next (served s src fun s => writeCommand s src cmd)

/-- SNAP_INFO. -/
def execSnapInfo (src : Src) (cmd : Word) (s : State) : Result := .next (served s src fun s => writeCommand s src cmd)

/-- SNAP_READ. -/
def execSnapRead (src : Src) (cmd : Word) (s : State) : Result := .next (served s src fun s => writeCommand s src cmd)

/-- SNAP_REQUEST. -/
def execSnapRequest (src : Src) (cmd : Word) (s : State) : Result := .next (served s src fun s => writeCommand s src cmd)

/-- AGE_LOG. -/
def execAgeLog (src : Src) (cmd : Word) (s : State) : Result := .next (served s src fun s => writeCommand s src cmd)

/-- FAULT_RECORD. -/
def execFaultRecord (src : Src) (cmd : Word) (s : State) : Result := .next (served s src fun s => writeCommand s src cmd)

/-- FW_UPDATE. -/
def execFwUpdate (src : Src) (cmd : Word) (s : State) : Result := .next (served s src fun s => writeCommand s src cmd)

/-- FW_ACTIVATE. -/
def execFwActivate (src : Src) (cmd : Word) (s : State) : Result := .next (served s src fun s => writeCommand s src cmd)

/-- LCS_TOKEN. -/
def execLcsToken (src : Src) (cmd : Word) (s : State) : Result := .next (served s src fun s => writeCommand s src cmd)

/-! ### MBX_DATA (R454) -/

/-- One word more of a command in state WRITE. The first word of a token says how long it is. -/
def appendWord (s : State) (v : Word) : State :=
  let total := if mbxOp s = 0x40 ∧ s.mbx.buf = [] then tokenLength v else s.mbx.words
  let s1 := { s with mbx := { s.mbx with buf := s.mbx.buf ++ [v], words := total - 1 } }
  if total - 1 ≠ 0 then s1
  else if mbxOp s = 0x40 then finishToken s1
  else finishFwUpdate s1

/-- A write to MBX_DATA. -/
def writeData (s : State) (src : Src) (v : Word) : State :=
  if mbxRunning s && s.mbx.source != srcBit src then mbxError s src errMbxBusy 0xB000C
  else if s.mbx.st == .write then appendWord s v
  else mbxError s src errMbxState 0xB000C

/-- A read of MBX_DATA: the next word in state READ, whoever reads, and zero in any other state. -/
def readData (s : State) : State :=
  match s.mbx.st, s.mbx.buf with
  | .read, w :: ws =>
    let s1 := { s with out := { s.out with readData := BitVec.ofNat 64 w.toNat } }
    if ws.isEmpty then mbxEnd s1 .done 0 else { s1 with mbx := { s1.mbx with buf := ws, words := ws.length } }
  | _, _ => { s with out := { s.out with readData := 0 } }

/-- MBX_DATA_WRITE. -/
def execMbxDataWrite (src : Src) (value : Word) (s : State) : Result := .next (served s src fun s => writeData s src value)

/-- MBX_DATA_READ. -/
def execMbxDataRead (src : Src) (s : State) : Result := .next (served s src readData)

end Sys2Proof.Machine
end

