-- ==== Sys2Proof/Machine/RegAccess.lean ====
section
/-! DEFINITION. Access to BAR0 over the host path and the management port (R396, R397, R409, R451, R452): staged and immediate writes, the commit, and every register's value on a read. -/
namespace Sys2Proof.Machine

/-! ### Writes to immediate blocks (R409) -/

/-- RAS_LOG_POP: the oldest entry is removed. -/
def popRas (s : State) (v : Word) : State := if v.getLsbD 0 then { s with ras := s.ras.tail } else s

/-- A write to the RAS block; its status register has no field for a rejection. -/
def writeRas (s : State) (off size : Nat) (v : Word) : State :=
  if size ≠ 4 then s
  else if off = 0x90000 then { s with rasOverflow := s.rasOverflow && !v.getLsbD 16 }
  else if off = 0x90004 then popRas s v
  else s

/-- Read-only and read-clears registers of the MBX and LCS blocks: a write to a read-only one is ignored without a record (R397). DESIGN CHOICE (assumption 58): so is a write to the read-clears MBX_ERROR. -/
def mbxReadOnly (off : Nat) : Bool := [0xB0008, 0xB0010, 0xC0000, 0xC0010, 0xC0014, 0xC0018, 0xC001C, 0xC0020, 0xC0024, 0xC0028].contains off

/-- A write to the MBX or LCS block (R470). -/
def writeMbx (s : State) (src : Src) (off size : Nat) (v : Word) : State :=
  if size ≠ 4 then mbxError s src errBadOffset off
  else if off = 0xB0000 then writeCommand s src v
  else if off = 0xB0004 then { s with mbx := { s.mbx with arg := v } }
  else if off = 0xB000C then writeData s src v
  else if off = 0xB0014 then
    if v.toNat / 2 = 0 then { s with mbx := { s.mbx with alert := v.getLsbD 0 } } else mbxError s src errBadValue off
  else if mbxReadOnly off then s
  else mbxError s src errBadOffset off

/-- EVT_ERROR records a rejection (R414). -/
def evtErr (s : State) (code off : Nat) : State :=
  { s with evtError := BitVec.ofNat 32 (code + off % 2 ^ 20 * 256 + 2 ^ 31) }

/-- The W1C bits of EVT_STATUS: THERM_EMERG, CDC_STALL, CLAMP, RAS_UE. -/
def evtW1c : Nat := 0x9C

/-- A write to the EVT block (R414). DESIGN CHOICE (assumption 58): a write to the read-clears EVT_ERROR is ignored and recorded nowhere. -/
def writeEvtBlock (s : State) (off size : Nat) (v : Word) : State :=
  if size ≠ 4 then evtErr s errBadOffset off
  else if off = 0xD0000 then { s with evtStatus := s.evtStatus &&& (0xFFFFFFFF ^^^ (v.toNat &&& evtW1c)) }
  else if off = 0xD0004 then (if v.toNat < 8 then { s with evtFaultEn := v.toNat } else evtErr s errBadValue off)
  else if off = 0xD0008 then s
  else evtErr s errBadOffset off

/-! ### Writes to BAR0 (R396, R397) -/

/-- A write of `size` bytes to BAR0. Accesses that are not aligned 32-bit ones count as of the wrong size. -/
def bar0Write (s : State) (src : Src) (off size : Nat) (value : BitVec 64) : State :=
  let v := BitVec.ofNat 32 value.toNat
  let size' := if size = 4 ∧ off % 4 = 0 then 4 else if size = 4 then 0 else size
  match off / 0x10000 with
  | 0x9 => writeRas s off size' v
  | 0xB => writeMbx s src off size' v
  | 0xC => writeMbx s src off size' v
  | 0xD => writeEvtBlock s off size' v
  | _ =>
    if off = 0x10000 ∧ size = 4 then commit s v
    else if stagedBlock off && s.sys.coreUp then stage s off size value
    else s

/-- The blocks that the management port reaches: ID, PWR, MBX and LCS (R452). -/
def portReaches (off : Nat) : Bool := [0x0, 0x2, 0xB, 0xC].contains (off / 0x10000)

/-- A write to BAR0 of one of the two sources; beyond its blocks the port's access is recorded BAD_OFFSET. -/
def bar0Access (s : State) (src : Src) (off size : Nat) (value : BitVec 64) : State :=
  match src with
  | .host => bar0Write s src off size value
  | .port => if portReaches off then bar0Write s src off size value else mbxError s src errBadOffset off

/-! ### Values of BAR0 registers -/

def bit (b : Bool) (k : Nat) : Nat := if b then 2 ^ k else 0

/-- Entry e of the clamp log as its four words (R403). -/
def clampWord (s : State) (k : Nat) : Nat :=
  match s.cfg.clampLog[k / 4]? with
  | none => 0
  | some e =>
    match k % 4 with
    | 0 => e.1 % 2 ^ 20 + e.2.1 % 32 * 2 ^ 20 + e.2.2.1 % 8 * 2 ^ 25
    | 1 => e.2.2.2.1 % 2 ^ 32
    | 2 => e.2.2.2.2 % 2 ^ 32
    | _ => 0

/-- ID registers (R411). -/
def idValue (s : State) (off : Nat) : Nat :=
  if off = 0x0 then 0x00020001
  else if off = 0x4 then 0x0201
  else if off = 0x8 then 0x88 + 0x18 * 2 ^ 8 + 0x10 * 2 ^ 13 + 0x8 * 2 ^ 18
  else if off = 0x10 then s.lcs.serial.toNat % 2 ^ 32
  else if off = 0x14 then s.lcs.serial.toNat / 2 ^ 32
  else 0

/-- CFG_NUM_FP_n: zero without a plan (R408). -/
def fpNow (p : Part) : BitVec 64 := if p.plan.isSome then p.fp else 0

/-- The read-only CFG registers (R403, R412); `CFG_NUM_FP_n_HI` returns what a read of LO has captured. -/
def cfgValue (s : State) (off : Nat) : Nat :=
  if off = 0x10004 then
    (allParts.map fun n => bit (s.part n).cfgPending n.val).sum + bit (devPending s) 16 + s.cfg.seq * 2 ^ 24
  else if off = 0x10008 then s.cfg.clampLog.length % 128 + bit s.cfg.clampOverflow 7 + s.cfg.clampSeq * 256
  else match regIndex off 0x10200 4 32, regIndex off 0x10300 4 16, regIndex off 0x10800 4 256 with
    | some k, _, _ =>
      let p := s.part (fin16 (k / 2))
      if k % 2 = 0 then (fpNow p).toNat % 2 ^ 32 else (p.fpHi.getD (BitVec.ofNat 32 ((fpNow p).toNat / 2 ^ 32))).toNat
    | none, some n, _ => (s.part (fin16 n)).gen.toNat
    | none, none, some k => clampWord s k
    | none, none, none => 0

/-- A lane map: four bits a logical lane. -/
def laneMap (d : Dir) : Nat := ((List.range 8).map fun i => getV d.lanes i % 16 * 2 ^ (4 * i)).sum

/-- The read-only registers of a sluice (R300). -/
def lnkValue (s : State) (q : Fin 24) (o : Nat) : Nat :=
  let p := s.port q
  match o with
  | 0x010 => p.addr % 128 + bit p.present 7
  | 0x100 =>
    p.st.code + widthOf p.tx.active.length * 8 + widthOf p.rx.active.length * 128 + bit (p.tx.uses 8) 11 + bit (p.rx.uses 8) 12 + bit (p.tx.usesWl 8) 13
      + bit (p.rx.usesWl 8) 14 + bit p.suspect 15 + (p.owner.getD 0) % 16 * 2 ^ 16 + bit p.owner.isSome 20
  | 0x104 => p.partnerRank % 2 ^ 16 + p.partnerPort % 32 * 2 ^ 16 + bit p.partnerPlan 21 + bit p.valid 31
  | 0x108 => p.partnerDom % 2 ^ 32
  | 0x10C => laneMap p.tx
  | 0x110 => laneMap p.rx
  | 0x114 => min 15 p.flaps + p.quarLeft % 4096 * 2 ^ 16
  | _ => 0

/-- The read-only LDG registers (R263, R355): the step registers, and the mirror's, which read zero without a plan. -/
def ldgValue (s : State) (off : Nat) : Nat :=
  match regIndex off 0x70500 4 64, regIndex off 0x70600 4 64 with
  | some k, _ =>
    let p := s.part (fin16 (k / 4))
    match k % 4 with
    | 0 => p.opened
    | 1 => p.sealed
    | 2 => bit p.openedValid 0 + bit p.sealedValid 1 + unsealedCount p % 32 * 256
    | _ => 0
  | none, some k =>
    let p := s.part (fin16 (k / 4))
    if p.plan.isNone then 0
    else match k % 4 with
      | 0 => p.mirror.st.code
      | 1 => p.mirror.base
      | 2 => p.mirror.acked
      | _ => reported (ledgerUse p) 1024 % 2 ^ 17
  | none, none => 0

/-- The read-only CLV registers (R230, R231). -/
def clvValue (s : State) (off : Nat) : Nat :=
  if off = 0x80000 then 0x8 + 0x10 * 16
  else
    match regIndex off 0x80200 4 16, regIndex off 0x80300 4 16, regIndex off 0x80400 4 16 with
    | some n, _, _ => let p := s.part (fin16 n); if p.plan.isSome then p.epoch else 0
    | none, some n, _ => (match planeTable (s.part (fin16 n)) with
        | some t => PlaneTable.rank t + (PlaneTable.size t - 1) * 2 ^ 16
        | none => 0)
    | none, none, some n => (match planeTable (s.part (fin16 n)) with
        | some t =>
          PlaneTable.valid t + (s.part (fin16 n)).joined % 256 * 256
            + (match (PlaneTable.validPlanes t).head? with | some k => (PlaneTable.fanout t k - 1) * 2 ^ 16 | none => 0)
        | none => 0)
    | none, none, none => 0

/-- BSN_CAPACITY, BSN_MAP_n, CST_CAPACITY and CST_BANK_MAP_n (R114, R166, R167). -/
def basinValue (s : State) (off : Nat) : Nat :=
  if off = 0x50000 then s.spares.enabled % 256 + s.spares.spareBasins % 16 * 256
  else if off = 0x60000 then 32768 * s.spares.enabled % 2 ^ 23
  else match regIndex off 0x50200 4 128, regIndex off 0x60200 4 128 with
    | some k, _ => (Sparse.get (BitVec.ofNat 32 k) s.spares.basinMap k).toNat
    | none, some k => (Sparse.get 0 s.spares.bankMap k).toNat
    | none, none => 0

/-- The read-only CDC registers (R450). -/
def cdcValue (s : State) (off : Nat) : Nat :=
  let x := s.sys
  if off = 0xA0100 then bit x.mgmtFallback 0 + bit x.optStuck 1
  else if off = 0xA0104 then x.stallClass % 8 + x.stallIndex % 32 * 8 + x.stallCount % 2 ^ 16 * 2 ^ 16
  else if off = 0xA0108 then x.haltAccepted % 2 ^ 16 + x.haltCoalesced % 2 ^ 16 * 2 ^ 16
  else if off = 0xA010C then x.optAsserts % 2 ^ 16 + x.optSweeps % 2 ^ 16 * 2 ^ 16
  else if off = 0xA0110 then x.cause % 8
  else 0

/-- RAS_LOG_STATUS and the oldest entry (R353). -/
def rasValue (s : State) (off : Nat) : Nat :=
  if off = 0x90000 then s.ras.length % 512 + bit s.rasOverflow 16
  else match regIndex off 0x90100 4 8, s.ras.head? with
    | some w, some e => bits e.toNat (32 * w + 31) (32 * w)
    | _, _ => 0

/-- MBX and LCS registers (R470); MBX_DATA has a command of its own. -/
def mbxValue (s : State) (off : Nat) : Nat :=
  let m := s.mbx
  let l := s.lcs
  if off = 0xB0000 then m.cmd.toNat
  else if off = 0xB0004 then m.arg.toNat
  else if off = 0xB0008 then m.st.code + bit m.source 3 + m.result % 256 * 16 + m.words % 2 ^ 19 * 2 ^ 13
  else if off = 0xB0010 then m.error.toNat
  else if off = 0xB0014 then bit m.alert 0
  else if off = 0xC0000 then l.state % 8 + bit l.ownerSet 3
  else if off = 0xC0020 then bit l.running 0 + bit l.otherValid 1 + l.svnMin % 2 ^ 16 * 2 ^ 16
  else if off = 0xC0024 then l.version % 2 ^ 32
  else if off = 0xC0028 then l.wipeSig.toNat
  else match regIndex off 0xC0010 4 4 with
    | some w => bits l.nonce.toNat (32 * w + 31) (32 * w)
    | none => 0

/-- Some partition holds a STEP_OPEN at its gate for HALT_IN. -/
def anyHalted (s : State) : Bool := s.sys.halt && allParts.any fun n => (s.part n).openStep.isNone && (heldStep s n).isSome

/-- EVT registers (R414). -/
def evtValue (s : State) (off : Nat) : Nat :=
  if off = 0xD0000 then
    bit s.sys.halt 0 + bit (anyHalted s) 1 + (s.evtStatus &&& evtW1c) + bit (!s.ras.isEmpty) 5 + bit (faultOut s) 6
  else if off = 0xD0004 then s.evtFaultEn
  else if off = 0xD0008 then s.evtError.toNat
  else 0

/-- The value of the register at an aligned offset: staged registers show what was last committed (R398). -/
def bar0Value (s : State) (off : Nat) : Nat :=
  match regKind off with
  | .staged _ _ => (regGet s.cfg.committed off).toNat
  | _ =>
    match off / 0x10000 with
    | 0x0 => idValue s off
    | 0x1 => cfgValue s off
    | 0x2 => (match regIndex off 0x20100 4 7 with | some k => pwrStatus s k | none => 0)
    | 0x3 => if off < 0x3C000 then lnkValue s (fin24 ((off - 0x30000) / 0x800)) ((off - 0x30000) % 0x800) else 0
    | 0x4 => if off = 0x40004 then s.sys.d2dTrained % 2 ^ 16 + bit s.sys.d2dReady 16 else 0
    | 0x5 => basinValue s off
    | 0x6 => basinValue s off
    | 0x7 => ldgValue s off
    | 0x8 => clvValue s off
    | 0x9 => rasValue s off
    | 0xA => cdcValue s off
    | 0xB => mbxValue s off
    | 0xC => mbxValue s off
    | 0xD => evtValue s off
    | _ => 0

/-- What a read does: MBX_ERROR and EVT_ERROR clear, CFG_NUM_FP_n_LO captures HI, and a read of HI ends the capture (R412). -/
def bar0Effect (s : State) (off : Nat) : State :=
  if off = 0xB0010 then { s with mbx := { s.mbx with error := 0 } }
  else if off = 0xD0008 then { s with evtError := 0 }
  else match regIndex off 0x10200 4 32 with
    | some k => s.modPart (fin16 (k / 2)) fun p => { p with
        fpHi := if k % 2 = 0 then some (BitVec.ofNat 32 ((fpNow p).toNat / 2 ^ 32)) else none }
    | none => s

/-- A read of LNK_PORT_n_FLAPS comes at a time that this model does not count: how many seconds of the quarantine remain, and how many flaps still lie within the window, are open values within what they last were (R292, R300). -/
def passTime (s : State) (off : Nat) : State :=
  if 0x30000 ≤ off ∧ off < 0x3C000 ∧ (off - 0x30000) % 0x800 = 0x114 then
    let (a, s1) := s.draw
    let (b, s2) := s1.draw
    s2.modPort (fin24 ((off - 0x30000) / 0x800)) fun p => { p with quarLeft := a % (p.quarLeft + 1), flaps := b % (p.flaps + 1) }
  else s

/-- A read of `size` bytes of BAR0: zero unless it is an aligned 32-bit read of a register. -/
def bar0Read (s : State) (off size : Nat) : State :=
  let give := fun (s : State) (v : Nat) => { s with out := { s.out with readData := BitVec.ofNat 64 v } }
  if size ≠ 4 ∨ off % 4 ≠ 0 then give s 0
  else if off = 0xB000C then readData s
  else let s1 := passTime s off; give (bar0Effect s1 off) (bar0Value s1 off)

/-- A read by one of the two sources (R452). -/
def bar0ReadBy (s : State) (src : Src) (off size : Nat) : State :=
  match src with
  | .host => bar0Read s off size
  | .port =>
    if portReaches off then bar0Read s off size
    else let s1 := mbxError s src errBadOffset off; { s1 with out := { s1.out with readData := 0 } }

/-! ### Commands -/

/-- COMMIT: a write of the host to CFG_COMMIT. -/
def execCommit (value : Word) (s : State) : Result := .next (served s .host fun s => commit s value)

/-- STAGED_REGISTER_WRITE: a write of the host into BAR0. -/
def execStagedRegisterWrite (off size : Nat) (value : BitVec 64) (s : State) : Result :=
  .next (served s .host fun s => bar0Write s .host off size value)

/-- REGISTER_WRITE: a write of either source; the management port reaches BAR0 alone (R451), and a write to configuration space is a configuration request. -/
def execRegisterWrite (src : Src) (space : Space) (off size : Nat) (value : BitVec 64) (s : State) : Result :=
  .next (match space, src with
    | .bar0, _ => served s src fun s => bar0Access s src off size value
    | .bar2 n, .host => bar2Write s n off size value
    | .config n reg, .host => configWrite s n reg value
    | _, .port => s)

/-- RAS_LOG_POP. -/
def execRasLogPop (value : Word) (s : State) : Result := .next (served s .host fun s => popRas s value)

/-- REGISTER_READ: as REGISTER_WRITE. -/
def execRegisterRead (src : Src) (space : Space) (off size : Nat) (s : State) : Result :=
  .next (match space, src with
    | .bar0, _ => served s src fun s => bar0ReadBy s src off size
    | .bar2 n, .host => bar2Read s n off size
    | .config n reg, .host => configRead s n reg
    | _, .port => s)

end Sys2Proof.Machine
end

