-- ==== Sys2Proof/Machine/Dispatch.lean ====
section
/-! DEFINITION. The command's effect: one arm per constructor, each a direct call of that command's meaning. -/
namespace Sys2Proof.Machine
open Sys2Proof

def exec (i : Instr) (s : State) : Host.Outcome State Fault Refusal :=
  match i with
  | .nop fn ring d => Sys2Proof.Machine.execNop fn ring d s
  | .fence fn ring d => Sys2Proof.Machine.execFence fn ring d s
  | .fenceTimeout fn ring => Sys2Proof.Machine.execFenceTimeout fn ring s
  | .planLoad fn ring d => Sys2Proof.Machine.execPlanLoad fn ring d s
  | .stepOpen fn ring d => Sys2Proof.Machine.execStepOpen fn ring d s
  | .stepSeal fn ring d => Sys2Proof.Machine.execStepSeal fn ring d s
  | .copy fn ring d fault => Sys2Proof.Machine.execCopy fn ring d fault s
  | .gemm fn ring d => Sys2Proof.Machine.execGemm fn ring d s
  | .gemmPacked fn ring d => Sys2Proof.Machine.execGemmPacked fn ring d s
  | .conv fn ring d => Sys2Proof.Machine.execConv fn ring d s
  | .cascadeSlice fn ring d => Sys2Proof.Machine.execCascadeSlice fn ring d s
  | .cascadeMultiply fn ring d => Sys2Proof.Machine.execCascadeMultiply fn ring d s
  | .strictGemm fn ring d fault => Sys2Proof.Machine.execStrictGemm fn ring d fault s
  | .cstOpen fn ring d => Sys2Proof.Machine.execCstOpen fn ring d s
  | .cstAdd fn ring d => Sys2Proof.Machine.execCstAdd fn ring d s
  | .cstRead fn ring d => Sys2Proof.Machine.execCstRead fn ring d s
  | .cstClose fn ring d => Sys2Proof.Machine.execCstClose fn ring d s
  | .reduce fn ring d => Sys2Proof.Machine.execReduce fn ring d s
  | .allreduce fn ring d => Sys2Proof.Machine.execAllreduce fn ring d s
  | .reduceScatter fn ring d => Sys2Proof.Machine.execReduceScatter fn ring d s
  | .broadcast fn ring d => Sys2Proof.Machine.execBroadcast fn ring d s
  | .allgather fn ring d => Sys2Proof.Machine.execAllgather fn ring d s
  | .barrier fn ring d => Sys2Proof.Machine.execBarrier fn ring d s
  | .statsReduce fn ring d => Sys2Proof.Machine.execStatsReduce fn ring d s
  | .ledgerRelease fn ring d => Sys2Proof.Machine.execLedgerRelease fn ring d s
  | .mirrorSync fn ring d => Sys2Proof.Machine.execMirrorSync fn ring d s
  | .mirrorSyncTimeout fn => Sys2Proof.Machine.execMirrorSyncTimeout fn s
  | .replay fn ring d => Sys2Proof.Machine.execReplay fn ring d s
  | .shardRestore fn ring d => Sys2Proof.Machine.execShardRestore fn ring d s
  | .shardRestoreTimeout fn => Sys2Proof.Machine.execShardRestoreTimeout fn s
  | .epochAdvance fn ring d => Sys2Proof.Machine.execEpochAdvance fn ring d s
  | .portJoin fn ring d => Sys2Proof.Machine.execPortJoin fn ring d s
  | .portJoinTimeout port => Sys2Proof.Machine.execPortJoinTimeout port s
  | .portLeave fn ring d => Sys2Proof.Machine.execPortLeave fn ring d s
  | .portLeaveDrained port => Sys2Proof.Machine.execPortLeaveDrained port s
  | .descriptorRetire fn ring => Sys2Proof.Machine.execDescriptorRetire fn ring s
  | .arrayUnitBegin fn ring basin fault => Sys2Proof.Machine.execArrayUnitBegin fn ring basin fault s
  | .sumpRowDrain basin => Sys2Proof.Machine.execSumpRowDrain basin s
  | .cisternLaneOp basin bank pick fault => Sys2Proof.Machine.execCisternLaneOp basin bank pick fault s
  | .scrubOp word fault => Sys2Proof.Machine.execScrubOp word fault s
  | .stepGateOpen fn => Sys2Proof.Machine.execStepGateOpen fn s
  | .partitionIdle fn => Sys2Proof.Machine.execPartitionIdle fn s
  | .stepSealed fn => Sys2Proof.Machine.execStepSealed fn s
  | .collectiveBegin fn ring => Sys2Proof.Machine.execCollectiveBegin fn ring s
  | .upSegmentSend fn plane => Sys2Proof.Machine.execUpSegmentSend fn plane s
  | .collectiveTimeout fn plane => Sys2Proof.Machine.execCollectiveTimeout fn plane s
  | .parcelReceived port p => Sys2Proof.Machine.execParcelReceived port p s
  | .mirrorDetached fn => Sys2Proof.Machine.execMirrorDetached fn s
  | .flitReceived port f => Sys2Proof.Machine.execFlitReceived port f s
  | .nakReceived port ack => Sys2Proof.Machine.execNakReceived port ack s
  | .ackTimeout port => Sys2Proof.Machine.execAckTimeout port s
  | .stateFlitReceived port f => Sys2Proof.Machine.execStateFlitReceived port f s
  | .laneFailed port lane cls => Sys2Proof.Machine.execLaneFailed port lane cls s
  | .laneDegraded port lane => Sys2Proof.Machine.execLaneDegraded port lane s
  | .laneCmdEffective port transmit => Sys2Proof.Machine.execLaneCmdEffective port transmit s
  | .trainingWindow port => Sys2Proof.Machine.execTrainingWindow port s
  | .partnerDetected port => Sys2Proof.Machine.execPartnerDetected port s
  | .trainingComplete port f => Sys2Proof.Machine.execTrainingComplete port f s
  | .trainingTimeout port => Sys2Proof.Machine.execTrainingTimeout port s
  | .quarantineEnd port => Sys2Proof.Machine.execQuarantineEnd port s
  | .beaconTick => Sys2Proof.Machine.execBeaconTick s
  | .beaconSample port => Sys2Proof.Machine.execBeaconSample port s
  | .optPoll answers => Sys2Proof.Machine.execOptPoll answers s
  | .optIntAssert sweepDue answers => Sys2Proof.Machine.execOptIntAssert sweepDue answers s
  | .optStuck => Sys2Proof.Machine.execOptStuck s
  | .shutterQuiesced fn => Sys2Proof.Machine.execShutterQuiesced fn s
  | .wipeComplete fn mismatch => Sys2Proof.Machine.execWipeComplete fn mismatch s
  | .shutterOpen fn => Sys2Proof.Machine.execShutterOpen fn s
  | .functionLevelReset fn => Sys2Proof.Machine.execFunctionLevelReset fn s
  | .fnReset fn value => Sys2Proof.Machine.execFnReset fn value s
  | .doorbell fn ring pageOff size value => Sys2Proof.Machine.execDoorbell fn ring pageOff size value s
  | .ringEnable fn ring value => Sys2Proof.Machine.execRingEnable fn ring value s
  | .resume fn ring value => Sys2Proof.Machine.execResume fn ring value s
  | .evtRingEnable fn value => Sys2Proof.Machine.execEvtRingEnable fn value s
  | .evtHeadWrite fn value => Sys2Proof.Machine.execEvtHeadWrite fn value s
  | .irqModerationTimer fn ring => Sys2Proof.Machine.execIrqModerationTimer fn ring s
  | .msixUnmask fn vector => Sys2Proof.Machine.execMsixUnmask fn vector s
  | .commit value => Sys2Proof.Machine.execCommit value s
  | .stagedRegisterWrite off size value => Sys2Proof.Machine.execStagedRegisterWrite off size value s
  | .registerWrite src space off size value => Sys2Proof.Machine.execRegisterWrite src space off size value s
  | .rasLogPop value => Sys2Proof.Machine.execRasLogPop value s
  | .mbxNop src cmd => Sys2Proof.Machine.execMbxNop src cmd s
  | .mbxAbort src cmd => Sys2Proof.Machine.execMbxAbort src cmd s
  | .snapInfo src cmd => Sys2Proof.Machine.execSnapInfo src cmd s
  | .snapRead src cmd => Sys2Proof.Machine.execSnapRead src cmd s
  | .snapRequest src cmd => Sys2Proof.Machine.execSnapRequest src cmd s
  | .ageLog src cmd => Sys2Proof.Machine.execAgeLog src cmd s
  | .faultRecord src cmd => Sys2Proof.Machine.execFaultRecord src cmd s
  | .fwUpdate src cmd => Sys2Proof.Machine.execFwUpdate src cmd s
  | .fwActivate src cmd => Sys2Proof.Machine.execFwActivate src cmd s
  | .lcsToken src cmd => Sys2Proof.Machine.execLcsToken src cmd s
  | .mbxDataWrite src value => Sys2Proof.Machine.execMbxDataWrite src value s
  | .mbxDataRead src => Sys2Proof.Machine.execMbxDataRead src s
  | .porstAssert => Sys2Proof.Machine.execPorstAssert s
  | .porstRelease env => Sys2Proof.Machine.execPorstRelease env s
  | .perstAssert => Sys2Proof.Machine.execPerstAssert s
  | .perstDeassert env => Sys2Proof.Machine.execPerstDeassert env s
  | .hostConfigRequest => Sys2Proof.Machine.execHostConfigRequest s
  | .hostLinkDown => Sys2Proof.Machine.execHostLinkDown s
  | .hostRequestFailure k => Sys2Proof.Machine.execHostRequestFailure k s
  | .vfEnableClear => Sys2Proof.Machine.execVfEnableClear s
  | .d3hotToD0 fn => Sys2Proof.Machine.execD3hotToD0 fn s
  | .transomTransaction t => Sys2Proof.Machine.execTransomTransaction t s
  | .transomRetrain module answered => Sys2Proof.Machine.execTransomRetrain module answered s
  | .cdcStall x => Sys2Proof.Machine.execCdcStall x s
  | .crossingRelease x => Sys2Proof.Machine.execCrossingRelease x s
  | .crossingDrained x => Sys2Proof.Machine.execCrossingDrained x s
  | .haltInChange level coalesced => Sys2Proof.Machine.execHaltInChange level coalesced s
  | .tapReset => Sys2Proof.Machine.execTapReset s
  | .thermalEmergency tj => Sys2Proof.Machine.execThermalEmergency tj s
  | .emergencyStep tj => Sys2Proof.Machine.execEmergencyStep tj s
  | .emergencyEnd tj => Sys2Proof.Machine.execEmergencyEnd tj s
  | .thermtrip => Sys2Proof.Machine.execThermtrip s
  | .powerSample m => Sys2Proof.Machine.execPowerSample m s
  | .sentinelMeasure readings => Sys2Proof.Machine.execSentinelMeasure readings s
  | .phaseFault phases => Sys2Proof.Machine.execPhaseFault phases s
  | .vcoreUndervoltage => Sys2Proof.Machine.execVcoreUndervoltage s
  | .inputFault => Sys2Proof.Machine.execInputFault s
  | .vinLow vin => Sys2Proof.Machine.execVinLow vin s
  | .vddio18Fall => Sys2Proof.Machine.execVddio18Fall s
  | .registerRead src space off size => Sys2Proof.Machine.execRegisterRead src space off size s
  | .vfEnableSet => Sys2Proof.Machine.execVfEnableSet s
  | .d0ToD3hot fn => Sys2Proof.Machine.execD0ToD3hot fn s
  | .hostLinkUp => Sys2Proof.Machine.execHostLinkUp s
  | .transomModuleTrained module => Sys2Proof.Machine.execTransomModuleTrained module s
  | .optIntDeassert => Sys2Proof.Machine.execOptIntDeassert s
  | .firmwareStop => Sys2Proof.Machine.execFirmwareStop s

end Sys2Proof.Machine
end

