-- ==== Sys2Proof/Safety.lean ====
section
/-! DEFINITION. What a sound state of the block is, in the terms that the statements use: memories in canonical form, logs within their bounds, and no register of the committed or applied image outside the ranges of its fields; and how the fuses may change. -/
namespace Sys2Proof

open Machine

/-- Every memory is in its one canonical form: keys strictly rising, no entry equal to what an unlisted key reads as. -/
def Memory.wf (s : State) : Bool :=
  Sparse.wf 0 s.sram && Sparse.wf 0 s.transom && Sparse.wf 0 s.host && Sparse.wf wordZero s.cistern

/-- A field value that R402 lets a commit apply: a reserved field is zero, an enumerated one holds a listed code, a number lies in its range. -/
def legalField (k : FKind) (v : Nat) : Bool :=
  match k with
  | .reserved => v == 0
  | .plain => true
  | .enum codes _ => codes.contains v
  | .num lo hi => decide (lo ≤ v) && decide (v ≤ hi)
  | .nonzero _ => v != 0
  | .locked => true

/-- A word that the register at an offset may hold. -/
def legalReg (off : Nat) (w : Word) : Bool :=
  match regKind off with
  | .staged _ fs => fs.all fun f => legalField f.kind (f.get w)
  | _ => true

/-- A register image all of whose entries are legal. -/
def legalMap (m : RegMap) : Bool := m.all fun e => legalReg e.1 e.2

/-- A sound state. -/
structure Sound (s : State) : Prop where
  /-- the memories are canonical -/
  mem : Memory.wf s = true
  /-- the RAS log holds at most 256 entries (R351) -/
  ras : s.ras.length ≤ 256
  /-- the clamp log holds at most 64 entries (R403) -/
  clamp : s.cfg.clampLog.length ≤ 64
  /-- the committed image and the image in force hold legal words only (R402) -/
  committed : legalMap s.cfg.committed = true
  force : legalMap s.cfg.force = true

/-! ### States in which nothing waits -/

/-- Nothing on the rings of partition n waits to begin, to be applied at the gate, or for another ring, and no trap waits to be reported. -/
def atRest (s : State) (n : Fin 16) : Bool :=
  (s.part n).traps.isEmpty &&
    allRings.all fun r => (s.ring n r).flights.all fun f => f.phase != .waiting && f.phase != .gate && dOpcode f.d != 0x01

/-- No ring of partition n has a descriptor in flight, and no trap waits to be reported. -/
def quiet (s : State) (n : Fin 16) : Bool := (s.part n).traps.isEmpty && allRings.all fun r => (s.ring n r).flights.isEmpty

/-- No partition has anything to begin or to apply at a gate, and the committed configuration is in force. -/
def calm (s : State) : Bool :=
  (allParts.all fun n => atRest s n && !hasRequests s n) && s.cfg.force == s.cfg.committed && !s.cfg.tagDue

/-- No receive buffer holds a parcel that R216 holds back. -/
def noneHeld (s : State) : Bool := allPorts.all fun q => (s.port q).held.isEmpty

/-- The life-cycle transitions of R463: BLANK to TEST, TEST to PROVISIONED, PROVISIONED to OPERATIONAL and back, and PROVISIONED or OPERATIONAL to RETURNED. -/
def lifeCyclePairs : List (Nat × Nat) := [(1, 2), (2, 3), (3, 4), (4, 3), (3, 5), (4, 5)]

/-- R463 with the KEY_ID that R464 gives each signer: 0 Erelaut, 1 the owner, 2 Erelaut together with an owner token. -/
def lifeCycleRows : List (Nat × Nat × Nat) := [(1, 2, 0), (2, 3, 0), (3, 4, 1), (4, 3, 1), (3, 5, 2), (4, 5, 2)]

/-- The command of every descriptor row that carries the 64 bytes d on ring r of function n; x is the fault that the work of a descriptor meets. -/
def descriptorRows (n : Fin 16) (r : Fin 8) (d : Desc) (x : UnitFault) : List Instr :=
  [.nop n r d, .fence n r d, .planLoad n r d, .stepOpen n r d, .stepSeal n r d, .copy n r d x, .gemm n r d, .gemmPacked n r d,
   .conv n r d, .cascadeSlice n ⟨r, x⟩ d, .cascadeMultiply n r d, .strictGemm n r d x, .cstOpen n r d, .cstAdd n ⟨r, x⟩ d, .cstRead n r d,
   .cstClose n r d, .reduce n r d, .allreduce n r d, .reduceScatter n r d, .broadcast n r d, .allgather n r d, .barrier n r d,
   .statsReduce n r d, .ledgerRelease n r d, .mirrorSync n r d, .replay n ⟨r, x⟩ d, .shardRestore n r d, .epochAdvance n r d, .portJoin n r d,
   .portLeave n r d]

/-! ### What a command leaves alone -/

/-- Two records of a sluice that differ at most in what its transmitter counts and sends: slot and lane, the flits sent, the credits not sent yet, and ACK, NAK and STATE fields as last sent. -/
def sameButLine (p q : Port) : Prop :=
  q = { p with line := q.line, owedCredits := q.owedCredits, told := q.told, slot := q.slot, turn := q.turn, news := q.news }

/-- The DATA flits among flits sent. -/
def dataSent (line : List Sent) : List DataFlit :=
  line.filterMap fun x => match x.kind with | .data q st bs => some ⟨q, st, bs⟩ | _ => none

/-- Credits of a virtual lane that a sluice has given back since its training: those sent, and those that still wait for a flit (R277). -/
def creditsGiven (p : Port) (v : Nat) : Nat :=
  getV p.owedCredits v + (p.line.map fun x => (if x.credA.1 = v then x.credA.2 else 0) + if x.credB.1 = v then x.credB.2 else 0).sum

/-- Nothing but the record of sluice q differs. -/
def onlyPort (q : Fin 24) (s t : State) : Prop := t = { s with ports := t.ports } ∧ ∀ m, m ≠ q → t.port m = s.port m

/-- Nothing but the registers of function n differs. -/
def onlyFn (n : Fin 16) (s t : State) : Prop := t = { s with fns := t.fns } ∧ ∀ m, m ≠ n → t.fn m = s.fn m

/-- Nothing but ring r of function n differs. -/
def onlyRing (n : Fin 16) (r : Fin 8) (s t : State) : Prop :=
  onlyFn n s t ∧ t.fn n = { s.fn n with rings := (t.fn n).rings } ∧ ∀ k, k ≠ r → t.ring n k = s.ring n k

/-- Nothing but the record of partition n differs. -/
def onlyPart (n : Fin 16) (s t : State) : Prop := t = { s with parts := t.parts } ∧ ∀ m, m ≠ n → t.part m = s.part m

/-- Nothing but ring r of function n and the record of partition n differs. -/
def onlyRingPart (n : Fin 16) (r : Fin 8) (s t : State) : Prop := ∃ u, onlyPart n s u ∧ onlyRing n r u t

/-- Nothing but the mailbox and the answer given differs. -/
def mailboxOnly (s t : State) : Prop := t = { s with mbx := t.mbx, out := t.out }

/-- An access of a source is served: the host's once it reaches the physical function, the management port's once PORST_N is released (R451). -/
def mayServe (s : State) (src : Src) : Bool :=
  match src with
  | .host => hostReaches s 0
  | .port => !s.sys.porst

/-- A ring after it has taken descriptor f from its next slot. -/
def took (x : Ring) (f : Flight) : Ring := { x with issue := (x.issue + 1) % 2 ^ 32, flights := x.flights ++ [f] }

end Sys2Proof
end

