-- ==== Sys2Proof/WellFormed.lean ====
section
/-! DEFINITION. Which commands are well formed: a descriptor row carries a descriptor of its own row or one with an undefined opcode, and an event row carries data in the ranges that its rule gives. -/
namespace Sys2Proof

open Machine (fld fbit)

/-- The opcodes of R368. -/
def definedOpcodes : List Nat :=
  [0x00, 0x01, 0x02, 0x03, 0x04, 0x08, 0x10, 0x11, 0x12, 0x13, 0x14, 0x20, 0x21, 0x22, 0x23, 0x30, 0x31, 0x32, 0x33, 0x34, 0x35,
   0x36, 0x40, 0x41, 0x42, 0x43, 0x50, 0x51, 0x52]

/-- OPCODE of a descriptor (R367). -/
def opcodeOf (d : Desc) : Nat := fld d 0 0 8

/-- A descriptor that a row with opcode `op` may carry: its own opcode, or an undefined one, which the ring rejects BAD_OPCODE (R369). -/
def descFits (op : Nat) (d : Desc) : Bool := opcodeOf d == op || !definedOpcodes.contains (opcodeOf d)

/-- The opcode of a descriptor row, with PHASE where two rows share one (R174, R368). -/
def rowOpcode : Instr → Option (Nat × Desc)
  | .nop _ _ d => some (0x00, d)
  | .fence _ _ d => some (0x01, d)
  | .planLoad _ _ d => some (0x02, d)
  | .stepOpen _ _ d => some (0x03, d)
  | .stepSeal _ _ d => some (0x04, d)
  | .copy _ _ d _ => some (0x08, d)
  | .gemm _ _ d => some (0x10, d)
  | .gemmPacked _ _ d => some (0x11, d)
  | .conv _ _ d => some (0x12, d)
  | .cascadeSlice _ _ d => some (0x13, d)
  | .cascadeMultiply _ _ d => some (0x13, d)
  | .strictGemm _ _ d _ => some (0x14, d)
  | .cstOpen _ _ d => some (0x20, d)
  | .cstAdd _ _ d => some (0x21, d)
  | .cstRead _ _ d => some (0x22, d)
  | .cstClose _ _ d => some (0x23, d)
  | .reduce _ _ d => some (0x30, d)
  | .allreduce _ _ d => some (0x31, d)
  | .reduceScatter _ _ d => some (0x32, d)
  | .broadcast _ _ d => some (0x33, d)
  | .allgather _ _ d => some (0x34, d)
  | .barrier _ _ d => some (0x35, d)
  | .statsReduce _ _ d => some (0x36, d)
  | .ledgerRelease _ _ d => some (0x40, d)
  | .mirrorSync _ _ d => some (0x41, d)
  | .replay _ _ d => some (0x42, d)
  | .shardRestore _ _ d => some (0x43, d)
  | .epochAdvance _ _ d => some (0x50, d)
  | .portJoin _ _ d => some (0x51, d)
  | .portLeave _ _ d => some (0x52, d)
  | _ => none

/-- PHASE of a CASCADE_GEMM descriptor tells its two rows apart (R174). -/
def phaseFits (multiply : Bool) (d : Desc) : Bool := opcodeOf d != 0x13 || fbit d 18 4 == multiply

/-- The opcode of a mailbox row (R455). -/
def mailboxOpcode : Instr → Option (Nat × Word)
  | .mbxNop _ w => some (0x00, w)
  | .mbxAbort _ w => some (0x01, w)
  | .snapInfo _ w => some (0x10, w)
  | .snapRead _ w => some (0x11, w)
  | .snapRequest _ w => some (0x12, w)
  | .ageLog _ w => some (0x20, w)
  | .faultRecord _ w => some (0x21, w)
  | .fwUpdate _ w => some (0x30, w)
  | .fwActivate _ w => some (0x31, w)
  | .lcsToken _ w => some (0x40, w)
  | _ => none

/-- Whether a command is well formed. -/
def WellFormed (c : Instr) : Bool :=
  match rowOpcode c, mailboxOpcode c with
  | some (op, d), _ =>
    descFits op d && (match c with | .cascadeSlice _ _ d => phaseFits false d | .cascadeMultiply _ _ d => phaseFits true d | _ => true)
  | none, some (op, w) => w.toNat % 256 == op
  | none, none =>
    match c with
    | .powerSample m => m.sensors.length == 48
    | .sentinelMeasure readings => readings.all fun x => x.1 < 64
    | .porstRelease env => env.enabled ≤ 128 && env.spareBasins ≤ 8
    | _ => true

end Sys2Proof
end

