-- ==== Sys2Proof/Certificates/Slice0/Obligations.lean ====
section
/-! DEFINITION. What is claimed of the block, for the provers. -/
open Sys2Proof Sys2Proof.Machine

/-! ### The machine -/

/-- A step runs the command at the front of the queue, with the rest of the queue left waiting. With no command waiting the block idles: the model's choice (assumption 1). -/
def Obligations.StepRunsTheFrontCommand : Prop :=
  (∀ (s : State) (c : Instr) (rest : List Instr), s.pending = c :: rest → step s = exec c { s with pending := rest }) ∧
  (∀ s : State, s.pending = [] → step s = .next s)

/-- Every command leaves the queue, the die-set serial (R411) and, upwards only, the minimum SVN (R461) as they are. -/
def Obligations.ExecLeavesQueueSerialAndSvn : Prop :=
  ∀ (c : Instr) (s t : State), exec c s = .next t →
    t.pending = s.pending ∧ t.lcs.serial = s.lcs.serial ∧ s.lcs.svnMin ≤ t.lcs.svnMin

/-- Right after reset: PORST_N asserted and nothing powered, EVT_FAULT_EN at 3 (R414), rings and event rings disabled with depth code 6 (R364, R386), every immediate error register zero, and every staged register at its reset value. The fuses' contents are the model's choice (assumption 5). -/
def Obligations.ResetLeavesRegistersAtTheirResetValues : Prop :=
  State.reset.pending = [] ∧ State.reset.sys.porst = true ∧ State.reset.sys.coreUp = false ∧ State.reset.evtFaultEn = 3 ∧
    State.reset.evtError = 0 ∧ State.reset.mbx.st = .idle ∧ State.reset.ras = [] ∧
    (∀ n r, (State.reset.ring n r).ctl = 0xC ∧ (State.reset.ring n r).mod = 1 ∧ (State.reset.ring n r).stop = .none) ∧
    (∀ n, (State.reset.fn n).evt.ctl = 0xC ∧ (State.reset.fn n).lastError = 0) ∧
    (∀ q, (State.reset.port q).st = .dark) ∧
    ∀ off, regGet State.reset.cfg.committed off = resetValue off ∧ State.reset.force off = resetValue off

/-- The state right after reset is sound. -/
def Obligations.ResetIsSound : Prop :=
  Sound State.reset

/-- Every step keeps a state sound: its memories canonical, its RAS log within 256 entries and its clamp log within 64 (R351, R403), and no register of the committed image or of the image in force outside the ranges of R402. -/
def Obligations.EveryStepKeepsSound : Prop :=
  ∀ s t : State, Sound s → step s = .next t → Sound t

/-- The life-cycle state changes only along a row of R463, and only as the last word w of a running LCS_TOKEN arrives whose FROM, TO and KEY_ID are that row's and whose signatures under the key named verify. -/
def Obligations.LifeCycleFollowsItsTransitions : Prop :=
  ∀ s t : State, step s = .next t → t.lcs.state = s.lcs.state ∨
    ∃ (w : Word) (key : Nat), mbxOp s = 0x40 ∧ s.mbx.st = .write ∧ (s.lcs.state, t.lcs.state, key) ∈ lifeCycleRows ∧
      let token := wordBytes (s.mbx.buf ++ [w])
      tokenByte token 1 = s.lcs.state ∧ tokenByte token 2 = t.lcs.state ∧ tokenByte token 3 = key ∧ tokenSigned s.lcs token = true

/-- ID_BLOCK_VERSION reads 0x0002_0001 (R3) and ID_STEPPING 0x0000_0201 (R4), over BAR0 and over the management port; the read changes nothing but what it answers. -/
def Obligations.IdentityRegistersReadTheirConstants : Prop :=
  ∀ (s : State) (src : Src), mayServe s src = true →
    (∃ t, exec (.registerRead src .bar0 0x0 4) s = .next t ∧ t.out.readData = 0x00020001 ∧ t = { s with out := t.out }) ∧
    ∃ t, exec (.registerRead src .bar0 0x4 4) s = .next t ∧ t.out.readData = 0x00000201 ∧ t = { s with out := t.out }

/-! ### Memories and words -/

/-- A byte of basin SRAM, of the Transom window or of host memory reads as the last byte written there, and the write leaves every other byte alone. The bytes of a range read back in order (induction over the range), and every byte outside it stands. -/
def Obligations.MemoryReadsBackAndOthersStand : Prop :=
  (∀ (s : State) (a : Nat) (b : Byte), Memory.wf s = true →
        (spaceOf a = 0 ∧ a < 2 ^ 29) ∨ (spaceOf a = 4 ∧ a < 2 ^ 48) ∨ (spaceOf a = 8 ∧ a < 2 ^ 48) →
        readByte (writeByte s a b) a = b ∧ ∀ x, x < 2 ^ 48 → x ≠ a → readByte (writeByte s a b) x = readByte s x) ∧
  (∀ (bs : List Byte) (s : State) (a : Nat), Memory.wf s = true → a + bs.length ≤ 2 ^ 29 →
        memRead (memWrite s a bs) a bs.length = bs ∧
        ∀ x, x < 2 ^ 48 → (x < a ∨ a + bs.length ≤ x) → readByte (memWrite s a bs) x = readByte s x)

/-- After all contributions to a cistern word DATA is the sum of their n modulo 2^128 on top of what it was and SPEC the OR of their special bits; n and the special bits of a contribution depend on its value, WEXP and CRND alone, and the word on the collection of contributions and not on its order (R149). RES stays DATA modulo 127. -/
def Obligations.ContributionsAddInAnyOrder : Prop :=
  ∀ (w : CWord) (wexp : Int) (crnd : Bool) (xs : List Val),
    let enter := fun (l : List Val) => l.foldl (fun w x => addWord w (entryOf wexp crnd x).1 (entryOf wexp crnd x).2) w
    (enter xs).data = BitVec.ofNat 128 (w.data.toNat + (xs.map fun x => (entryOf wexp crnd x).1.toNat).sum) ∧
      (enter xs).spec = xs.foldl (fun a x => a ||| (entryOf wexp crnd x).2) w.spec ∧
      (w.res = BitVec.ofNat 7 (w.data.toNat % 127) → (enter xs).res = BitVec.ofNat 7 ((enter xs).data.toNat % 127)) ∧
      ∀ ys, xs.Perm ys → enter xs = enter ys

/-! ### BAR2: rings, event ring, MSI-X -/

/-- A doorbell on a function that the host reaches, with an OPEN Shutter outside D3hot (R365): a 4-byte write to FN_DOORBELL_n within the ring's depth sets TAIL; one out of bounds is rejected BAD_TAIL, and one to a ring that is not enabled RING_DISABLED; another size or offset is recorded BAD_OFFSET; a read returns TAIL. Nothing else changes. -/
def Obligations.DoorbellsSetTail : Prop :=
  ∀ (s : State) (n : Fin 16) (r : Fin 8) (v : Word), hostReaches s n = true → (s.part n).shutter = .open_ → (s.fn n).d3hot = false →
    let x := s.ring n r
    let told := fun (f : Fn) (code off value : Nat) => { f with
      lastError := BitVec.ofNat 32 (code + off * 2 ^ 8 + 2 ^ 31), errorValue := BitVec.ofNat 32 value, errorCount := min 65535 (f.errorCount + 1) }
    let good := (v.toNat + 2 ^ 32 - x.head) % 2 ^ 32 ≤ depthOf x.ctl ∧ (v.toNat + 2 ^ 32 - x.tail) % 2 ^ 32 < 2 ^ 31
    let page := 0x10000 + 0x1000 * r.val
    (∃ t, exec (.doorbell n r 0 4 v) s = .next t ∧
      (enabled x.ctl = true → good → onlyRing n r s t ∧ t.ring n r = { x with tail := v.toNat }) ∧
      (enabled x.ctl = true → ¬good → onlyFn n s t ∧ t.fn n = told (s.fn n) 0x03 page v.toNat) ∧
      (enabled x.ctl = false → onlyFn n s t ∧ t.fn n = told (s.fn n) 0x04 page v.toNat)) ∧
    (∀ off size, off < 0x1000 → off ≠ 0 ∨ size ≠ 4 →
      ∃ t, exec (.doorbell n r off size v) s = .next t ∧ onlyFn n s t ∧
        t.fn n = told (s.fn n) 0x08 (page + off) (v.toNat % 2 ^ (8 * size) % 2 ^ 32)) ∧
    exec (.registerRead .host (.bar2 n) page 4) s = .next { s with out := { s.out with readData := BitVec.ofNat 64 x.tail } }

/-- Enabling a disabled ring starts it at zero (R364); disabling an idle one keeps its place. In both the ring takes DEPTH, VECTOR and IRQ_EN, and reserved bits read zero. RESUME returns a HALTED or FAULT ring to RUNNING (R373, R395): with nothing in flight, nothing else changes. While the Shutter is not OPEN a doorbell is dropped and counted in counter 13 (R23); nothing else changes. -/
def Obligations.RingsStartStopAndResume : Prop :=
  (∀ (s : State) (n : Fin 16) (r : Fin 8) (v : Word), hostReaches s n = true → (s.part n).shutter = .open_ →
        6 ≤ wbits v 4 1 →
        (enabled (s.ring n r).ctl = false → enabled v = true →
          ∃ t, exec (.ringEnable n r v) s = .next t ∧ onlyRing n r s t ∧ t.ring n r = { s.ring n r with
            ctl := v &&& 0xFF1F, head := 0, tail := 0, issue := 0, stop := .none, flights := [], owed := [], written := [], failed := [],
            last := none, unsignalled := 0 }) ∧
        (enabled (s.ring n r).ctl = true → enabled v = false → wbits v 4 1 = wbits (s.ring n r).ctl 4 1 → (s.ring n r).stop = .none →
          (s.ring n r).head = (s.ring n r).tail → (s.ring n r).flights = [] →
          ∃ t, exec (.ringEnable n r v) s = .next t ∧ onlyRing n r s t ∧ t.ring n r = { s.ring n r with ctl := v &&& 0xFF1F })) ∧
  (∀ (s : State) (n : Fin 16) (r : Fin 8), hostReaches s n = true → (s.part n).shutter = .open_ → quiet s n = true →
        (s.ring n r).stop ≠ .none →
        ∃ t, exec (.resume n r 1) s = .next t ∧ onlyRing n r s t ∧ t.ring n r = { s.ring n r with stop := .none }) ∧
  (∀ (s : State) (n : Fin 16) (r : Fin 8) (v : Word), hostReaches s n = true → (s.part n).shutter ≠ .open_ →
        ∃ t, exec (.doorbell n r 0 4 v) s = .next t ∧ onlyPart n s t ∧ t.part n = { s.part n with counters := bump (s.part n).counters 13 1 })

/-- Enabling the event ring starts HEAD and PROD at zero (R386); a write of FN_EVT_HEAD consumes entries and acknowledges the message (R388), and sends no other where nothing is left. An event takes the next slot of an enabled event ring with room (R386): its 32 bytes land at BASE + 32 × (PROD mod depth), every other byte of host memory stands, and PROD counts it. -/
def Obligations.EventRingTakesItsEntries : Prop :=
  (∀ (s : State) (n : Fin 16) (v : Word), hostReaches s n = true → (s.part n).shutter = .open_ →
        (enabled (s.fn n).evt.ctl = false → enabled v = true → 6 ≤ wbits v 4 1 →
          ∃ t, exec (.evtRingEnable n v) s = .next t ∧ onlyFn n s t ∧
            t.fn n = { s.fn n with evt := { (s.fn n).evt with ctl := v &&& 0xFF1F, head := 0, prod := 0, unacked := false } }) ∧
        (v.toNat = (s.fn n).evt.prod →
          ∃ t, exec (.evtHeadWrite n v) s = .next t ∧ onlyFn n s t ∧
            t.fn n = { s.fn n with evt := { (s.fn n).evt with head := v.toNat, unacked := false } })) ∧
  (∀ (s : State) (n : Fin 16) (code ring stp : Nat) (detail : List (Nat × Nat × Nat × Nat)),
        Memory.wf s = true → enabled (s.fn n).evt.ctl = true → mayDma s n = true → (s.fn n).evt.prod < 2 ^ 32 →
        ((s.fn n).evt.prod + 2 ^ 32 - (s.fn n).evt.head) % 2 ^ 32 < depthOf (s.fn n).evt.ctl → (∀ x ∈ detail, 12 ≤ x.1) →
        let t := event s n code ring stp detail
        let slot := (s.fn n).evt.base.toNat + 32 * ((s.fn n).evt.prod % depthOf (s.fn n).evt.ctl)
        (t.fn n).evt.prod = ((s.fn n).evt.prod + 1) % 2 ^ 32 ∧ (t.fn n).evt.dropped = (s.fn n).evt.dropped ∧
          (slot + 32 ≤ 2 ^ 64 → ∀ a, a < 2 ^ 64 → (a < slot ∨ slot + 32 ≤ a) → Sparse.get 0 t.host a = Sparse.get 0 s.host a) ∧
          (slot + 32 ≤ 2 ^ 64 → ofLE ((List.range 4).map fun i => Sparse.get 0 t.host (slot + i)) = (s.fn n).evt.prod) ∧
          (slot + 32 ≤ 2 ^ 64 → ofLE ((List.range 2).map fun i => Sparse.get 0 t.host (slot + 4 + i)) % 2 ^ 16 = code % 2 ^ 16) ∧
          t.sram = s.sram ∧ t.transom = s.transom ∧ t.cistern = s.cistern)

/-- The moderation timer sends the ring's vector for completions that no message has announced (R388): the message of an unmasked vector, or the pending bit of a masked one. Unmasking a vector whose pending bit is set sends its message and clears the bit (R388). -/
def Obligations.MessagesAreSentAndHeld : Prop :=
  (∀ (s : State) (n : Fin 16) (r : Fin 8), mayDma s n = true → irqEn (s.ring n r).ctl = true → wbits (s.ring n r).mod 23 8 ≠ 0 →
        (s.ring n r).unsignalled ≠ 0 →
        ∃ t, exec (.irqModerationTimer n r) s = .next t ∧ t.ring n r = { s.ring n r with unsignalled := 0 } ∧
          t = { s with fns := t.fns, out := t.out } ∧ (∀ m, m ≠ n → t.fn m = s.fn m) ∧
          let v := vectorOf (s.ring n r).ctl
          if (msixWord (s.fn n) (4 * v + 3)).getLsbD 0 then t.out = s.out ∧ (t.fn n).pba = (s.fn n).pba ||| 2 ^ v
          else (t.fn n).pba = (s.fn n).pba ∧ t.out = { s.out with posted := s.out.posted ++ [⟨n.val, false, .message,
            (msixWord (s.fn n) (4 * v)).toNat + 2 ^ 32 * (msixWord (s.fn n) (4 * v + 1)).toNat, toLE 4 (msixWord (s.fn n) (4 * v + 2)).toNat⟩] }) ∧
  (∀ (s : State) (n : Fin 16) (v : Fin 128), hostReaches s n = true → (s.part n).shutter = .open_ →
        ∃ t, exec (.msixUnmask n v) s = .next t ∧ (msixWord (t.fn n) (4 * v.val + 3)).getLsbD 0 = false ∧
          t = { s with fns := t.fns, out := t.out } ∧ (∀ m, m ≠ n → t.fn m = s.fn m) ∧ (∀ r, t.ring n r = s.ring n r) ∧
          (∀ i, i ≠ 4 * v.val + 3 → msixWord (t.fn n) i = msixWord (s.fn n) i) ∧
          if (s.fn n).pba.testBit v.val then (t.fn n).pba = (s.fn n).pba ^^^ 2 ^ v.val ∧ t.out = { s.out with posted := s.out.posted ++ [⟨n.val, false, .message,
            (msixWord (s.fn n) (4 * v.val)).toNat + 2 ^ 32 * (msixWord (s.fn n) (4 * v.val + 1)).toNat, toLE 4 (msixWord (s.fn n) (4 * v.val + 2)).toNat⟩] }
          else (t.fn n).pba = (s.fn n).pba ∧ t.out = s.out)

/-! ### BAR0: staging, commit, reads, the RAS log -/

/-- A write to a staged register enters the staging image and leaves the committed value and the value in force as they are, so that a read shows what was last committed (R398); a commit with nothing written changes no value (R400). A commit of nothing counts itself in the clamp log's sequence number, clears the log, and changes nothing else of a calm machine (R400, R403). A commit checks the one written register field by field (R402) and logs what it changes: here a number between its bounds, a number below, and one above, in DEGRADE of a sluice (a field of one number and reserved bits). A read of a register of a sound state through BAR0 gives a word that the register may hold (R402). -/
def Obligations.StagingWaitsAndCommitChecks : Prop :=
  (∀ (s : State) (off : Nat) (v : BitVec 64) (sc : Scope) (fs : List Field),
        hostReaches s 0 = true → s.sys.coreUp = true → off % 4 = 0 → regKind off = .staged sc fs →
        ∃ t u, exec (.stagedRegisterWrite off 4 v) s = .next t ∧ exec (.registerWrite .host .bar0 off 4 v) s = .next t ∧
          t = { s with cfg := { s.cfg with staged := t.cfg.staged } } ∧ Sparse.get 0 t.cfg.staged off = BitVec.ofNat 32 v.toNat ∧
          exec (.registerRead .host .bar0 off 4) t = .next u ∧ u = { t with out := { t.out with readData := (regGet s.cfg.committed off).setWidth 64 } }) ∧
  (∀ (s : State), hostReaches s 0 = true → calm s = true → s.cfg.staged = [] → s.cfg.bad = [] →
        ∃ t, exec (.commit 1) s = .next t ∧
          t = { s with cfg := { s.cfg with seq := (s.cfg.seq + 1) % 256, clampLog := [], clampOverflow := false, clampSeq := (s.cfg.seq + 1) % 256 } }) ∧
  (∀ (s : State) (q : Fin 24) (w : Word), s.cfg.staged = [(0x30000 + 0x800 * q.val + 8, w)] → s.cfg.bad = [] → w.toNat < 2 ^ 16 →
        (s.cfg.committed.map fun e => e.1).Nodup →
        let off := 0x30000 + 0x800 * q.val + 8
        let t := commitImage s
        regGet t.cfg.committed off = (if w = 0 then 1 else w) ∧
          (∀ o, o ≠ off → regGet t.cfg.committed o = regGet s.cfg.committed o) ∧
          t.cfg.clampLog = (if w = 0 then [(off, 0, 0, 0, 1)] else []) ∧ t.cfg.staged = [] ∧ (∀ n, (t.part n).cfgPending = true)) ∧
  (∀ (s t : State) (off : Nat) (sc : Scope) (fs : List Field), Sound s → hostReaches s 0 = true → off % 4 = 0 →
        regKind off = .staged sc fs → exec (.registerRead .host .bar0 off 4) s = .next t →
        legalReg off (BitVec.ofNat 32 t.out.readData.toNat) = true)

/-- RAS_LOG_POP removes the oldest entry and nothing else (R353). -/
def Obligations.RasLogPopRemovesTheOldest : Prop :=
  ∀ (s : State), hostReaches s 0 = true → ∃ t, exec (.rasLogPop 1) s = .next t ∧ t = { s with ras := s.ras.tail }

/-- The management port reaches only the ID, PWR, MBX and LCS blocks: an access elsewhere in BAR0 reads zero, or writes nothing, and is recorded BAD_OFFSET in MBX_ERROR with its offset and the port as its source; while PORST_N is asserted every access of the port, mailbox commands among them, is answered with a NACK and does nothing (R452). -/
def Obligations.ManagementPortReachesFourBlocks : Prop :=
  ∀ (s : State) (off size : Nat) (v : BitVec 64) (w : Word),
    (s.sys.porst = true → ∀ c ∈ [Instr.registerRead .port .bar0 off size, .registerWrite .port .bar0 off size v, .mbxNop .port w, .mbxAbort .port w,
        .snapInfo .port w, .snapRead .port w, .snapRequest .port w, .ageLog .port w, .faultRecord .port w, .fwUpdate .port w, .fwActivate .port w,
        .lcsToken .port w, .mbxDataWrite .port w, .mbxDataRead .port],
      exec c s = .next { s with out := { s.out with answer := 4 } }) ∧
    (s.sys.porst = false → off < 2 ^ 20 → off / 0x10000 ∉ [0x0, 0x2, 0xB, 0xC] →
      let told := { s.mbx with error := BitVec.ofNat 32 (0x08 + off * 2 ^ 8 + 2 ^ 28 + 2 ^ 31) }
      (∃ t, exec (.registerRead .port .bar0 off size) s = .next t ∧ t = { s with mbx := told, out := t.out } ∧ t.out.readData = 0) ∧
      ∃ t, exec (.registerWrite .port .bar0 off size v) s = .next t ∧ t = { s with mbx := told, out := t.out })

/-! ### The mailbox -/

/-- NOP ends DONE, and so does ABORT with nothing to abort (R455, R470): MBX_STATUS shows DONE, OK and the source, and nothing else changes but the answer to the port. ABORT by the source of the running command ends it with ERROR and ABORTED (R470); the staged image of an FW_UPDATE, the words not yet read and a token's words are gone. -/
def Obligations.MailboxNopAndAbort : Prop :=
  (∀ (s : State) (src : Src) (cmd : Word), mayServe s src = true → mbxRunning s = false → cmd.toNat / 2 ^ 13 = 0 →
        (wbits cmd 7 0 = 0x00 → ∃ t, exec (.mbxNop src cmd) s = .next t ∧ mailboxOnly s t ∧ t.mbx = { s.mbx with
          cmd := cmd, st := .done, source := srcBit src, result := 0, words := 0, buf := [] }) ∧
        (wbits cmd 7 0 = 0x01 → ∃ t, exec (.mbxAbort src cmd) s = .next t ∧ mailboxOnly s t ∧ t.mbx = { s.mbx with
          cmd := cmd, st := .done, source := srcBit src, result := 0, words := 0, buf := [] })) ∧
  (∀ (s : State) (src : Src) (cmd : Word), mayServe s src = true → mbxRunning s = true → s.mbx.source = srcBit src →
        cmd.toNat = 0x01 → mbxOp s ≠ 0x12 →
        ∃ t, exec (.mbxAbort src cmd) s = .next t ∧ t = { s with mbx := t.mbx, out := t.out, slots := t.slots } ∧
          t.mbx = { s.mbx with cmd := cmd, st := .error, result := 6, words := 0, buf := [] })

/-- A command of the other source while one runs is rejected with MBX_BUSY, and one of the same source that is not ABORT with MBX_STATE (R453, R470): MBX_ERROR records it and the running command goes on. In recovery mode the ROM answers BAD_CMD to every command but NOP, ABORT, FW_UPDATE and FW_ACTIVATE (R461). -/
def Obligations.MailboxRejections : Prop :=
  (∀ (s : State) (src : Src) (cmd : Word) (c : Instr), mayServe s src = true → mbxRunning s = true → cmd.toNat / 2 ^ 13 = 0 →
        c ∈ [Instr.mbxNop src cmd, .snapInfo src cmd, .snapRead src cmd, .snapRequest src cmd, .ageLog src cmd, .faultRecord src cmd,
          .fwUpdate src cmd, .fwActivate src cmd, .lcsToken src cmd] → wbits cmd 7 0 ≠ 0x01 →
        ∃ t, exec c s = .next t ∧ mailboxOnly s t ∧
          t.mbx = { s.mbx with error := BitVec.ofNat 32 ((if s.mbx.source = srcBit src then 0x0A else 0x09) + 0xB0000 * 2 ^ 8
            + (if srcBit src then 2 ^ 28 else 0) + 2 ^ 31) }) ∧
  (∀ (s : State) (src : Src) (cmd : Word) (c : Instr), mayServe s src = true → mbxRunning s = false → cmd.toNat / 2 ^ 13 = 0 →
        s.lcs.recovery = true → wbits cmd 7 0 ∉ [0x00, 0x01, 0x30, 0x31] →
        c ∈ [Instr.snapInfo src cmd, .snapRead src cmd, .snapRequest src cmd, .ageLog src cmd, .faultRecord src cmd, .lcsToken src cmd] →
        ∃ t, exec c s = .next t ∧ mailboxOnly s t ∧
          t.mbx = { s.mbx with cmd := cmd, st := .error, source := srcBit src, result := 1, words := 0, buf := [] })

/-- SNAP_INFO delivers eight words, words 0 to 3 of both slots of the partition; without a plan it ends NO_DATA (R455, R458). SNAP_READ delivers the image of a valid slot, which is in use until the read ends (R458). SNAP_REQUEST of a partition with an open step waits BUSY for the step's gate (R31, R458); with a Shutter that is not OPEN it ends DONE. AGE_LOG delivers its 72 words and FAULT_RECORD its 264 (R459), both by reads alone; the last 256 words of FAULT_RECORD are the 32 records, newest first. -/
def Obligations.SnapshotsAndLogsAreDelivered : Prop :=
  (∀ (s : State) (src : Src) (cmd : Word), mayServe s src = true → mbxRunning s = false → cmd.toNat / 2 ^ 13 = 0 →
        wbits cmd 7 0 = 0x10 → s.lcs.recovery = false →
        ∃ t, exec (.snapInfo src cmd) s = .next t ∧ mailboxOnly s t ∧
          let n := fin16 (wbits cmd 11 8)
          t.mbx = if (s.part n).plan.isSome
            then { s.mbx with
              cmd := cmd, st := .read, source := srcBit src, result := 0, words := 8,
              buf := ((List.range 4).map fun i => s.slots[n].1.words.getD i 0) ++ (List.range 4).map fun i => s.slots[n].2.words.getD i 0 }
            else { s.mbx with cmd := cmd, st := .error, source := srcBit src, result := 5, words := 0, buf := [] }) ∧
  (∀ (s : State) (src : Src) (cmd : Word), mayServe s src = true → mbxRunning s = false → cmd.toNat / 2 ^ 13 = 0 →
        wbits cmd 7 0 = 0x11 → s.lcs.recovery = false →
        let n := fin16 (wbits cmd 11 8)
        let x := getSlot s.slots[n] (cmd.getLsbD 12)
        (s.part n).plan.isSome = true → x.valid = true →
        ∃ t, exec (.snapRead src cmd) s = .next t ∧ t = { s with mbx := t.mbx, out := t.out, slots := t.slots } ∧
          t.mbx = { s.mbx with cmd := cmd, st := .read, source := srcBit src, result := 0, words := x.words.length, buf := x.words } ∧
          (getSlot t.slots[n] (cmd.getLsbD 12)).inUse = true ∧ (∀ m, m ≠ n → t.slots[m] = s.slots[m])) ∧
  (∀ (s : State) (src : Src) (cmd : Word), mayServe s src = true → mbxRunning s = false → cmd.toNat / 2 ^ 13 = 0 →
        wbits cmd 7 0 = 0x12 → s.lcs.recovery = false →
        let n := fin16 (wbits cmd 11 8)
        (s.part n).plan.isSome = true →
        ∃ t, exec (.snapRequest src cmd) s = .next t ∧
          ((s.part n).shutter ≠ .open_ → mailboxOnly s t ∧ t.mbx.st = .done ∧ t.mbx.result = 0) ∧
          ((s.part n).shutter = .open_ → (s.part n).openStep.isSome = true →
            t = { s with mbx := t.mbx, out := t.out, parts := t.parts } ∧ t.mbx.st = .busy ∧ (∀ m, m ≠ n → t.part m = s.part m) ∧
              t.part n = { s.part n with snapPending := true })) ∧
  (∀ (s : State) (src : Src) (cmd : Word), mayServe s src = true → mbxRunning s = false → cmd.toNat / 2 ^ 13 = 0 → s.lcs.recovery = false →
        (wbits cmd 7 0 = 0x20 → ∃ t, exec (.ageLog src cmd) s = .next t ∧ mailboxOnly s t ∧ t.mbx.st = .read ∧ t.mbx.words = 72 ∧
          t.mbx.buf.length = 72 ∧ ∀ i, i < 64 → t.mbx.buf.getD (8 + i) 0 =
            BitVec.ofNat 32 (Sparse.get 0 s.power.sentinels i % 2 ^ 16 + Config.sentinelBasin i % 128 * 2 ^ 16)) ∧
        (wbits cmd 7 0 = 0x21 → ∃ t, exec (.faultRecord src cmd) s = .next t ∧
          t = { s with mbx := t.mbx, out := t.out, draws := t.draws } ∧ t.mbx.st = .read ∧ t.mbx.words = 264 ∧
          t.mbx.buf.drop 8 = (List.range 32).flatMap fun i => wordsLE 8 (s.lcs.records.getD i 0).toNat))

/-- FW_UPDATE with a length that R461 allows empties the inactive bank and takes that many words. FW_ACTIVATE of a bank that passes its check makes it active and raises the minimum SVN to the image's (R461); of one that fails, it ends AUTH_FAIL and changes no bank. -/
def Obligations.FirmwareIsUpdatedAndActivated : Prop :=
  (∀ (s : State) (src : Src) (cmd : Word), mayServe s src = true → mbxRunning s = false → cmd.toNat / 2 ^ 13 = 0 → wbits cmd 7 0 = 0x30 →
        40 ≤ s.mbx.arg.toNat → s.mbx.arg.toNat ≤ 262128 →
        ∃ t, exec (.fwUpdate src cmd) s = .next t ∧ t = { s with mbx := t.mbx, out := t.out, lcs := t.lcs } ∧
          t.mbx = { s.mbx with cmd := cmd, st := .write, source := srcBit src, result := 0, words := s.mbx.arg.toNat, buf := [] } ∧
          bankOf t.lcs (!s.lcs.active) = [] ∧ bankOf t.lcs s.lcs.active = bankOf s.lcs s.lcs.active ∧ t.lcs.active = s.lcs.active ∧
          t.lcs.svnMin = s.lcs.svnMin) ∧
  (∀ (s : State) (src : Src) (cmd : Word), mayServe s src = true → mbxRunning s = false → cmd.toNat / 2 ^ 13 = 0 → wbits cmd 7 0 = 0x31 →
        s.mbx.arg.toNat < 2 →
        let b := s.mbx.arg.getLsbD 0
        ∃ t, exec (.fwActivate src cmd) s = .next t ∧ t = { s with mbx := t.mbx, out := t.out, lcs := t.lcs } ∧
          if bankPasses s.lcs.svnMin (bankOf s.lcs b) then
            t.mbx.st = .done ∧ t.lcs.active = b ∧ t.lcs.svnMin = max s.lcs.svnMin (word (bankOf s.lcs b) 2) ∧
              t.lcs.bankA = s.lcs.bankA ∧ t.lcs.bankB = s.lcs.bankB ∧ t.lcs.running = s.lcs.running
          else t.mbx.st = .error ∧ t.mbx.result = 3 ∧ t.lcs = s.lcs)

/-- LCS_TOKEN takes 44 words (R455), and a first word with KEY_ID 1 or 2 makes them 68 (R464): MBX_DATA_WRITE takes each in order. A word written in state WRITE is taken in order until the last (R454): before it, only the buffer and WORDS change. A read of MBX_DATA gives the next word in state READ, and the last one ends the command DONE (R454); in any other state it gives zero and changes nothing. -/
def Obligations.MailboxDataMovesInOrder : Prop :=
  (∀ (s : State) (src : Src) (cmd w : Word), mayServe s src = true → mbxRunning s = false → cmd.toNat / 2 ^ 13 = 0 → wbits cmd 7 0 = 0x40 →
        s.lcs.recovery = false →
        ∃ t u, exec (.lcsToken src cmd) s = .next t ∧ mailboxOnly s t ∧
          t.mbx = { s.mbx with cmd := cmd, st := .write, source := srcBit src, result := 0, words := 44, buf := [] } ∧
          exec (.mbxDataWrite src w) t = .next u ∧ mailboxOnly s u ∧
          u.mbx = { t.mbx with words := if w.toNat / 2 ^ 24 = 1 ∨ w.toNat / 2 ^ 24 = 2 then 67 else 43, buf := [w] }) ∧
  (∀ (s : State) (src : Src) (w : Word), mayServe s src = true → s.mbx.st = .write → s.mbx.source = srcBit src → 1 < s.mbx.words →
        s.mbx.buf ≠ [] →
        ∃ t, exec (.mbxDataWrite src w) s = .next t ∧ mailboxOnly s t ∧
          t.mbx = { s.mbx with buf := s.mbx.buf ++ [w], words := s.mbx.words - 1 }) ∧
  (∀ (s : State) (src : Src), mayServe s src = true →
        ∃ t, exec (.mbxDataRead src) s = .next t ∧ t = { s with mbx := t.mbx, out := t.out, slots := t.slots } ∧
          (∀ w v ws, s.mbx.st = .read → s.mbx.buf = w :: v :: ws →
            t.out.readData = w.setWidth 64 ∧ t.slots = s.slots ∧ t.mbx = { s.mbx with buf := v :: ws, words := ws.length + 1 }) ∧
          (∀ w, s.mbx.st = .read → s.mbx.buf = [w] →
            t.out.readData = w.setWidth 64 ∧ t.mbx = { s.mbx with st := .done, result := 0, words := 0, buf := [] }) ∧
          (s.mbx.st ≠ .read → t.out.readData = 0 ∧ t.mbx = s.mbx ∧ t.slots = s.slots))

/-! ### Resets, the host link and the boundary -/

/-- PORST_ASSERT, and a fall of VDDIO18 (R486), reset every domain (R440, R443, R405): the whole state is at its reset, with every Shutter CLOSED, but for the fuses, the firmware store and the fault records, the levels of the pins and the crossings held in reset; memory outside the die and the waiting commands stand, and where the core was powered the cause is recorded. -/
def Obligations.PorstResetsEveryDomain : Prop :=
  ∀ (s : State) (c : Instr), c ∈ [Instr.porstAssert, .vddio18Fall] → s.sys.porst = false →
    ∃ t, exec c s = .next t ∧ t = { State.reset with
        pending := s.pending, transom := s.transom, host := s.host, out := s.out, draws := t.draws,
        parts := Vector.replicate 16 { Part.reset with shutter := .closed },
        lcs := { s.lcs with fwUp := false, recovery := false, wipeSig := 0, tokenBusy := false, tokenMiss := [], records := t.lcs.records },
        sys := { Sys.reset with
          perst := s.sys.perst, haltRaw := s.sys.haltRaw, optInt := s.sys.optInt, stalled := s.sys.stalled, cause := t.sys.cause } } ∧
      (s.sys.rails = false → t.lcs.records = s.lcs.records ∧ t.sys.cause = s.sys.cause) ∧
      (s.sys.rails = true → t.sys.cause = 1 ∧ t.lcs.records.tail = s.lcs.records.take 31 ∧ fld (t.lcs.records.headD 0) 0 0 8 = 0x81)

/-- A reset of the device core by PERST_ASSERT (R405, R440, R443): the core's memories, functions, partitions, sluices and spare map are at reset with every Shutter CLOSED; the committed PWR values stay and come into force, every other register of the register map is at reset; the power manager goes on but for its counters; a running mailbox command ends ABORTED and the mailbox is IDLE with empty slots; the cause is 2; and the RAS log, the fuses and memory outside the die stand. PERST_DEASSERT (R444): the level alone is taken where PORST_N is asserted; a core that is up, and ready in time, becomes ready and its link trains; one that was reset comes up after a wipe without a mismatch, with its optical bus up, the logical basins of its self-test, and every Shutter OPEN. -/
def Obligations.PerstResetsAndReadiesTheCore : Prop :=
  (∀ (s : State), s.sys.perst = false → s.sys.porst = false → s.sys.rails = true →
        ∃ t, exec .perstAssert s = .next t ∧ t = { State.reset with
            pending := s.pending, transom := s.transom, host := s.host, out := s.out, draws := t.draws, ras := s.ras, rasOverflow := s.rasOverflow,
            parts := Vector.replicate 16 { Part.reset with shutter := .closed },
            cfg := { Cfg.reset with committed := t.cfg.committed, force := t.cfg.force },
            power := { s.power with counters := Vector.replicate 16 0, microJ := 0 },
            mbx := { s.mbx with st := .idle, result := if mbxRunning s then 6 else s.mbx.result, words := 0, buf := [] },
            lcs := { s.lcs with tokenBusy := false, tokenMiss := [], records := t.lcs.records }, sys := t.sys } ∧
          t.sys.perst = true ∧ t.sys.rails = true ∧ t.sys.coreUp = false ∧ t.sys.ready = false ∧ t.sys.linkUp = false ∧ t.sys.vfEnable = false ∧
          t.sys.cause = 2 ∧ (∀ off, off / 0x10000 = 2 → regGet t.cfg.committed off = regGet s.cfg.committed off ∧ t.force off = regGet s.cfg.committed off) ∧
          (∀ off, off / 0x10000 ≠ 2 → regGet t.cfg.committed off = resetValue off ∧ t.force off = resetValue off)) ∧
  (∀ (s : State) (env : BootEnv),
        (s.sys.porst = true → exec (.perstDeassert env) s = .next { s with sys := { s.sys with perst := false } }) ∧
        (s.sys.porst = false → s.sys.rails = true → s.sys.coreUp = true → s.sys.ready = false → env.coreReady = true → .pcie ∉ s.sys.stalled →
          ∃ t, exec (.perstDeassert env) s = .next t ∧ t = { s with sys := { s.sys with perst := false, ready := true, linkUp := true } }) ∧
        (s.sys.porst = false → s.sys.rails = true → s.sys.coreUp = false → s.sys.ready = false → env.wipeMismatch = [] → env.coreReady = true →
            .pcie ∉ s.sys.stalled →
          ∃ t, exec (.perstDeassert env) s = .next t ∧ t.sys.coreUp = true ∧ t.sys.ready = true ∧ t.sys.linkUp = true ∧ t.sys.optUp = true ∧
            t.spares.enabled = min 128 env.enabled ∧ (∀ n, (t.part n).shutter = .open_) ∧ t.cfg = s.cfg ∧ t.sram = s.sram))

/-- The release of PORST_N without a bank that passes its check leaves the controller in recovery mode and the core unpowered (R461); the nonce is fresh (R465). The release of PORST_N with a bank that passes, FG2-P's serial, a cool die and rails that come up powers the core: VCORE at 0.72 V with VSRAM at 0.77 V, the core up, and ready once PERST_N is deasserted (R415, R444, R472). -/
def Obligations.PorstReleaseBringsUp : Prop :=
  (∀ (s : State) (env : BootEnv), s.sys.porst = true → bankPasses s.lcs.svnMin s.lcs.bankA = false → bankPasses s.lcs.svnMin s.lcs.bankB = false →
        ∃ t, exec (.porstRelease env) s = .next t ∧ t = { s with sys := t.sys, lcs := t.lcs, draws := t.draws } ∧ t.sys.porst = false ∧
          t.sys.coreUp = s.sys.coreUp ∧ t.sys.rails = s.sys.rails ∧ t.lcs.recovery = true ∧ t.lcs.fwUp = false ∧
          t.lcs.nonce = BitVec.ofNat 128 (Config.freeValue s.draws) ∧ t.sys.halt = s.sys.haltRaw) ∧
  (∀ (s : State) (env : BootEnv), s.sys.porst = true → s.sys.ready = false →
        (bankPasses s.lcs.svnMin s.lcs.bankA = true ∨ bankPasses s.lcs.svnMin s.lcs.bankB = true) →
        env.powerSerial = s.lcs.serial.toNat → env.hot = false → env.railsUp = true → env.wipeMismatch = [] → env.coreReady = true →
        ∃ t, exec (.porstRelease env) s = .next t ∧ t.sys.porst = false ∧ t.sys.rails = true ∧ t.sys.coreUp = true ∧ t.lcs.fwUp = true ∧
          t.lcs.recovery = false ∧ (t.sys.ready = true ↔ s.sys.perst = false) ∧ t.power.code = 68 ∧ t.power.vsram = 88 ∧ (∀ n, (t.part n).shutter = .open_) ∧
          t.sys.mgmtFallback = !env.mgtClk ∧ t.cfg = s.cfg)

/-- A configuration request of a ready core completes normally (R445): the identity of a function that exists is device ID 0x0F22 or 0x0F23, its class code 0x12_00_00, and its Device Control reads what was written (R356, R357); nothing else changes. Before, each is answered Request Retry Status or finds the core ready, at a time that the model leaves open (assumption 57). The link returns where the core is ready and PERST_N deasserted, and its crossing is monitored again (R393, R441). The link leaves DL_Active (R393): the link is down, VF Enable is clear, no function is in D3hot, and the Shutter of every function that exists closes for FUNCTION_RESET. -/
def Obligations.TheHostLinkComesAndGoes : Prop :=
  (∀ (s : State) (n : Fin 16) (reg : ConfigReg) (off size : Nat) (c : DevCtl), s.sys.porst = false → s.sys.perst = false → s.sys.coreUp = true →
        .pcie ∉ s.sys.stalled →
        let read := Instr.registerRead .host (.config n reg) off size
        let write := Instr.registerWrite .host (.config n .deviceControl) off size (BitVec.ofNat 64 (devctlWord c))
        (s.sys.ready = true → s.sys.linkUp = true →
          exec .hostConfigRequest s = .next { s with out := { s.out with answer := 2 } } ∧
          (fnExists s n = true →
            (∃ t, exec write s = .next t ∧ onlyFn n { s with out := { s.out with answer := 2 } } t ∧ t.fn n = { s.fn n with devctl := c }) ∧
            ∃ t, exec read s = .next t ∧ t = { s with out := { s.out with answer := 2, readData := t.out.readData } } ∧
              (reg = .identity → t.out.readData.toNat / 2 ^ 16 = if n = 0 then 0x0F22 else 0x0F23) ∧
              (reg = .classCode → t.out.readData = 0x120000) ∧
              (reg = .deviceControl → t.out.readData = BitVec.ofNat 64 (devctlWord (s.fn n).devctl)))) ∧
        (s.sys.ready = false → ∀ r ∈ [Instr.hostConfigRequest, read, write], ∃ t, exec r s = .next t ∧
          ((t = { s with draws := s.draws + 1, out := { s.out with answer := 1 } }) ∨ (t.sys.ready = true ∧ t.sys.linkUp = true ∧ t.out.answer = 2)))) ∧
  (∀ (s : State), s.sys.ready = true → s.sys.perst = false →
        ∃ t, exec .hostLinkUp s = .next t ∧ t = { s with sys := { s.sys with linkUp := true, stalled := t.sys.stalled } } ∧
          ∀ x, x ∈ t.sys.stalled ↔ x ∈ s.sys.stalled ∧ x ≠ .pcie) ∧
  (∀ (s : State), s.sys.linkUp = true → calm s = true → (∀ n, (s.part n).shutter = .open_) →
        ∃ t, exec .hostLinkDown s = .next t ∧ t.sys.linkUp = false ∧ t.sys.vfEnable = false ∧ (∀ n, (t.fn n).d3hot = false) ∧
          ∀ n, fnExists s n = true → (t.part n).shutter = .closing ∧ (t.part n).reason = .functionReset)

/-- VF_ENABLE_SET makes the virtual functions exist, and D0_TO_D3HOT puts its function in D3hot (R391, R392); nothing else changes. A function reset of an OPEN partition closes its Shutter for FUNCTION_RESET, whether a write of FN_RESET, a Function Level Reset of a virtual function or a return from D3hot causes it (R26, R390, R392): every handle closes, the ledger is empty, each ring loses its descriptors in flight and the completions it is owed and keeps the rest of its registers until the wipe. No other partition's Shutter or plan changes. A Function Level Reset of the physical function also discards the staging image and clears VF Enable, which resets every virtual function (R391, R405). -/
def Obligations.FunctionsChangeStateAndReset : Prop :=
  (∀ (s : State) (n : Fin 16), (hostReaches s 0 = true → exec .vfEnableSet s = .next { s with sys := { s.sys with vfEnable := true } }) ∧
        (hostReaches s n = true → ∃ t, exec (.d0ToD3hot n) s = .next t ∧ onlyFn n s t ∧ t.fn n = { s.fn n with d3hot := true })) ∧
  (∀ (s : State) (n : Fin 16) (c : Instr), hostReaches s n = true → calm s = true → (s.part n).shutter = .open_ →
        (c = .fnReset n 1 ∨ (c = .functionLevelReset n ∧ n ≠ 0) ∨ (c = .d3hotToD0 n ∧ (s.fn n).d3hot = true)) →
        ∃ t, exec c s = .next t ∧ (t.part n).shutter = .closing ∧ (t.part n).reason = .functionReset ∧ (t.part n).handles = [] ∧
          (t.part n).steps = [] ∧ (t.part n).openStep = none ∧ (∀ r, t.ring n r = { s.ring n r with flights := [], owed := [] }) ∧
          (c ≠ .fnReset n 1 → (t.fn n).d3hot = false ∧ (t.fn n).devctl = Fn.reset.devctl) ∧
          ∀ m, m ≠ n → (t.part m).shutter = (s.part m).shutter ∧ (t.part m).plan = (s.part m).plan) ∧
  (∀ (s : State) (c : Instr), hostReaches s 0 = true → calm s = true → s.sys.vfEnable = true → (∀ n, (s.part n).shutter = .open_) →
        c ∈ [Instr.functionLevelReset 0, .vfEnableClear] →
        ∃ t, exec c s = .next t ∧ t.sys.vfEnable = false ∧ (∀ n, n ≠ 0 → (t.part n).shutter = .closing ∧ (t.part n).reason = .functionReset) ∧
          (c = .functionLevelReset 0 → t.cfg.staged = [] ∧ t.cfg.bad = [] ∧ (t.part 0).shutter = .closing) ∧
          (c = .vfEnableClear → t.cfg = s.cfg ∧ (t.part 0).shutter = .open_))

/-- A quiescent closure for FUNCTION_RESET goes on to its wipe, one for FAULT_FENCE without a substitution stays CLOSED, and one for SPARING without one opens again (R26, R27, R28). A wipe that ends without a mismatch takes the Shutter to OPENING (R26): basin SRAM and cistern words of the wiped range read zero and the rest stand, the function's registers are at reset but for FN_WIPE_SIG, and no sluice is the partition's. The Shutter opens (R26), and nothing else of a calm machine changes. -/
def Obligations.TheShutterClosesWipesAndOpens : Prop :=
  (∀ (s : State) (n : Fin 16), (s.part n).shutter = .closing → (s.part n).closureSpares = [] →
        ((s.part n).reason = .functionReset →
          ∃ t, exec (.shutterQuiesced n) s = .next t ∧ onlyPart n s t ∧ t.part n = { s.part n with shutter := .wiping }) ∧
        ((s.part n).reason = .faultFence → calm s = true →
          ∃ t, exec (.shutterQuiesced n) s = .next t ∧ onlyPart n s t ∧ t.part n = { s.part n with shutter := .closed }) ∧
        ((s.part n).reason = .sparing →
          ∃ t, exec (.shutterQuiesced n) s = .next t ∧ onlyPart n s t ∧ t.part n = { s.part n with shutter := .opening })) ∧
  (∀ (s : State) (n : Fin 16), (s.part n).shutter = .wiping → (s.part n).closureSpares = [] → (s.part n).fenceAfter = false → s.lcs.tokenBusy = false →
        ∃ t, exec (.wipeComplete n []) s = .next t ∧ (t.part n).shutter = .opening ∧ (t.part n).plan = none ∧ (t.part n).handles = [] ∧
          (∀ a, a < 2 ^ 29 → Sparse.get 0 t.sram a = if inRanges (s.part n).wipeRange (basinOf a) then 0 else Sparse.get 0 s.sram a) ∧
          (∀ w, getWord t w = if inRanges (s.part n).wipeRange (wordBasin w) then wordZero else getWord s w) ∧
          t.fn n = { Fn.reset with wipeSig := (t.fn n).wipeSig, d3hot := (s.fn n).d3hot, devctl := (s.fn n).devctl } ∧ (∀ m, m ≠ n → t.fn m = s.fn m) ∧
          (∀ q, (t.port q).owner ≠ some n.val)) ∧
  (∀ (s : State) (n : Fin 16), (s.part n).shutter = .opening → (s.part n).closureSpares = [] → (s.part n).fenceAfter = false →
        s.lcs.tokenBusy = false → calm s = true →
        ∃ t, exec (.shutterOpen n) s = .next t ∧ onlyPart n s t ∧ t.part n = { s.part n with shutter := .open_ })

/-- With READY set and the window's partitions OPEN, a transaction is served (R413, R445): a write leaves every window byte outside it as it was, reads back in order, and touches no other memory; a read gives the bytes and changes none. Before READY every transaction is answered NOT_READY and changes nothing (R445). -/
def Obligations.TransomTransactions : Prop :=
  (∀ (s : State) (a : Nat), Memory.wf s = true → s.sys.d2dReady = true → (∀ n, (s.part n).shutter = .open_) →
        (∀ bs : List Byte, a + bs.length ≤ 2 ^ 44 →
          ∃ t, exec (.transomTransaction ⟨a, bs.length, some bs⟩) s = .next t ∧ t = { s with transom := t.transom, out := t.out } ∧ t.out.answer = 5 ∧
            (∀ i, i < bs.length → Sparse.get 0 t.transom (a + i) = bs.getD i 0) ∧
            (∀ x, (x < a ∨ a + bs.length ≤ x) → Sparse.get 0 t.transom x = Sparse.get 0 s.transom x)) ∧
        (∀ len, a + len ≤ 2 ^ 44 →
          ∃ t, exec (.transomTransaction ⟨a, len, none⟩) s = .next t ∧ t = { s with out := t.out } ∧ t.out.answer = 5 ∧ t.out.bytes.length = len ∧
            ∀ i, i < len → t.out.bytes.getD i 0 = Sparse.get 0 s.transom (a + i))) ∧
  (∀ (s : State) (x : Transaction), s.sys.d2dReady = false →
        exec (.transomTransaction x) s = .next { s with out := { s.out with answer := 3, bytes := [] } })

/-- An enabled module whose crossing is out of reset trains, by itself or at a retry that is answered, and READY follows the first (R444, R445); nothing else changes. A stalled MGMT or Transom crossing (R439): it is held in reset and, where the core is up, counted and named in CDC_STALL_LAST with EVT_STATUS.CDC_STALL latched. The MGMT port falls back to its own clock; a Transom module is no longer trained. Reset releases a crossing once both sides report it (R441), and an empty crossing takes the mode that CDC_MODE asks for (R437); each changes that alone. -/
def Obligations.CrossingsTrainStallAndReturn : Prop :=
  (∀ (s : State) (m : Fin 16) (c : Instr), c ∈ [Instr.transomModuleTrained m, .transomRetrain m true] → s.sys.coreUp = true →
        (s.force 0x40000).getLsbD m.val = true → .transom m ∉ s.sys.stalled →
        exec c s = .next { s with sys := { s.sys with d2dTrained := s.sys.d2dTrained ||| 2 ^ m.val, d2dReady := true } }) ∧
  (∀ (s : State), s.sys.coreUp = true → (∀ n, quiet s n = true) →
        (monitored s .mgmt = true → .mgmt ∉ s.sys.stalled →
          ∃ t, exec (.cdcStall .mgmt) s = .next t ∧ t.sys.mgmtFallback = true ∧ t.sys.stalled = s.sys.stalled ++ [.mgmt] ∧ t.sys.stallClass = 4 ∧
            t.sys.stallIndex = 0 ∧ t.sys.stallCount = min 65535 (s.sys.stallCount + 1) ∧ t.evtStatus = s.evtStatus ||| 2 ^ 3 ∧ t.ports = s.ports ∧
            t.parts = s.parts ∧ t.cfg = s.cfg) ∧
        (∀ (m : Fin 16), monitored s (.transom m) = true → .transom m ∉ s.sys.stalled →
          ∃ t, exec (.cdcStall (.transom m)) s = .next t ∧ t.sys.d2dTrained.testBit m.val = false ∧ t.sys.stalled = s.sys.stalled ++ [.transom m] ∧
            (∀ k : Fin 16, k ≠ m → t.sys.d2dTrained.testBit k.val = s.sys.d2dTrained.testBit k.val) ∧ t.sys.stallClass = 2 ∧ t.sys.stallIndex = m.val ∧
            t.sys.stallCount = min 65535 (s.sys.stallCount + 1) ∧
            t.evtStatus = s.evtStatus ||| 2 ^ 3 ∧ t.ports = s.ports ∧ t.parts = s.parts ∧ t.cfg = s.cfg)) ∧
  (∀ (s : State) (x : Crossing),
        (∃ t, exec (.crossingRelease x) s = .next t ∧ t = { s with sys := { s.sys with stalled := t.sys.stalled } } ∧
          ∀ y, y ∈ t.sys.stalled ↔ y ∈ s.sys.stalled ∧ y ≠ x) ∧
        (x ∈ s.sys.modePending → ∃ t, exec (.crossingDrained x) s = .next t ∧
          t = { s with sys := { s.sys with modePending := t.sys.modePending, compat := t.sys.compat } } ∧ x ∉ t.sys.modePending ∧
          (x ∈ t.sys.compat ↔ wantsCompat s x = true) ∧ ∀ y, y ≠ x → ((y ∈ t.sys.compat ↔ y ∈ s.sys.compat) ∧ (y ∈ t.sys.modePending ↔ y ∈ s.sys.modePending))))

/-- An accepted change of HALT_IN sets HALT_IN and its counts (R446): the accepted count by one for a level that moves, the coalesced count by the changes that the dwell absorbed; where no STEP_OPEN waits for its release, nothing else changes. TAP_RESET resets the TAP and the die wrapper alone (R440). -/
def Obligations.HaltInAndTapReset : Prop :=
  (∀ (s : State) (level : Bool) (k : Nat), s.sys.porst = false → s.sys.coreUp = true → (s.sys.halt = true → level = false → calm s = true) →
        exec (.haltInChange level k) s = .next { s with sys := { s.sys with
          haltRaw := level, halt := level, haltAccepted := min 65535 (s.sys.haltAccepted + if level = s.sys.halt then 0 else 1),
          haltCoalesced := min 65535 (s.sys.haltCoalesced + k) } }) ∧
  (∀ s : State, exec .tapReset s = .next { s with sys := { s.sys with tapReset := true } })

/-! ### Power -/

/-- THERMAL_EMERGENCY at or above EMERG_C (R425): VCORE falls by 16 codes, to code 20 at the lowest, with VSRAM lowered after it (R415), LIMIT shows EMERGENCY, the emergency is counted and EVT_STATUS.THERM_EMERG latched; each further EMERGENCY_STEP falls again, and EMERGENCY_END under the hysteresis leaves VCORE where it is. POWER_SAMPLE takes the readings (R423, R424): they join the window, the maximum and the mean of the 48 sensors are shown, 10 µs pass at the condition in force and the energy is counted; PL_FAULT_N follows the phases, the input and what FG2-P reports (R416, R417). Where the current is within its limit and no idle partition lets the manager act, VCORE stands. SENTINEL_MEASURE takes the reading of a sentinel beside an idle basin (R428); with no basin drifted beyond its taps by more than 0.5 % nothing is re-planned (R429). -/
def Obligations.EmergenciesAndSamples : Prop :=
  (∀ (s : State) (tj : Nat), s.sys.rails = true →
        let c := if s.power.code ≤ 20 then s.power.code else max 20 (s.power.code - 16)
        let fallen : Power := { s.power with
          code := c, vsram := vsramOf c, frames := s.power.frames ++ (if s.power.code ≤ 20 then [] else [(false, c), (true, vsramOf c)]),
          target := c, limit := 4, tjMax := tj, emergency := true }
        (s.power.emergency = false → tempCode (emergC s) ≤ tj →
          ∃ t, exec (.thermalEmergency tj) s = .next t ∧ t = { s with power := t.power, evtStatus := s.evtStatus ||| 2 ^ 2 } ∧
            t.power = { fallen with counters := bump s.power.counters 8 1 }) ∧
        (s.power.emergency = true → tempCode (emergC s) ≤ tj → exec (.emergencyStep tj) s = .next { s with power := fallen }) ∧
        (s.power.emergency = true → tj < tempCode (emergC s - hystC s) →
          ∃ t, exec (.emergencyEnd tj) s = .next t ∧ t = { s with power := { s.power with emergency := false, limit := t.power.limit, tjMax := tj } })) ∧
  (∀ (s : State) (m : PowerMeas), s.sys.porst = false → s.sys.rails = true → s.sys.rampWait = none → idleOwner s = false → s.power.limit < 7 →
        withinCurrent (takeReadings s m) s.power.code = true →
        ∃ t, exec (.powerSample m) s = .next t ∧ t = { s with power := t.power } ∧ t.power.code = s.power.code ∧ t.power.measCode = s.power.code ∧
          t.power.window.head? = some ⟨m.die, m.input, maxOf m.sensors⟩ ∧ t.power.tjMax = maxOf m.sensors ∧ t.power.tjMean = meanOf m.sensors ∧
          (t.power.plFault = true ↔ m.phases < 24 ∨ m.overcurrent = true ∨ m.stageHot = true ∨ m.vin < 1520 ∨ 2480 < m.vin) ∧ t.power.vin = m.vin ∧
          t.power.iin = m.iin ∧ t.power.amps = m.amps ∧ t.power.phases = min 24 m.phases ∧ t.power.microJ = s.power.microJ + m.die ∧
          getV t.power.counters 0 = t.power.microJ / 1000 ∧
          getV t.power.counters (1 + s.power.limit) = (getV s.power.counters (1 + s.power.limit) + 10) % 2 ^ 64) ∧
  (∀ (s : State) (i v : Nat), i < 64 → v < 2 ^ 16 → managerRuns s = true → Sparse.wf 0 s.power.sentinels = true →
        (∀ e ∈ s.drains, e.1 ≠ Config.sentinelBasin i) →
        let now := fun j => if j = i then v else Sparse.get 0 s.power.sentinels j
        (∀ b, b < min 128 s.spares.enabled → max (now (Config.nearSentinels b).1) (now (Config.nearSentinels b).2) ≤ coveredOf s b + 50) →
        ∃ t, exec (.sentinelMeasure [(i, v)]) s = .next t ∧ t = { s with power := t.power, draws := s.draws + 1 } ∧
          (∀ j, Sparse.get 0 t.power.sentinels j = now j) ∧ t.power.code = s.power.code ∧
          t.power.replan = s.power.replan ∧ t.power.offset = s.power.offset ∧ t.power.nextOffset = s.power.nextOffset ∧ getV t.power.counters 10 = (getV s.power.counters 10 + 1) % 2 ^ 64)

/-- PHASE_FAULT asserts PL_FAULT_N and lowers VCORE only where its current exceeds 100 A a phase in service beyond two (R417): it never rises, and within the limit it stands. Faults that stop the core (R416, R417, R426): the rails go down with the core's memories, functions, sluices, spares and, where no LCS_TOKEN waits, partitions; the committed PWR values stay and come into force; the RAS log stands; and the cause is recorded, 4 for the supply and 3 for the thermal trip; PL_FAULT_N stands after a fault of the supply, the trip after THERMTRIP. VIN_LOW takes the input voltage between 38 and 40 V (R416); where no idle partition lets the manager act, nothing else changes. FIRMWARE_STOP stops the manager alone (R13). -/
def Obligations.SupplyFaults : Prop :=
  (∀ (s : State) (k : Nat), s.sys.rails = true →
        ∃ t, exec (.phaseFault k) s = .next t ∧ t = { s with power := t.power } ∧ t.power.phases = min 24 k ∧ t.power.plFault = true ∧
          t.power.code ≤ s.power.code ∧ (t.power.code = s.power.code ∨ t.power.limit = 6) ∧ (0 < t.power.code → withinCurrent t t.power.code = true)) ∧
  (∀ (s : State) (c : Instr), s.sys.rails = true → s.sys.porst = false → c ∈ [Instr.vcoreUndervoltage, .inputFault, .thermtrip] →
        ∃ t, exec c s = .next t ∧ t = { State.reset with
            pending := s.pending, transom := s.transom, host := s.host, out := s.out, draws := t.draws, ras := s.ras, rasOverflow := s.rasOverflow,
            parts := t.parts, cfg := { Cfg.reset with committed := t.cfg.committed, force := t.cfg.force }, power := t.power, mbx := t.mbx, lcs := t.lcs,
            slots := t.slots, sys := t.sys } ∧
          (s.lcs.tokenBusy = false → ∀ n, t.part n = { Part.reset with shutter := .closed }) ∧
          (∀ off, off / 0x10000 = 2 → regGet t.cfg.committed off = regGet s.cfg.committed off ∧ t.force off = regGet s.cfg.committed off) ∧
          (∀ off, off / 0x10000 ≠ 2 → regGet t.cfg.committed off = resetValue off ∧ t.force off = resetValue off) ∧
          t.sys.rails = false ∧ t.sys.coreUp = false ∧ t.sys.ready = false ∧ t.sys.linkUp = false ∧ t.power.code = 0 ∧ t.power.vsram = 0 ∧
          if c = .thermtrip then t.sys.cause = 3 ∧ t.sys.trip = true ∧ t.power.plFault = false else t.sys.cause = 4 ∧ t.power.plFault = true) ∧
  (∀ (s : State) (vin : Nat),
        (s.sys.rails = true → 1520 ≤ vin → vin < 1600 → idleOwner s = false → exec (.vinLow vin) s = .next { s with power := { s.power with vin := vin } }) ∧
        exec .firmwareStop s = .next { s with lcs := { s.lcs with fwUp := false } })

/-! ### Sluices -/

/-- A codeword on a lane in the rotation of a sluice that is up, with nothing waiting to be sent (R270, R271, R281): the next expected DATA flit without NAK clears NAK, counts EXPECTED on, returns its credits and takes its body; a codeword that cannot be corrected, a wrong FCRC or a reserved FTYPE sets NAK and takes nothing, and uncorrectable codewords are counted. Only the sluice changes. An ACK frees the retry buffer up to its flit and clears the resend count (R281); the flits behind it stay in order. -/
def Obligations.FlitsAndAcks : Prop :=
  (∀ (s : State) (q : Fin 24) (cw : Codeword), linkUp (s.port q) = true → (s.port q).rx.uses cw.lane.val = true →
        (s.port q).waiting = [] → (s.port q).txRest = [] →
        let p := s.port q
        let f := cw.flit
        (cw.corrected = 0 → flitGood f = true → flitType f = 1 → flitNak f = false → (∀ x ∈ p.retry, x.fseq ≠ flitAck f) → flitFseq f = p.expected →
          ∃ t, exec (.flitReceived q cw) s = .next t ∧ onlyPort q s t ∧ sameButLine { takeBody p f with
            rxSlot := p.rxSlot + (cw.tag.val + 16 - p.rxSlot % 16) % 16, lastNak := none, expected := (p.expected + 1) % 4096, nak := false,
            credits := addCredits (addCredits p.credits (flitCredA f).1 (flitCredA f).2) (flitCredB f).1 (flitCredB f).2 } (t.port q)) ∧
        (cw.corrected = 0 → flitGood f = false →
          ∃ t, exec (.flitReceived q cw) s = .next t ∧ onlyPort q s t ∧ sameButLine { p with
            nak := true, lostFlits := p.lostFlits + 1, counters := if p.nak then p.counters else bump p.counters 1 1 } (t.port q)) ∧
        (15 < cw.corrected →
          ∃ t, exec (.flitReceived q cw) s = .next t ∧ onlyPort q s t ∧ sameButLine { p with
            nak := true, lostFlits := p.lostFlits + 1, counters := if p.nak then bump p.counters 3 1 else bump (bump p.counters 3 1) 1 1 } (t.port q))) ∧
  (∀ (s : State) (q : Fin 24) (before after : List DataFlit) (f : DataFlit), (s.port q).waiting = [] → (s.port q).txRest = [] →
        (s.port q).retry = before ++ f :: after → (∀ x ∈ before, x.fseq ≠ f.fseq) →
        onlyPort q s (ackTo s q f.fseq) ∧ sameButLine { s.port q with retry := after, resends := 0 } ((ackTo s q f.fseq).port q))

/-- A NAK that has not been acted on, and an expired ACK timer, send the retry buffer again in its order behind what was sent before (R282), up to the sixteenth time; only the sluice changes. -/
def Obligations.TheRetryBufferIsSentAgain : Prop :=
  ∀ (s : State) (q : Fin 24) (ack : Nat), linkUp (s.port q) = true → (s.port q).retry ≠ [] → (s.port q).resends < 16 →
    let p := s.port q
    ((∀ x ∈ p.retry, x.fseq ≠ ack % 4096) → p.lastNak ≠ some (ack % 4096) →
      ∃ t, exec (.nakReceived q ack) s = .next t ∧ onlyPort q s t ∧ dataSent (t.port q).line = dataSent p.line ++ p.retry ∧ sameButLine { p with
        lastNak := some (ack % 4096), resends := p.resends + 1, counters := bump p.counters 0 p.retry.length } (t.port q)) ∧
    (∃ t, exec (.ackTimeout q) s = .next t ∧ onlyPort q s t ∧ dataSent (t.port q).line = dataSent p.line ++ p.retry ∧ sameButLine { p with
      resends := p.resends + 1, counters := bump p.counters 0 p.retry.length } (t.port q))

/-- A STATE flit on a TRAINED sluice that does not ask to join, with no command, report or retry in it, sets the partner's identity, flags, beacon and codeword count and returns credits (R272); only the sluice changes. The running core increments the BEACON of every sluice (R221); nothing else changes. A beacon sample (R291): no change since the last is a miss and counted, the fourth in a row makes the peer suspect; a change clears the misses. Without an owner only the sluice changes. The 1 ms windows of R284 end with it (the model's choice, assumption 54). -/
def Obligations.IdentityAndBeacons : Prop :=
  (∀ (s : State) (q : Fin 24) (cw : Codeword), (s.port q).st = .trained → (s.port q).joinReq = false → (s.port q).waiting = [] →
        (s.port q).txRest = [] → (s.port q).rx.uses cw.lane.val = true → cw.corrected = 0 →
        let p := s.port q
        let f := cw.flit
        let b := flitState f
        flitGood f = true → flitType f = 2 → flitNak f = false → (∀ x ∈ p.retry, x.fseq ≠ flitAck f) → b.fault = none → b.laneCmd = none →
        ∃ t, exec (.stateFlitReceived q cw) s = .next t ∧ onlyPort q s t ∧ sameButLine { p with
          partnerRank := b.rank, partnerPort := b.port, partnerDom := b.domain, partnerPlan := b.hasPlan, partnerOwned := b.owned,
          partnerTrained := b.trained, partnerJoin := b.joinReq, partnerBeacon := b.beacon, rxSlot := b.cwcount, stateSeen := true, lastNak := none,
          credits := addCredits (addCredits p.credits (flitCredA f).1 (flitCredA f).2) (flitCredB f).1 (flitCredB f).2 } (t.port q)) ∧
  (∀ (s : State), s.sys.coreUp = true →
        ∃ t, exec .beaconTick s = .next t ∧ t = { s with ports := t.ports } ∧ ∀ q, t.port q = { s.port q with beacon := ((s.port q).beacon + 1) % 256 }) ∧
  (∀ (s : State) (q : Fin 24), (s.port q).st ≠ .dark → (s.port q).owner = none →
        let p := s.port q
        ∃ t, exec (.beaconSample q) s = .next t ∧ onlyPort q s t ∧
          (p.partnerBeacon = p.sampledBeacon → sameButLine { p with
            misses := p.misses + 1, counters := bump p.counters 6 1, suspect := p.suspect || decide (4 ≤ p.misses + 1),
            weak := Vector.replicate 9 0 } (t.port q)) ∧
          (p.partnerBeacon ≠ p.sampledBeacon → sameButLine { p with
            misses := 0, sampledBeacon := p.partnerBeacon, suspect := false, weak := Vector.replicate 9 0 } (t.port q)))

/-- A receive lane that fails or degrades while the width holds (R284, R285): its physical lane is marked, FAULT reports the logical lane and counts, and a failed lane leaves the rotation at once while a degraded one stays; only the sluice changes. A REMOVE command takes effect at its slot while the width holds (R285): the logical lane leaves the rotation of its direction and the commands behind it stand in order; only the sluice changes. -/
def Obligations.LanesFailAndAreRemoved : Prop :=
  (∀ (s : State) (q : Fin 24) (u : Fin 9) (l : Nat), linkUp (s.port q) = true → (s.port q).rx.onUnit .electrical u.val = some l →
        (s.port q).rx.isBad .electrical u.val = false →
        let p := s.port q
        let auto := (portCtl s q).getLsbD 1
        let cap := maxWidth (portCtl s q)
        let gone := (p.rx.mark .electrical u.val).drop l
        let weak := p.rx.mark .electrical u.val
        (getV p.rx.lanes l ≠ 0xF → gone.target auto cap ≠ 0 → p.rx.width ≤ gone.target auto cap →
          ∃ t, exec (.laneFailed q u .electrical) s = .next t ∧ onlyPort q s t ∧ sameButLine { p with
            rx := gone, fault := some (l, .electrical), faultCount := (p.faultCount + 1) % 256 } (t.port q)) ∧
        (weak.target auto cap ≠ 0 → p.rx.width ≤ weak.target auto cap →
          ∃ t, exec (.laneDegraded q u) s = .next t ∧ onlyPort q s t ∧ sameButLine { p with
            rx := weak, fault := some (l, .electrical), faultCount := (p.faultCount + 1) % 256 } (t.port q))) ∧
  (∀ (s : State) (q : Fin 24) (c : LaneCmd) (rest : List LaneCmd), c.add = false →
        let p := s.port q
        let auto := (portCtl s q).getLsbD 1
        let cap := maxWidth (portCtl s q)
        let tx : Dir := { p.tx.drop c.lane with cmds := nextCmds p.slot rest }
        let rx : Dir := { p.rx.drop c.lane with cmds := rest }
        (p.tx.cmds = c :: rest → tx.target auto cap ≠ 0 → tx.width ≤ tx.target auto cap →
          ∃ t, exec (.laneCmdEffective q true) s = .next t ∧ onlyPort q s t ∧
            sameButLine { p with tx := { tx with cmds := (t.port q).tx.cmds } } (t.port q) ∧ tx.cmds <+: (t.port q).tx.cmds) ∧
        (p.rx.cmds = c :: rest → rx.target auto cap ≠ 0 → rx.width ≤ rx.target auto cap →
          ∃ t, exec (.laneCmdEffective q false) s = .next t ∧ onlyPort q s t ∧ sameButLine { p with rx := rx } (t.port q)))

/-- The training sequence (R289): a SEEKING sluice sends bursts, a partner takes it to TRAINING, and a timeout back to SEEKING; a quarantine ends with no flaps and its engine lit (R287, R292). Only the sluice changes. TRAINING_COMPLETE (R264, R289): with the partner's STATE flit the sluice is TRAINED, logical lane l runs on physical lane and wavelength l up to MAX_WIDTH, its sequence counters are zero, and the partner's identity is known; only the sluice changes where no PORT_JOIN waits for it. -/
def Obligations.TrainingMovesAndMapsThePort : Prop :=
  (∀ (s : State) (q : Fin 24), .sluiceTx q ∉ s.sys.stalled → .sluiceRx q ∉ s.sys.stalled →
        ((s.port q).st = .seeking →
          (∃ t, exec (.trainingWindow q) s = .next t ∧ onlyPort q s t ∧ t.port q = { s.port q with burst := !(s.port q).burst }) ∧
          (∃ t, exec (.partnerDetected q) s = .next t ∧ onlyPort q s t ∧ t.port q = { s.port q with st := .training, burst := false })) ∧
        ((s.port q).st = .training →
          ∃ t, exec (.trainingTimeout q) s = .next t ∧ onlyPort q s t ∧ t.port q = { s.port q with st := .seeking }) ∧
        ((s.port q).st = .quarantined →
          ∃ t, exec (.quarantineEnd q) s = .next t ∧ onlyPort q s t ∧ t.port q = { s.port q with
            st := .seeking, flaps := 0, quarLeft := 0, dark := false,
            engine := (s.port q).engine ++ if (s.port q).dark && (s.port q).present then [[4, 0]] else [] })) ∧
  (∀ (s : State) (q : Fin 24) (f : Flit), (s.port q).st = .training → (s.port q).rejoin = none → flitGood f = true → flitType f = 2 →
        (∀ n r, ∀ d ∈ (s.ring n r).flights, dOpcode d.d ≠ 0x51) →
        ∃ t, exec (.trainingComplete q f) s = .next t ∧ onlyPort q s t ∧ (t.port q).st = .trained ∧ (t.port q).valid = true ∧
          (t.port q).partnerRank = (flitState f).rank ∧ (t.port q).partnerDom = (flitState f).domain ∧ (t.port q).nextFseq = 0 ∧ (t.port q).expected = 0 ∧
          (t.port q).pseqTx = Vector.replicate 4 0 ∧ (t.port q).pseqRx = Vector.replicate 4 0 ∧
          (t.port q).vlbuf = s.force (0x30000 + 0x800 * q.val + 0xC) ∧
          ∀ l, l < 8 → getV (t.port q).tx.lanes l = (if l < maxWidth (portCtl s q) then l else 0xF) ∧
            getV (t.port q).rx.wls l = (if l < maxWidth (portCtl s q) then l else 0xF))

/-- OPT_POLL and a due OPT_INT sweep read each engine's STATUS (R287, R447): an engine that answers without faults counts no miss, and one that does not answer counts one, the third taking its port DOWN. OPT_STUCK ignores an input that stays asserted, and OPT_INT_DEASSERT ends that (R447); nothing else changes. -/
def Obligations.OpticalEnginesAreWatched : Prop :=
  (∀ (s : State) (q : Fin 24), s.sys.porst = false → s.sys.optUp = true → (s.port q).present = true →
        (∃ t, exec (.optPoll [⟨q, true, 0, 0⟩]) s = .next t ∧ onlyPort q s t ∧ sameButLine { s.port q with engineMiss := 0 } (t.port q)) ∧
        ((s.port q).engineMiss < 2 →
          ∃ t, exec (.optPoll [⟨q, false, 0, 0⟩]) s = .next t ∧ onlyPort q s t ∧ sameButLine { s.port q with engineMiss := (s.port q).engineMiss + 1 } (t.port q)) ∧
        (s.sys.optStuck = false → s.sys.optPending = false →
          (∃ t, exec (.optIntAssert true [⟨q, true, 0, 0⟩]) s = .next t ∧ sameButLine { s.port q with engineMiss := 0 } (t.port q) ∧ t.sys = { s.sys with
            optInt := true, optAsserts := min 65535 (s.sys.optAsserts + 1), optSweeps := min 65535 (s.sys.optSweeps + 1) } ∧
            (∀ m, m ≠ q → t.port m = s.port m) ∧ t = { s with ports := t.ports, sys := t.sys }) ∧
          exec (.optIntAssert false []) s = .next { s with sys := { s.sys with
            optInt := true, optAsserts := min 65535 (s.sys.optAsserts + 1), optPending := true } })) ∧
  (∀ (s : State), (s.sys.optInt = true → s.sys.porst = false → exec .optStuck s = .next { s with sys := { s.sys with optStuck := true } }) ∧
        exec .optIntDeassert s = .next { s with sys := { s.sys with optInt := false, optStuck := false } })

/-- The oldest parcel of a virtual lane in the receive buffer, good after what the buffers have done to its bytes, counts its PSEQ on (R278). On a sluice that no partition owns, or one whose Shutter is not OPEN, it is discarded with its credits given back; a COLLECTIVE parcel of a later epoch waits (R216). Only the sluice changes. A parcel whose CRC-32C, PTYPE, virtual lane or length is wrong is discarded and reported in PFAIL (R278, R279), with its PSEQ counted on and the credits of its place in the buffer given back; PARCEL_CRC goes to the event ring. -/
def Obligations.ParcelsAreCountedAndJudged : Prop :=
  (∀ (s : State) (q : Fin 24) (vl : Fin 4) (us : List (Nat × Byte)) (x0 : Parcel), (s.port q).st = .joined →
        (s.port q).rxbuf.find? (fun x => parcelVl x == vl.val) = some x0 →
        let x := Machine.Parcel.upset x0 us
        let counted : Port := { s.port q with
          rxbuf := (s.port q).rxbuf.erase x0, pseqRx := setV (s.port q).pseqRx vl.val ((getV (s.port q).pseqRx vl.val + 1) % 65536),
          counters := bump (s.port q).counters 14 1 }
        parcelBad x = false →
        ((∀ o, (s.port q).owner = some o → (s.part (fin16 o)).shutter ≠ .open_) →
          ∃ t, exec (.parcelReceived q ⟨vl, us⟩) s = .next t ∧ onlyPort q s t ∧ sameButLine { counted with counters := bump counted.counters 12 1 } (t.port q) ∧
            ∀ v, creditsGiven (t.port q) v = creditsGiven (s.port q) v + if v = parcelVl x then parcelCredits (parcelLen x) else 0) ∧
        (∀ (o : Nat) (tab : PlaneTable), (s.port q).owner = some o → (s.part (fin16 o)).shutter = .open_ → planeTable (s.part (fin16 o)) = some tab →
          xPtype x = 0 → xKind x ≤ 3 → edgeMismatch tab q x = false → (s.part (fin16 o)).epoch < xEpoch x → noneHeld s = true →
          ∃ t, exec (.parcelReceived q ⟨vl, us⟩) s = .next t ∧ onlyPort q s t ∧
            sameButLine { counted with held := [x], counters := bump counted.counters 10 1 } (t.port q) ∧
            ∀ v, creditsGiven (t.port q) v = creditsGiven (s.port q) v)) ∧
  (∀ (s : State) (q : Fin 24) (vl : Fin 4) (us : List (Nat × Byte)) (x : Parcel), (s.port q).st = .joined →
        (s.port q).rxbuf.find? (fun x => parcelVl x == vl.val) = some x → parcelBad (Machine.Parcel.upset x us) = true → (s.port q).owner = none →
        let p := s.port q
        let k := getV p.pseqRx vl.val
        ∃ t, exec (.parcelReceived q ⟨vl, us⟩) s = .next t ∧ t = { s with ports := t.ports, fns := t.fns, host := t.host, out := t.out } ∧
          (∀ m, m ≠ q → t.port m = s.port m) ∧ (∀ m, m ≠ 0 → t.fn m = s.fn m) ∧ sameButLine { p with
            rxbuf := p.rxbuf.erase x, pfail := some (vl.val, k), pseqRx := setV p.pseqRx vl.val ((k + 1) % 65536), counters := bump p.counters 7 1 } (t.port q) ∧
          ∀ v, creditsGiven (t.port q) v = creditsGiven p v + if v = vl.val then parcelCredits (parcelLen x) else 0)

/-- A sluice in LEAVING whose parcels are all verified goes to TRAINED with LEAVE (R295); where no descriptor of it runs, only the sluice changes. PORT_JOIN runs until the sluice joins (R294): on a TRAINED sluice whose partner does not ask yet it asks, and on one not yet TRAINED it waits. PORT_LEAVE takes a JOINED sluice to LEAVING (R295). Nothing changes but the ring, the sluice's state and what its transmitter sends. The timer of a waiting PORT_JOIN ends it TIMEOUT, and the sluice asks no longer (R294); nothing else changes but what its transmitter sends. -/
def Obligations.PortsJoinAndLeave : Prop :=
  (∀ (s : State) (q : Fin 24), (s.port q).st = .leaving → (s.port q).unverified = [] → (s.port q).waiting = [] → (s.port q).retry = [] →
        (∀ n, quiet s n = true) →
        ∃ t, exec (.portLeaveDrained q) s = .next t ∧ onlyPort q s t ∧ (t.port q).st = .trained ∧ (t.port q).leave = true ∧
          (t.port q).credits = Vector.replicate 4 0 ∧ (t.port q).owner = (s.port q).owner) ∧
  (∀ (s : State) (n : Fin 16) (r : Fin 8) (d : Desc) (q : Fin 24), mayIssue s n r = true → quiet s n = true → pjPort d = q.val →
        (dOpcode d = 0x51 → evaluate s n r d (checkPortJoin s n d) = none → (s.port q).partnerJoin = false →
          ∃ t u, exec (.portJoin n r d) s = .next t ∧ onlyRing n r s u ∧ onlyPort q u t ∧
            t.ring n r = took (s.ring n r) (newFlight s n r d .running .none) ∧
            sameButLine (if (s.port q).st = .trained then { s.port q with joinReq := true, leave := false, rejoin := none } else s.port q) (t.port q)) ∧
        (dOpcode d = 0x52 → evaluate s n r d (checkPortLeave s n d) = none →
          ∃ t u, exec (.portLeave n r d) s = .next t ∧ onlyRing n r s u ∧ onlyPort q u t ∧
            t.ring n r = took (s.ring n r) (newFlight s n r d .running .none) ∧ sameButLine { s.port q with st := .leaving } (t.port q))) ∧
  (∀ (s : State) (n : Fin 16) (r : Fin 8) (q : Fin 24) (f : Flight), (s.ring n r).flights = [f] → dOpcode f.d = 0x51 → fld f.d 8 0 5 = q.val →
        f.phase = .running → (∀ m k, (m, k) ≠ (n, r) → ∀ g ∈ (s.ring m k).flights, dOpcode g.d ≠ 0x51) →
        ∃ t u, exec (.portJoinTimeout q) s = .next t ∧ onlyRing n r s u ∧ onlyPort q u t ∧
          t.ring n r = { s.ring n r with flights := [{ f with phase := .done, status := 0x08, detail := 0 }] } ∧
          sameButLine { s.port q with joinReq := false } (t.port q))

/-! ### Descriptors: issue and retirement -/

/-- NOP ends OK at its issue (R374); nothing but its ring changes. A ring that may not issue takes no descriptor of any row, whatever fault its work would meet: nothing changes (R23, R364, R372, R373). A descriptor whose opcode R368 does not define is rejected BAD_OPCODE whatever row carries it (R369): it retires at once, its completion is written in its slot with byte 12 naming offset 0 (R380, R381), and nothing but its ring, its completion and the messages sent changes. -/
def Obligations.NopAndUndefinedOpcodesEndAtIssue : Prop :=
  (∀ (s : State) (n : Fin 16) (r : Fin 8) (d : Desc), mayIssue s n r = true → dOpcode d = 0x00 → evaluate s n r d none = none → quiet s n = true →
        ∃ t, exec (.nop n r d) s = .next t ∧ onlyRing n r s t ∧ t.ring n r = took (s.ring n r) (newFlight s n r d .done .none)) ∧
  (∀ (s : State) (n : Fin 16) (r : Fin 8) (d : Desc) (x : UnitFault) (c : Instr), mayIssue s n r = false → c ∈ descriptorRows n r d x → exec c s = .next s) ∧
  (∀ (s : State) (n : Fin 16) (r : Fin 8) (d : Desc) (x : UnitFault) (c : Instr), Memory.wf s = true → mayIssue s n r = true →
        dOpcode d ∉ definedOpcodes → quiet s n = true → c ∈ descriptorRows n r d x →
        let y := s.ring n r
        let slot := y.cbase.toNat + 32 * (y.issue % depthOf y.ctl)
        slot + 32 ≤ 2 ^ 64 →
        ∃ t, exec c s = .next t ∧ t = { s with host := t.host, fns := t.fns, out := t.out } ∧ (∀ m, m ≠ n → t.fn m = s.fn m) ∧
          (∀ q, q ≠ r → t.ring n q = s.ring n q) ∧ (t.ring n r).flights = [] ∧ (t.ring n r).issue = (y.issue + 1) % 2 ^ 32 ∧
          (t.ring n r).retired = (y.retired + 1) % 2 ^ 64 ∧
          (∀ i, i < 32 → Sparse.get 0 t.host (slot + i) = (completionBytes y.issue 0x01 (dOpcode d) y.openStep 0).getD i 0) ∧
          (∀ a, (a < slot ∨ slot + 32 ≤ a) → Sparse.get 0 t.host a = Sparse.get 0 s.host a))

/-- In D3hot a function's rings issue nothing and its doorbells are dropped; a transition from D3hot to D0 performs a function reset, the one that a write of FN_RESET performs (R392). -/
def Obligations.D3hotHoldsTheFunction : Prop :=
  ∀ (s : State) (n : Fin 16), (s.fn n).d3hot = true →
    (∀ (r : Fin 8) (d : Desc) (x : UnitFault) (c : Instr), c ∈ descriptorRows n r d x → exec c s = .next s) ∧
    (∀ (r : Fin 8) (v : Word), hostReaches s n = true → (s.part n).shutter = .open_ → exec (.doorbell n r 0 4 v) s = .next s) ∧
    (hostReaches s n = true → exec (.d3hotToD0 n) s = exec (.fnReset n 1) (s.modFn n fun f => { f with devctl := Fn.reset.devctl, d3hot := false }))

/-- A FENCE whose awaited completion has been written ends OK at its issue, and any other waits and holds its ring (R372); nothing but its ring changes. The timer of a waiting FENCE outside a step ends it TIMEOUT (R372); a TMO of zero never expires. Nothing but its ring changes. -/
def Obligations.FencesHoldAndEnd : Prop :=
  (∀ (s : State) (n : Fin 16) (r : Fin 8) (d : Desc), mayIssue s n r = true → dOpcode d = 0x01 → enabled (s.ring n (fin8 (fld d 8 0 3))).ctl = true →
        evaluate s n r d none = none → quiet s n = true →
        ∃ t, exec (.fence n r d) s = .next t ∧ onlyRing n r s t ∧
          t.ring n r = took (s.ring n r) (newFlight s n r d (if fenceMet s n d then .done else .running) .none) ∧
          (fenceMet s n d = false → mayIssue t n r = false)) ∧
  (∀ (s : State) (n : Fin 16) (r : Fin 8) (f : Flight), (s.ring n r).flights = [f] → dOpcode f.d = 0x01 → f.phase = .running → f.step = none →
        fenceMet s n f.d = false → (∀ k, k ≠ r → (s.ring n k).flights = []) → (s.part n).traps = [] →
        ∃ t, exec (.fenceTimeout n r) s = .next t ∧ onlyRing n r s t ∧
          (t.ring n r).flights = [if fld f.d 16 0 16 = 0 then f else { f with phase := .done, status := 0x08, detail := 0 }])

/-- An accepted array descriptor begins to run (R89, R174): it takes its ring's next slot, and with HOLD it records its sump tile (R96); its units begin by ARRAY_UNIT_BEGIN. Nothing but its ring and the partition's tiles changes. -/
def Obligations.ArrayDescriptorsBeginToRun : Prop :=
  ∀ (s : State) (n : Fin 16) (r : Fin 8) (d : Desc) (c : Instr), mayIssue s n r = true → quiet s n = true →
    ((c = .gemm n r d ∧ dOpcode d = 0x10 ∧ evaluate s n r d (checkGemm s n r d) = none) ∨
      (c = .gemmPacked n r d ∧ dOpcode d = 0x11 ∧ evaluate s n r d (checkGemm s n r d) = none) ∨
      (c = .conv n r d ∧ dOpcode d = 0x12 ∧ evaluate s n r d (checkGemm s n r d) = none) ∨
      (c = .cascadeMultiply n r d ∧ dOpcode d = 0x13 ∧ gPhase d = true ∧ evaluate s n r d (checkCascade s n r d) = none)) →
    ∃ t, exec c s = .next t ∧ onlyRingPart n r s t ∧ t.ring n r = took (s.ring n r) (newFlight s n r d .running .none) ∧
      t.part n = { s.part n with tiles := (t.part n).tiles } ∧
      (gHold d = true → ∃ x ∈ (t.part n).tiles, x.ring = r.val ∧ x.first = gFirst d ∧ x.row = gSumpRow d ∧ x.height = gHeight d ∧ x.kEnd = gKStart d + gKLen d)

/-- An accepted collective of any of the seven opcodes takes its ring's next slot (R194 to R206), and nothing else changes; with nothing ahead of it on the ring its COLLECTIVE_BEGIN takes its CSEQ on each of its planes (R210, R215), waits no longer, and changes no other partition. -/
def Obligations.CollectivesIssueAndBegin : Prop :=
  ∀ (s : State) (n : Fin 16) (r : Fin 8) (d : Desc) (c : Instr), mayIssue s n r = true → quiet s n = true → noneHeld s = true → s.badSram = [] →
    (c, dOpcode d) ∈ [(Instr.reduce n r d, 0x30), (.allreduce n r d, 0x31), (.reduceScatter n r d, 0x32), (.broadcast n r d, 0x33),
      (.allgather n r d, 0x34), (.barrier n r d, 0x35), (.statsReduce n r d, 0x36)] →
    evaluate s n r d (checkColl s n r d) = none →
    ∃ t u, exec c s = .next t ∧ onlyRing n r s t ∧ t.ring n r = took (s.ring n r) (newFlight s n r d .waiting .none) ∧
      exec (.collectiveBegin n ⟨r, .none⟩) t = .next u ∧
      (∀ q, q ∈ kPlaneList d → ((u.part n).planes.toList.getD q PlaneRec.reset).nextCseq =
        some (((s.ring n r).openStep.getD noStep), nextCseqOn (s.part n) ((s.ring n r).openStep.getD noStep) q + 1)) ∧
      (∀ g ∈ (u.ring n r).flights, g.phase ≠ .waiting) ∧ ∀ m, m ≠ n → u.part m = s.part m

/-- CST_OPEN opens its handle and sends a zeroing write to every word of the region (R153); nothing else changes but its ring. CST_ADD sends one add for each element to the lanes, the entry of its exact value (R141, R156) or, with RAW, the image's DATA and SPEC (R143); CST_READ sends one readout for each word (R157). Nothing else changes but the ring. CST_CLOSE of a handle, the only one of its number, with no earlier descriptor in flight frees the number and its region and ends OK (R158); nothing else changes but the ring. -/
def Obligations.CisternDescriptors : Prop :=
  (∀ (s : State) (n : Fin 16) (r : Fin 8) (d : Desc), mayIssue s n r = true → quiet s n = true → dOpcode d = 0x20 →
        evaluate s n r d (checkCstOpen s n r d) = none →
        ∃ t, exec (.cstOpen n r d) s = .next t ∧ onlyRingPart n r { s with laneq := t.laneq } t ∧
          t.ring n r = took (s.ring n r) (newFlight s n r d .running .none) ∧
          t.part n = { s.part n with handles := (s.part n).handles ++ [openHandle s n r d] } ∧
          t.laneq = s.laneq ++ (List.range (coCount d)).map fun i => ⟨⟨n.val, r.val, (s.ring n r).issue⟩, coBase d + i, .zero⟩) ∧
  (∀ (s : State) (n : Fin 16) (r : Fin 8) (d : Desc), mayIssue s n r = true → quiet s n = true → s.badSram = [] →
        let tag : Tag := ⟨n.val, r.val, (s.ring n r).issue⟩
        let f := newFlight s n r d .running .none
        let t0 := tensorAt (s.part n) (fld d 8 0 12)
        (dOpcode d = 0x21 → evaluate s n r d (checkCstAdd s n r d) = none →
          ∃ t, exec (.cstAdd n ⟨r, .none⟩ d) s = .next t ∧ onlyRing n r { s with laneq := t.laneq } t ∧ t.ring n r = took (s.ring n r) f ∧
            t.laneq = s.laneq ++ if cRaw d
              then (List.range (cCount d)).flatMap fun j =>
                addWordOp f.hands tag (cRef d) j (ofRaw (memRead s (cRawAddr d + 32 * j) 32)).data (ofRaw (memRead s (cRawAddr d + 32 * j) 32)).spec
              else (List.range t0.count).flatMap fun i => addOp f.hands tag (cRef d) i (elemVal s t0 0 (t0.idx i))) ∧
        (dOpcode d = 0x22 → evaluate s n r d (checkCstRead s n r d) = none → (∀ x ∈ readTargets (s.part n) d, xferFault s n.val x.1 x.2 = false) →
          ∃ t, exec (.cstRead n r d) s = .next t ∧ onlyRing n r { s with laneq := t.laneq } t ∧ t.ring n r = took (s.ring n r) f ∧
            t.laneq = s.laneq ++ (List.range (readWords f).length).map fun i => ⟨tag, (readWords f).getD i 0, .read i (cClear d)⟩)) ∧
  (∀ (s : State) (n : Fin 16) (r : Fin 8) (d : Desc), mayIssue s n r = true → quiet s n = true → dOpcode d = 0x23 →
        evaluate s n r d (checkCstClose s n r d) = none → ((s.part n).handles.filter fun h => h.num == coHandle d).length = 1 →
        ∃ t, exec (.cstClose n r d) s = .next t ∧ onlyRingPart n r s t ∧ t.ring n r = took (s.ring n r) (newFlight s n r d .done .none) ∧
          t.part n = { s.part n with handles := (s.part n).handles.filter fun h => h.num != coHandle d })

/-- COPY between basin SRAM tensors ends OK (R131) and writes no byte outside its destination's copies and scale arrays; nothing changes but those bytes, its ring and the dirty granules of its step. COPY of a vector of FP32 words onto another in basin SRAM moves every word's bits (R131), overlapping or not: each word of the destination holds what the source's word held before. -/
def Obligations.CopiesMoveTheirBytes : Prop :=
  (∀ (s : State) (n : Fin 16) (r : Fin 8) (d : Desc), mayIssue s n r = true → quiet s n = true → dOpcode d = 0x08 → s.badSram = [] →
        evaluate s n r d (checkCopy s n r d) = none →
        let a := tensorAt (s.part n) (fld d 8 0 12)
        let b := tensorAt (s.part n) (fld d 10 0 12)
        (∀ x ∈ a.ranges ++ b.ranges, x.1 + x.2 ≤ 2 ^ 29) →
        ∃ t, exec (.copy n r d .none) s = .next t ∧ onlyRingPart n r { s with sram := t.sram } t ∧
          t.ring n r = took (s.ring n r) (newFlight s n r d .done .none) ∧ t.part n = { s.part n with steps := (t.part n).steps } ∧
          ∀ x, x < 2 ^ 29 → (∀ y ∈ b.ranges, x < y.1 ∨ y.1 + y.2 ≤ x) → Sparse.get 0 t.sram x = Sparse.get 0 s.sram x) ∧
  (∀ (s : State) (n : Fin 16) (r : Fin 8) (d : Desc), Memory.wf s = true → mayIssue s n r = true → quiet s n = true → dOpcode d = 0x08 →
        s.badSram = [] → evaluate s n r d (checkCopy s n r d) = none →
        let a := tensorAt (s.part n) (fld d 8 0 12)
        let b := tensorAt (s.part n) (fld d 10 0 12)
        a.fmt = .fp32 → b.fmt = .fp32 → a.rank = 1 → a.copies = 1 → b.copies = 1 → (∀ k, 0 < k → k < 5 → a.ext k = 1) →
        a.base + 4 * a.ext 0 ≤ 2 ^ 29 → b.base + 4 * a.ext 0 ≤ 2 ^ 29 →
        ∃ t, exec (.copy n r d .none) s = .next t ∧
          ∀ i, i < a.ext 0 → memRead t (b.base + 4 * i) 4 = memRead s (a.base + 4 * i) 4)

/-- The SLICE phase and STRICT_GEMM end OK in one command (R177, R185 to R187) where their basins are free, and leave every memory but basin SRAM, every other ring and every other partition as they were; of their own partition only beats, counters and dirty granules change. What the SLICE phase writes (R176, R177): in every copy of the slice tensor the slices of every element as INT8 codes, and for every row-chunk its exponent entry (R175), from the source copy that is present in the unit's basin. Here the bytes written do not meet each other and lie in basin SRAM. What STRICT_GEMM writes (R185 to R187): in every copy of its output each element is the strict dot product of its row of A and its column of B over K, read from the copies that are present in the row's basin, and the descriptor's detail is the OR of all flags. Here the elements' addresses do not meet each other and lie in basin SRAM. A strict dot product starts at −0 and folds the fused steps in ascending k, its flags ORed (R185, R186): one more term is one more step on the result so far. -/
def Obligations.SliceAndStrictWriteTheirOutputs : Prop :=
  (∀ (s : State) (n : Fin 16) (r : Fin 8) (d : Desc) (c : Instr), mayIssue s n r = true → quiet s n = true → s.badSram = [] →
        (∀ b, drainsOf s b = []) →
        let o := tensorAt (s.part n) (if dOpcode d = 0x13 then gB d else gDst d % 4096)
        (∀ x ∈ o.ranges ++ expRanges (s.part n) o, x.1 + x.2 ≤ 2 ^ 29) →
        ((c = .cascadeSlice n ⟨r, .none⟩ d ∧ dOpcode d = 0x13 ∧ gPhase d = false ∧ evaluate s n r d (checkCascade s n r d) = none) ∨
          (c = .strictGemm n r d .none ∧ dOpcode d = 0x14 ∧ evaluate s n r d (checkStrict s n r d) = none)) →
        ∃ t f, exec c s = .next t ∧ onlyRingPart n r { s with sram := t.sram } t ∧
          t.ring n r = took (s.ring n r) f ∧ f = { newFlight s n r d .done .none with detail := f.detail } ∧
          t.part n = { s.part n with steps := (t.part n).steps, beats := (t.part n).beats, counters := (t.part n).counters } ∧
          (c = .cascadeSlice n ⟨r, .none⟩ d → f.detail = 0)) ∧
  (∀ (s : State) (n : Fin 16) (r : Fin 8) (d : Desc), Memory.wf s = true → mayIssue s n r = true → quiet s n = true → s.badSram = [] →
        (∀ b, drainsOf s b = []) → dOpcode d = 0x13 → gPhase d = false → evaluate s n r d (checkCascade s n r d) = none →
        let p := s.part n
        let src := tensorAt p (gA d)
        let dst := tensorAt p (gB d)
        let cl := chunkOf p
        let nc := ceilDiv (src.ext 0) cl
        let x := fun row c => sliceChunk (gSlices d) ((List.range (min cl (src.ext 0 - c * cl))).map fun i =>
          elemVal s src ((src.copyIn (gFirst d + (row * nc + c) % gCount d)).getD 0) ⟨c * cl + i, row, 0, 0, 0⟩)
        let expAt := fun k row c => dst.fineBase + k * 0x400000 + 2 * (c + nc * row)
        let codes := (List.range dst.copies).flatMap fun k => (List.range (src.ext 1)).flatMap fun row => (List.range (src.ext 0)).flatMap fun i =>
          (List.range (gSlices d)).map fun j => dst.addr k ⟨i, row, j, 0, 0⟩
        let exps := (List.range dst.copies).flatMap fun k => (List.range (src.ext 1)).flatMap fun row => (List.range nc).flatMap fun c =>
          [expAt k row c, expAt k row c + 1]
        dst.fmt = .int8 → (codes ++ exps).Nodup → (∀ a ∈ codes ++ exps, a < 2 ^ 29) →
        ∃ t, exec (.cascadeSlice n ⟨r, .none⟩ d) s = .next t ∧ ∀ k row c, k < dst.copies → row < src.ext 1 → c < nc →
          memRead t (expAt k row c) 2 = toLE 2 (expWord p (x row c).1 (x row c).2.1) ∧
          ∀ i j, i < min cl (src.ext 0 - c * cl) → j < gSlices d →
            readByte t (dst.addr k ⟨c * cl + i, row, j, 0, 0⟩) = BitVec.ofNat 8 (((x row c).2.2.getD i []).getD j 0)) ∧
  (∀ (s : State) (n : Fin 16) (r : Fin 8) (d : Desc) (ie : Ieee), Memory.wf s = true → mayIssue s n r = true → quiet s n = true → s.badSram = [] →
        (∀ b, drainsOf s b = []) → dOpcode d = 0x14 → evaluate s n r d (checkStrict s n r d) = none →
        let p := s.part n
        let ta := tensorAt p (gA d)
        let tb := tensorAt p (gB d)
        let o := tensorAt p (gDst d % 4096)
        let es := elemSpan o.fmt
        let dot := fun m c => strictDot ie ((List.range (gKTotal d)).map fun k =>
          ((aOpnd s p d ta ((ta.copyIn (gFirst d + m % gCount d)).getD 0) 0 1 m k).1,
            (bOpnd s d tb ((tb.copyIn (gFirst d + m % gCount d)).getD 0) 0 1 k c).1))
        let slots := (List.range o.copies).flatMap fun k => (List.range (gM d)).flatMap fun m => (List.range (gN d)).map fun c => o.addr k ⟨c, m, 0, 0, 0⟩
        o.fmt.ieee = some ie → slots.Pairwise (fun x y => x + es ≤ y ∨ y + es ≤ x) → (∀ x ∈ slots, x + es ≤ 2 ^ 29) →
        ∃ t, exec (.strictGemm n r d .none) s = .next t ∧
          (∀ k m c, k < o.copies → m < gM d → c < gN d → memRead t (o.addr k ⟨c, m, 0, 0, 0⟩) es = toLE es (dot m c).1) ∧
          ∀ f ∈ (t.ring n r).flights, f.detail =
            BitVec.ofNat 160 ((List.range (gM d)).foldl (fun a m => (List.range (gN d)).foldl (fun a c => a ||| (dot m c).2) a) 0)) ∧
  (∀ (f : Ieee) (xs : List (Nat × Nat)) (a b : Nat),
        strictDot f [] = (f.signBit true, 0) ∧
          strictDot f (xs ++ [(a, b)]) = ((fmaFlags f a b (strictDot f xs).1).1, (strictDot f xs).2 ||| (fmaFlags f a b (strictDot f xs).1).2))

/-- STEP_OPEN on an idle partition with nothing to apply opens its step when nothing holds it (R15, R20): the step's record holds the seed in force and the generation (R249, R262), the ring stands in the step, and the descriptor retires at once with an OK completion in its slot (R33). No other ring or partition changes, nor the cistern, the sluices, the registers or the plan. STEP_SEAL of the open step ends the step on its ring at once (R33): its completion is owed until the step seals, and the step's record notes the ring. Nothing else changes. -/
def Obligations.StepsOpenAndSealByDescriptor : Prop :=
  (∀ (s : State) (n : Fin 16) (r : Fin 8) (d : Desc), mayIssue s n r = true → quiet s n = true → dOpcode d = 0x03 → formVerdict (s.ring n r) d = none →
        let k := fld d 8 0 32
        let y := s.ring n r
        let slot := y.cbase.toNat + 32 * (y.issue % depthOf y.ctl)
        Memory.wf s = true → slot + 32 ≤ 2 ^ 64 → (s.part n).openStep = none → hasRequests s n = false → vcoreDue s n = false →
        openVerdict s n r (newFlight s n r d .gate .none) = none → mayOpen s n k = true → ledgerFull s n k = false → findStep (s.part n) k = none →
        (∀ g ∈ ((s.part n).plan.map fun x => x.gens).getD [], ∀ z ∈ (tensorAt (s.part n) (genTensor g)).ranges, z.1 + z.2 ≤ 2 ^ 44) →
        ∃ t, exec (.stepOpen n r d) s = .next t ∧ (t.part n).openStep = some k ∧ (t.part n).opened = k ∧ (t.part n).openedValid = true ∧
          (t.ring n r).openStep = some k ∧ (t.ring n r).lastStep = k ∧ (t.ring n r).flights = [] ∧
          (t.ring n r).issue = (y.issue + 1) % 2 ^ 32 ∧ (t.ring n r).retired = (y.retired + 1) % 2 ^ 64 ∧
          (∀ i, i < 32 → Sparse.get 0 t.host (slot + i) = (completionBytes y.issue 0x00 0x03 none 0).getD i 0) ∧ (∀ q, q ≠ r → t.ring n q = s.ring n q) ∧
          (∀ m, m ≠ n → t.part m = s.part m) ∧ (∃ x, findStep (t.part n) k = some x ∧ x.fate = .open_ ∧ x.seed = seedOf s n.val ∧ x.gen = (s.part n).gen) ∧
          t.cistern = s.cistern ∧ t.ports = s.ports ∧ t.cfg = s.cfg ∧ (t.part n).plan = (s.part n).plan) ∧
  (∀ (s : State) (n : Fin 16) (r : Fin 8) (d : Desc) (x : StepRec), mayIssue s n r = true → quiet s n = true → dOpcode d = 0x04 →
        evaluate s n r d none = none → findStep (s.part n) (fld d 8 0 32) = some x → x.fate = .open_ →
        ∃ t, exec (.stepSeal n r d) s = .next t ∧ onlyRingPart n r s t ∧ t.ring n r = { s.ring n r with
          issue := ((s.ring n r).issue + 1) % 2 ^ 32, openStep := none, retired := ((s.ring n r).retired + 1) % 2 ^ 64,
          owed := (s.ring n r).owed ++ [((s.ring n r).issue, fld d 8 0 32, dIrq d)] } ∧
          t.part n = { s.part n with
            steps := (s.part n).steps.map fun st => if st.n = fld d 8 0 32 then { st with seals := st.seals ||| 2 ^ r.val } else st })

/-- DESCRIPTOR_RETIRE of a front descriptor whose work has ended writes its 32-byte completion at CBASE + 32 × (SEQ mod depth) (R371, R380): SEQ, STATUS, OPCODE and detail as the descriptor has them. Every other byte of host memory stands, the descriptor leaves the ring, and no other memory changes. -/
def Obligations.RetirementWritesTheCompletion : Prop :=
  ∀ (s : State) (n : Fin 16) (r : Fin 8) (f : Flight) (rest : List Flight), Memory.wf s = true → mayDma s n = true → atRest s n = true →
    (s.ring n r).failed = [] → (s.ring n r).flights = f :: rest → f.phase = .done → f.status ≠ stNumericTrap →
    let slot := (s.ring n r).cbase.toNat + 32 * (f.seq % depthOf (s.ring n r).ctl)
    slot + 32 ≤ 2 ^ 64 →
    ∃ t, exec (.descriptorRetire n r) s = .next t ∧ t = { s with host := t.host, fns := t.fns, out := t.out } ∧ (∀ m, m ≠ n → t.fn m = s.fn m) ∧
      (t.ring n r).flights = rest ∧ (t.ring n r).retired = ((s.ring n r).retired + 1) % 2 ^ 64 ∧ (∀ q, q ≠ r → t.ring n q = s.ring n q) ∧
      (∀ i, i < 32 → Sparse.get 0 t.host (slot + i) = (completionBytes f.seq f.status (dOpcode f.d) f.step f.detail).getD i 0) ∧
      (∀ a, (a < slot ∨ slot + 32 ≤ a) → Sparse.get 0 t.host a = Sparse.get 0 s.host a) ∧
      ((s.ring n r).head = f.seq → (s.ring n r).written = [] → (t.ring n r).head = (f.seq + 1) % 2 ^ 32)

/-! ### Descriptors applied at the gate, the ledger and membership -/

/-- EPOCH_ADVANCE of an idle partition is applied at once (R18, R217): the epoch is the one named, every plane's record starts anew but for the fence that a STALE parcel has raised on it, the plane table is the one at the given address where one is given, the generation counts (R406), and the descriptor retires. No other partition changes, nor basin SRAM or the cistern. PLAN_LOAD of an idle partition is applied at once (R18, R385): the partition holds the image's sections, its epoch and no step, every ring is set to the step before FIRST_STEP, the generation counts, and the descriptor retires. Here the plan keeps no local store: basin SRAM, the cistern and every other partition stand. -/
def Obligations.EpochsAndPlansAreApplied : Prop :=
  (∀ (s : State) (n : Fin 16) (r : Fin 8) (d : Desc), mayIssue s n r = true → quiet s n = true → calm s = true → idle s n = true → noneHeld s = true →
        dOpcode d = 0x50 → evaluate s n r d none = none → checkEpochAdvance s n d = .ok → spaceOf (eaTable d) = 0 →
        ∃ t, exec (.epochAdvance n r d) s = .next t ∧ (t.part n).epoch = eaEpoch d ∧ (t.part n).gen = (s.part n).gen + 1 ∧
          (t.part n).planes = ((s.part n).planes.map fun x => { PlaneRec.reset with fencedBy := x.fencedBy }) ∧
          (t.ring n r).flights = [] ∧ (t.ring n r).retired = ((s.ring n r).retired + 1) % 2 ^ 64 ∧
          (eaTable d ≠ 0 → (t.part n).plan = (s.part n).plan.map fun pl => { pl with planes := tableAt s (eaTable d) }) ∧
          (eaTable d = 0 → (t.part n).plan = (s.part n).plan) ∧ (∀ m, m ≠ n → t.part m = s.part m) ∧ t.sram = s.sram ∧ t.cistern = s.cistern) ∧
  (∀ (s : State) (n : Fin 16) (r : Fin 8) (d : Desc), mayIssue s n r = true → quiet s n = true → calm s = true → idle s n = true →
        dOpcode d = 0x02 → evaluate s n r d none = none → checkPlanLoad s n d = .ok → spaceOf (plAddr d) = 0 → storeOn (planOf s d).mirror = false →
        (s.part n).mirror.job = none → (s.part n).steps = [] →
        ∃ t, exec (.planLoad n r d) s = .next t ∧ (t.part n).plan = some (planOf s d) ∧ (t.part n).epoch = PlaneTable.epoch (planOf s d).planes ∧
          (t.part n).openStep = none ∧ (t.part n).steps = [] ∧ (t.part n).recovery = false ∧ (t.part n).gen = (s.part n).gen + 1 ∧
          (∀ q, (t.ring n q).lastStep = (plFirst d + 2 ^ 32 - 1) % 2 ^ 32) ∧ (t.ring n r).flights = [] ∧ t.sram = s.sram ∧ t.cistern = s.cistern ∧
          (∀ m, m ≠ n → t.part m = s.part m))

/-- MIRROR_SYNC of an idle partition begins at once (R18, R337): the mirror is SYNCING for this descriptor, which goes on running; nothing in basin SRAM, the cistern or another partition changes. REPLAY of an idle partition without a local store is applied at once (R340, R341): no step is open, no recovery holds unless a step before it has failed or aborted too (R20, R28), the handles are those that the ledger kept for the step, every ring is set to the step before it, and the discarded steps are aborted and unsealed, to be replayed. SHARD_RESTORE from the partner begins at once on an idle partition (R343, R344): the mirror is RESTORING the step named for this descriptor, which goes on running. -/
def Obligations.RecoveryDescriptorsBegin : Prop :=
  (∀ (s : State) (n : Fin 16) (r : Fin 8) (d : Desc), mayIssue s n r = true → quiet s n = true → calm s = true → idle s n = true →
        dOpcode d = 0x41 → evaluate s n r d none = none → checkMirrorSync s n = .ok → syncBlocked s n = false → (s.part n).mirror.job = none →
        ∃ t, exec (.mirrorSync n r d) s = .next t ∧ (t.part n).mirror.st = .syncing ∧ (t.part n).mirror.baseAcked = false ∧
          (t.part n).mirror.job = some ⟨n.val, r.val, (s.ring n r).issue⟩ ∧ ((t.ring n r).flights.map fun f => (f.seq, f.phase)) = [((s.ring n r).issue, .running)] ∧
          t.sram = s.sram ∧ t.cistern = s.cistern ∧ (∀ m, m ≠ n → t.part m = s.part m)) ∧
  (∀ (s : State) (n : Fin 16) (r : Fin 8) (d : Desc) (x : StepRec), mayIssue s n r = true → quiet s n = true → calm s = true → idle s n = true →
        dOpcode d = 0x42 → evaluate s n r d none = none → checkReplay s n d = .ok → findStep (s.part n) (rpFrom d) = some x →
        (∀ m, mirrorTable (s.part n) = some m → storeOn m = false) → mirrorLive (s.part n) = false →
        ∃ t, exec (.replay n ⟨r, .none⟩ d) s = .next t ∧ (t.part n).openStep = none ∧
          (t.part n).recovery = ((s.part n).steps.any fun y => decide (y.n < rpFrom d) && (y.fate == .failed || y.fate == .aborted)) ∧
          (t.part n).handles = x.handles ∧ (∀ q, (t.ring n q).lastStep = (rpFrom d + 2 ^ 32 - 1) % 2 ^ 32) ∧ (t.ring n r).flights = [] ∧
          (∀ y ∈ (t.part n).steps, rpFrom d ≤ y.n → y.fate = .aborted ∧ y.seals = 0) ∧ (∀ m, m ≠ n → t.part m = s.part m) ∧ t.cfg = s.cfg) ∧
  (∀ (s : State) (n : Fin 16) (r : Fin 8) (d : Desc), mayIssue s n r = true → quiet s n = true → calm s = true → idle s n = true →
        dOpcode d = 0x43 → srImage d = false → evaluate s n r d none = none → checkShardRestore s n d = .ok → (s.part n).mirror.job = none →
        ∃ t, exec (.shardRestore n r d) s = .next t ∧ (t.part n).mirror.st = .restoring ∧ (t.part n).mirror.restoreTo = srStep d ∧
          (t.part n).mirror.restoreGot = 0 ∧ (t.part n).mirror.restoreEnd = none ∧
          (t.part n).mirror.job = some ⟨n.val, r.val, (s.ring n r).issue⟩ ∧ ((t.ring n r).flights.map fun f => (f.seq, f.phase)) = [((s.ring n r).issue, .running)] ∧
          t.sram = s.sram ∧ t.cistern = s.cistern ∧ (∀ m, m ≠ n → t.part m = s.part m))

/-- A gate descriptor that is accepted while its partition has an open step waits for the gate (R16, R368): nothing changes but its ring. -/
def Obligations.GateDescriptorsWaitForTheGate : Prop :=
  ∀ (s : State) (n : Fin 16) (r : Fin 8) (d : Desc) (c : Instr), mayIssue s n r = true → quiet s n = true → (s.part n).openStep.isSome = true →
    evaluate s n r d none = none →
    ((c = .planLoad n r d ∧ dOpcode d = 0x02 ∧ checkPlanLoad s n d = .ok) ∨ (c = .mirrorSync n r d ∧ dOpcode d = 0x41 ∧ checkMirrorSync s n = .ok) ∨
      (c = .replay n ⟨r, .none⟩ d ∧ dOpcode d = 0x42 ∧ checkReplay s n d = .ok) ∨ (c = .shardRestore n r d ∧ dOpcode d = 0x43 ∧ checkShardRestore s n d = .ok) ∨
      (c = .epochAdvance n r d ∧ dOpcode d = 0x50 ∧ checkEpochAdvance s n d = .ok)) →
    ∃ t, exec c s = .next t ∧ onlyRing n r s t ∧ t.ring n r = took (s.ring n r) (newFlight s n r d .gate .none)

/-- LEDGER_RELEASE acts at its issue (R331): under DRIVER release without a local store the steps up to UPTO leave the ledger, under AUTO nothing does, and the descriptor ends OK. STEP_SEALED seals the lowest unsealed step that has retired and passed its checks (R327, R330): it is the last sealed step, no ring is owed the completion of its STEP_SEAL any more, and under AUTO release its record leaves the ledger. No other partition changes, nor the cistern or basin SRAM. -/
def Obligations.TheLedgerSealsAndReleases : Prop :=
  (∀ (s : State) (n : Fin 16) (r : Fin 8) (d : Desc), mayIssue s n r = true → calm s = true → quiet s n = true → dOpcode d = 0x40 →
        evaluate s n r d (checkRelease s n d) = none → (∀ m, mirrorTable (s.part n) = some m → storeOn m = false) →
        ∃ t, exec (.ledgerRelease n r d) s = .next t ∧ onlyRingPart n r s t ∧ t.ring n r = took (s.ring n r) (newFlight s n r d .done .none) ∧
          t.part n = { s.part n with
            steps := if driverRelease s n.val then (s.part n).steps.filter fun x => decide (lrUpto d < x.n) else (s.part n).steps }) ∧
  (∀ (s : State) (n : Fin 16) (x : StepRec), (∀ m, quiet s m = true) → sealable s n = some x →
        ∃ t, exec (.stepSealed n) s = .next t ∧ (t.part n).sealed = x.n ∧ (t.part n).sealedValid = true ∧
          (∀ r, (t.ring n r).owed = (s.ring n r).owed.filter fun o => o.2.1 != x.n) ∧
          (t.part n).steps = (if driverRelease s n.val then (s.part n).steps.map fun y => if y.n = x.n then { y with fate := .sealed } else y
            else (s.part n).steps.filter fun y => y.n != x.n) ∧
          (∀ m, m ≠ n → t.part m = s.part m) ∧ t.cistern = s.cistern ∧ t.sram = s.sram)

/-- The gate of a sealed and drained open step closes it (R15, R153): no step is open, its record is retired, tiles close, and of the handles only those with CARRY or of an earlier step stay. An idle partition applies a pending commit (R18, R404): its partition-scoped values are the committed ones, and the generation counts where one of them changed (R406). -/
def Obligations.GatesCloseStepsAndApplyCommits : Prop :=
  (∀ (s : State) (n : Fin 16) (k : Nat), calm s = true → gateDue s n = some k → (s.part n).mirror.st = .none →
        (∀ m, mirrorTable (s.part n) = some m → storeOn m = false) →
        ∃ t, exec (.stepGateOpen n) s = .next t ∧ (t.part n).openStep = none ∧ (t.part n).tiles = [] ∧
          (t.part n).handles = (s.part n).handles.filter (fun h => h.carry || h.step != k) ∧
          (∀ x ∈ (t.part n).steps, x.n = k → x.retired = true) ∧ (∀ m, m ≠ n → (t.part m).handles = (s.part m).handles ∧ (t.part m).openStep = (s.part m).openStep) ∧
          t.cistern = s.cistern ∧ t.sram = s.sram ∧ t.cfg = s.cfg) ∧
  (∀ (s : State) (n : Fin 16), (∀ m, atRest s m = true) → (∀ m, m ≠ n → hasRequests s m = false) → s.cfg.force = s.cfg.committed → s.cfg.tagDue = false →
        (s.part n).shutter = .open_ → idle s n = true → (s.part n).cfgPending = true → (s.part n).snapPending = false → (s.part n).reqs = [] →
        s.power.replan = [] → managerRuns s = false →
        ∃ t, exec (.partitionIdle n) s = .next t ∧ onlyPart n { s with power := t.power } t ∧ t.power.code = s.power.code ∧
          (t.part n).numerics = regGet s.cfg.committed 0x10100 ∧ (t.part n).arrayMode = regGet s.cfg.committed 0x50100 ∧
          (t.part n).cstRetire = regGet s.cfg.committed 0x60104 ∧ (t.part n).cfgPending = false ∧
          (t.part n).gen = (if partDiffers s n then (s.part n).gen + 1 else (s.part n).gen) ∧ (t.part n).plan = (s.part n).plan)

/-! ### The array and the cistern at work -/

/-- ARRAY_UNIT_BEGIN of the descriptor whose turn it is on its basin (R89): the block counts as begun, its drain joins the basin's queue unless HOLD keeps the tile open, and its beats are counted. No memory changes, nor any other partition. What the block of a GEMM on the chunk-register path leaves in the chunk registers (R82, R95): for each row and column of the unit the accumulator of its column over the unit's K range, from zero. SUMP_ROW_DRAIN of a GEMM with a cistern destination and more rows to come (R94): the row's values go to the lanes as adds, the drain stands at the next row, and no memory changes. -/
def Obligations.UnitsBeginComputeAndDrain : Prop :=
  (∀ (s : State) (n : Fin 16) (r : Fin 8) (b : Fin 128) (f : Flight), nextOnBasin s n r b.val = some f → s.badSram = [] → gHold f.d = false →
        (∀ h ∈ (s.ring n r).flights, h.seq = f.seq → h = f) →
        ∃ t dr, exec (.arrayUnitBegin n r b .none) s = .next t ∧ t.drains = s.drains ++ [(b.val, dr)] ∧ dr.tag = ⟨n.val, r.val, f.seq⟩ ∧ dr.next = 0 ∧
          (∀ g ∈ (t.ring n r).flights, g.seq = f.seq → begunOn g b.val = begunOn f b.val + 1) ∧
          (∀ q, q ≠ r → t.ring n q = s.ring n q) ∧ (∀ m, m ≠ n → t.part m = s.part m ∧ t.fn m = s.fn m) ∧
          t.sram = s.sram ∧ t.transom = s.transom ∧ t.host = s.host ∧ t.cistern = s.cistern ∧ t.laneq = s.laneq) ∧
  (∀ (s : State) (n : Fin 16) (d : Desc) (b u : Nat), dOpcode d = 0x10 → gSump d = false → gAcc d = false → Sparse.wf 0 s.chunk = true →
        Sparse.wf 0 s.chunkNan = true →
        let p := s.part n
        let x := unitAt p d u
        let ta := tensorAt p (gA d)
        let tb := tensorAt p (gB d)
        x.rows ≤ 32 → x.cols ≤ 1024 → ∀ i c, i < x.rows → c < x.cols →
          let v := columnAcc ta.fmt tb.fmt (gPx d) (groupOf p) (subnOf p) accZero ((List.range (x.k1 - x.k0)).map fun j =>
            (aOpnd s p d ta ((ta.copyIn b).getD 0) x.prob 1 (x.m0 + i) (x.k0 + j), bOpnd s d tb ((tb.copyIn b).getD 0) x.prob 1 (x.k0 + j) (x.n0 + c)))
          chunkAcc (computeBlock s n d b u 0) (chunkKey b (c / 64) i (c % 64)) = (v.1 % 2 ^ 32, v.2)) ∧
  (∀ (s : State) (b : Fin 128) (dr : Drain) (a row : Nat), drainsOf s b.val = [dr] → gDirect dr.d = false → gCascade dr.d = false → gNtrap dr.d = false →
        let p := s.part (fin16 dr.tag.fn)
        let rows := drainRows p dr.d (dr.unit / gSub dr.d)
        rows[dr.next]? = some (a, row) → dr.next + 1 < rows.length →
        ∃ t, exec (.sumpRowDrain b) s = .next t ∧ t = { s with laneq := t.laneq, drains := t.drains } ∧ drainsOf t b.val = [{ dr with next := dr.next + 1 }] ∧
          (∀ c, c ≠ b.val → drainsOf t c = drainsOf s c) ∧
          t.laneq = s.laneq ++ (drainValues s p dr.d b.val (dr.unit / gSub dr.d) a row).flatMap fun y =>
            addOp (((findFlight s (fin16 dr.tag.fn) (fin8 dr.tag.ring) dr.tag.seq).map fun f => f.hands).getD []) dr.tag (gDst dr.d)
              (y.x.prob * gM dr.d * gN dr.d + y.m * gN dr.d + y.n) y.v)

/-- CISTERN_LANE_OP with one operation waiting for its bank (R137, R148): an add of a descriptor with more to come changes its word as R137 says, where the word's ECC is right and the predicted residue is the sum's; a zeroing write makes the word zero. The operation leaves the queue, and every other word, every memory, function and sluice stands. SCRUB_OP (R140, R163, R166) where nothing waits at a gate: enabled, on a word with right ECC of an OPEN partition, it counts; a correctable error is counted too, here below the count that retires the bank, and neither changes a word. Off, or on a word of no partition, it does nothing. -/
def Obligations.LanesAndScrubbing : Prop :=
  (∀ (s : State) (o : LaneOp) (f : Flight) (pick : Nat) (b : Fin 128) (k : Fin 64), Memory.wf s = true → noneHeld s = true →
        wordBasin o.word = b.val → wordBank o.word = k.val → o ∈ s.laneq →
        (s.laneq.filter fun x => wordBasin x.word == b.val && wordBank x.word == k.val) = [o] →
        findFlight s (fin16 o.tag.fn) (fin8 o.tag.ring) o.tag.seq = some f → f.coll = none → hasLaneOps { s with laneq := s.laneq.erase o } o.tag = true →
        o.tag.fn < 16 → o.tag.ring < 8 → (∀ i c, o.kind ≠ .read i c) →
        (∀ x y, o.kind = .add x y → (getWord s o.word).ecc = 0 ∧ residueOk (addWord (getWord s o.word) x y) = true) →
        ∃ t, exec (.cisternLaneOp b k pick .none) s = .next t ∧ t.laneq = s.laneq.erase o ∧
          getWord t o.word = (match o.kind with | .add data spec => addWord (getWord s o.word) data spec | _ => wordZero) ∧
          (∀ w, w ≠ o.word → getWord t w = getWord s w) ∧ t.sram = s.sram ∧ t.host = s.host ∧ t.transom = s.transom ∧ t.fns = s.fns ∧ t.ports = s.ports) ∧
  (∀ (s : State) (w : Nat), calm s = true → w < 4194304 →
        (∀ n, basinPart s (wordBasin w) = some n → (s.force 0x60100).getLsbD 0 = true → (s.part n).shutter = .open_ → (getWord s w).ecc = 0 →
          let seen := ((s.spares.corrected.find? fun x => x.1 == wordBasin w && x.2.1 == wordBank w).map fun x => x.2.2).getD 0
          (∃ t, exec (.scrubOp w .none) s = .next t ∧ onlyPart n s t ∧ t.part n = { s.part n with counters := bump (s.part n).counters 4 1 }) ∧
          (seen + 1 < wbits (s.part n).cstRetire 15 0 →
            ∃ t, exec (.scrubOp w .corrected) s = .next t ∧ t.cistern = s.cistern ∧ onlyPart n { s with spares := t.spares } t ∧
              t.part n = { s.part n with counters := bump (bump (s.part n).counters 4 1) 2 1 })) ∧
        (∀ x, ((s.force 0x60100).getLsbD 0 = false ∨ basinPart s (wordBasin w) = none) → exec (.scrubOp w x) s = .next s))

/-! ### Collectives, mirrors and failed requests -/

/-- UP_SEGMENT_SEND (R212): with no open collective on the plane nothing is sent and nothing changes. With the lowest unsent up segment of a node below rank 0 complete, and a parent's sluice that has nothing else to send and the credits for it, its parcel takes the next PSEQ of the up lane and counts as unverified for its step (R274, R280), and no other sluice or partition changes, nor a register. The progress timer of an open collective that waits for a parcel (R222, R225): the collective ends TIMEOUT, and counter 17 counts it. -/
def Obligations.CollectivesSendAndTimeOut : Prop :=
  (∀ (s : State) (n : Fin 16) (pl : Fin 8), (openOn s n pl.val = none → exec (.upSegmentSend n pl) s = .next s) ∧
        ∀ (r : Fin 8) (f : Flight) (c : Coll) (tab : PlaneTable) (g : Seg) (q : Fin 24), openOn s n pl.val = some (r, f, c) →
          findFlight s n r f.seq = some f → planeTable (s.part n) = some tab → PlaneTable.rank tab ≠ 0 → PlaneTable.noParent tab pl.val = false →
          (PlaneTable.parentPort tab pl.val) = q.val → noneHeld s = true → getSeg c g.idx = some g →
          nextUp tab (s.part n).epoch f.d c pl.val = some g → segReady s n r tab f g = true →
          (s.port q).st = .joined → (s.port q).waiting = [] → (s.port q).txRest = [] → (s.port q).retry.length < 512 →
          parcelCredits (segPayload s n tab f g true).length ≤ getV (s.port q).credits 0 →
          ∃ t, exec (.upSegmentSend n pl) s = .next t ∧ (∀ m, m ≠ q → t.port m = s.port m) ∧
            getV (t.port q).pseqTx 0 = (getV (s.port q).pseqTx 0 + 1) % 65536 ∧
            (t.port q).unverified = (s.port q).unverified ++ [(0, getV (s.port q).pseqTx 0, n.val, f.step.getD noStep)] ∧
            t.cfg = s.cfg ∧ ∀ m, m ≠ n → t.part m = s.part m) ∧
  (∀ (s : State) (n : Fin 16) (pl : Fin 8) (r : Fin 8) (f : Flight) (c : Coll) (tab : PlaneTable), noneHeld s = true →
        openOn s n pl.val = some (r, f, c) → planeTable (s.part n) = some tab → waitsForParcel tab (s.part n).epoch f c = true →
        ∃ t, exec (.collectiveTimeout n pl) s = .next t ∧ (∀ g ∈ (t.ring n r).flights, g.seq = f.seq → g.phase = .done ∧ g.status = 0x08) ∧
          getV (t.part n).counters 17 = (getV (s.part n).counters 17 + 1) % 2 ^ 64 ∧ (∀ m, m ≠ n → t.part m = s.part m))

/-- The mirror's timers, where no descriptor waits. A record unacknowledged for MTMO detaches a live mirror, with a RAS entry where the log has room (R338, R351); the timer of a running MIRROR_SYNC detaches it and ends the descriptor TIMEOUT (R337, R350); that of a running SHARD_RESTORE loses the shard: the descriptor ends SHARD_LOST with the last VOUCH_STEP, no step stays, and no step opens until the next PLAN_LOAD (R344, R348). No other partition changes. -/
def Obligations.MirrorTimersDetachOrLose : Prop :=
  ∀ (s : State) (n : Fin 16), (∀ r, ∀ f ∈ (s.ring n r).flights, f.phase = .running ∧ dOpcode f.d ≠ 0x01 ∧ dOpcode f.d ≠ 0x03) → (s.part n).traps = [] →
    (mirrorLive (s.part n) = true → (s.part n).mirror.job = none → (s.part n).mirror.awaiting ≠ [] →
      ∃ t, exec (.mirrorDetached n) s = .next t ∧ (t.part n).mirror = { (s.part n).mirror with st := .detached, awaiting := [] } ∧
        (s.ras.length < 256 → t.ras.length = s.ras.length + 1) ∧ (∀ m, m ≠ n → t.part m = s.part m)) ∧
    ∀ (r : Fin 8) (f : Flight), (s.part n).mirror.job = some ⟨n.val, r.val, f.seq⟩ → f ∈ (s.ring n r).flights →
      (∀ g ∈ (s.ring n r).flights, g.seq = f.seq → g = f) →
      ((s.part n).mirror.st = .syncing → dOpcode f.d = 0x41 →
        ∃ t, exec (.mirrorSyncTimeout n) s = .next t ∧ (t.part n).mirror = { (s.part n).mirror with st := .detached, awaiting := [], job := none } ∧
          (t.ring n r).flights = (s.ring n r).flights.map (fun g => if g.seq = f.seq then { g with phase := .done, status := 0x08, detail := 0 } else g) ∧
          (∀ m, m ≠ n → t.part m = s.part m)) ∧
      ((s.part n).mirror.st = .restoring → dOpcode f.d = 0x43 →
        ∃ t, exec (.shardRestoreTimeout n) s = .next t ∧ (t.part n).mirror.st = .lost ∧ (t.part n).mirror.shardLost = true ∧ (t.part n).mirror.job = none ∧
          (t.part n).steps = [] ∧ (t.ring n r).flights = (s.ring n r).flights.map (fun g => if g.seq = f.seq then
            { g with phase := .done, status := stShardLost, detail := BitVec.ofNat 160 (s.part n).mirror.vouch } else g) ∧
          (∀ m, m ≠ n → t.part m = s.part m) ∧ ∀ k g, openVerdict t n k g ≠ none)

/-- Requests to the host that fail (R373, R394). A descriptor read stops its ring in FAULT: it issues nothing until RESUME. A completion write stops its ring in FAULT, HEAD goes back and does not pass the completion, which waits to be written again. A failed event write takes the entry back, and like a failed interrupt message it is counted in DROPPED and lost. -/
def Obligations.FailedHostRequestsAreTold : Prop :=
  ∀ (s : State) (n : Fin 16) (r : Fin 8),
    (mayIssue s n r = true →
      ∃ t, exec (.hostRequestFailure (.fetch n r)) s = .next t ∧ (t.ring n r) = { s.ring n r with stop := .fetchFault } ∧ mayIssue t n r = false ∧
        ringState (t.ring n r) = 4 ∧ t = { s with fns := t.fns, host := t.host, out := t.out } ∧ ∀ m, m ≠ n → t.fn m = s.fn m) ∧
    (∀ l, mayDma s n = true → atRest s n = true → (s.ring n r).failed = [] → (s.ring n r).last = some l →
      ∃ t, exec (.hostRequestFailure (.completion n r)) s = .next t ∧ t.ring n r = { s.ring n r with
          head := l.head, written := l.written, failed := [(l.addr, l.bytes, l.irq)], last := none, stop := .completionFault } ∧
        mayIssue t n r = false ∧ t = { s with fns := t.fns, host := t.host, out := t.out } ∧ ∀ m, m ≠ n → t.fn m = s.fn m) ∧
    (∀ a old, Memory.wf s = true → (s.fn n).evt.last = some (a, old) → (s.fn n).evt.prod ≠ (s.fn n).evt.head → a + old.length ≤ 2 ^ 64 →
      ∃ t, exec (.hostRequestFailure (.event n)) s = .next t ∧ onlyFn n { s with host := t.host } t ∧
        t.fn n = { s.fn n with evt := { (s.fn n).evt with
          prod := ((s.fn n).evt.prod + 2 ^ 32 - 1) % 2 ^ 32, last := none, dropped := min 65535 ((s.fn n).evt.dropped + 1) } } ∧
        (∀ i, i < old.length → Sparse.get 0 t.host (a + i) = old.getD i 0) ∧
        ∀ i, (i < a ∨ a + old.length ≤ i) → Sparse.get 0 t.host i = Sparse.get 0 s.host i) ∧
    (∀ x ∈ s.out.posted, x.kind = .message → x.fn = n.val →
      ∃ t, exec (.hostRequestFailure (.message n)) s = .next t ∧ onlyFn n s t ∧
        t.fn n = { s.fn n with evt := { (s.fn n).evt with dropped := min 65535 ((s.fn n).evt.dropped + 1) } })
/-! ### Identity and the management port -/
end

