-- ==== Sys2Proof/Laws/Sparse.lean ====
section
/-! SUPPORT. Laws of sparse tables: a read after a write, and every operation keeps the canonical form. -/
namespace Sys2Proof.Machine.Sparse

variable {α : Type}

theorem get_insert_same (d : α) (l : List (Nat × α)) (k : Nat) (v : α) : get d (insert l k v) k = v := by
  induction l with
  | nil => simp [insert, get]
  | cons e t ih =>
    obtain ⟨a, w⟩ := e
    simp only [insert]
    split
    · simp [get]
    · split
      · simp [get]
      · rename_i h; simp [get, h, ih]

theorem get_insert_other (d : α) (l : List (Nat × α)) {k j : Nat} (v : α) (h : j ≠ k) : get d (insert l k v) j = get d l j := by
  induction l with
  | nil => simp [insert, get, h]
  | cons e t ih =>
    obtain ⟨a, w⟩ := e
    simp only [insert]
    split
    · simp [get, h]
    · split
      · rename_i h2; subst h2; simp [get, h]
      · simp [get, ih]

theorem get_erase_other (d : α) (l : List (Nat × α)) {k j : Nat} (h : j ≠ k) : get d (erase l k) j = get d l j := by
  induction l with
  | nil => rfl
  | cons e t ih =>
    obtain ⟨a, w⟩ := e
    simp only [erase]
    split
    · rename_i h2; subst h2; simp [get, h]
    · simp [get, ih]

/-- A write leaves every other key as it was. -/
theorem get_put_other [DecidableEq α] (d : α) (l : List (Nat × α)) {k j : Nat} (v : α) (h : j ≠ k) : get d (put d l k v) j = get d l j := by
  unfold put; split
  · exact get_erase_other d l h
  · exact get_insert_other d l v h

theorem above_mono {l : List (Nat × α)} {a b : Nat} (h : above l b = true) (hab : a ≤ b) : above l a = true := by
  cases l with
  | nil => rfl
  | cons e t => obtain ⟨k, v⟩ := e; simp only [above, decide_eq_true_eq] at *; omega

variable [DecidableEq α]

theorem wf_cons {d : α} {a : Nat} {v : α} {t : List (Nat × α)} : wf d ((a, v) :: t) = true ↔ v ≠ d ∧ above t a = true ∧ wf d t = true := by
  simp [wf, and_assoc]

/-- A key that lies above nothing listed reads as the default. -/
theorem get_above {d : α} {l : List (Nat × α)} {k : Nat} (hw : wf d l = true) (h : above l k = true) : get d l k = d := by
  induction l with
  | nil => rfl
  | cons e t ih =>
    obtain ⟨a, v⟩ := e
    obtain ⟨-, h2, h3⟩ := wf_cons.1 hw
    simp only [above, decide_eq_true_eq] at h
    rw [get, if_neg (by omega)]
    exact ih h3 (above_mono h2 (Nat.le_of_lt h))

theorem get_erase_same {d : α} {l : List (Nat × α)} {k : Nat} (hw : wf d l = true) : get d (erase l k) k = d := by
  induction l with
  | nil => rfl
  | cons e t ih =>
    obtain ⟨a, v⟩ := e
    obtain ⟨-, h2, h3⟩ := wf_cons.1 hw
    simp only [erase]
    split
    · rename_i hk; subst hk; exact get_above h3 h2
    · rename_i hk; simp [get, hk, ih h3]

/-- A read after a write to the same key gives the value written. -/
theorem get_put_same {d : α} {l : List (Nat × α)} (k : Nat) (v : α) (hw : wf d l = true) : get d (put d l k v) k = v := by
  unfold put; split
  · rename_i h; rw [h]; exact get_erase_same hw
  · exact get_insert_same d l k v

theorem above_erase {d : α} {l : List (Nat × α)} {a k : Nat} (hw : wf d l = true) (h : above l a = true) : above (erase l k) a = true := by
  cases l with
  | nil => rfl
  | cons e t =>
    obtain ⟨b, v⟩ := e
    simp only [erase]
    split
    · exact above_mono (wf_cons.1 hw).2.1 (Nat.le_of_lt (by simpa [above] using h : a < b))
    · exact h

theorem erase_wf {d : α} {l : List (Nat × α)} (k : Nat) (hw : wf d l = true) : wf d (erase l k) = true := by
  induction l with
  | nil => rfl
  | cons e t ih =>
    obtain ⟨a, v⟩ := e
    obtain ⟨h1, h2, h3⟩ := wf_cons.1 hw
    simp only [erase]
    split
    · exact h3
    · exact wf_cons.2 ⟨h1, above_erase h3 h2, ih h3⟩

omit [DecidableEq α] in
theorem above_insert {l : List (Nat × α)} {a k : Nat} (v : α) (h : above l a = true) (hk : a < k) : above (insert l k v) a = true := by
  cases l with
  | nil => simpa [insert, above] using hk
  | cons e t =>
    obtain ⟨b, w⟩ := e
    simp only [insert]
    split
    · simpa [above] using hk
    · split
      · simpa [above] using hk
      · exact h

theorem insert_wf {d : α} {l : List (Nat × α)} (k : Nat) {v : α} (hv : v ≠ d) (hw : wf d l = true) : wf d (insert l k v) = true := by
  induction l with
  | nil => simp [insert, wf, above, hv]
  | cons e t ih =>
    obtain ⟨a, w⟩ := e
    obtain ⟨h1, h2, h3⟩ := wf_cons.1 hw
    simp only [insert]
    split
    · exact wf_cons.2 ⟨hv, by simpa [above] using ‹k < a›, hw⟩
    · split
      · rename_i hk; subst hk; exact wf_cons.2 ⟨hv, h2, h3⟩
      · exact wf_cons.2 ⟨h1, above_insert v h2 (by omega), ih h3⟩

/-- A write keeps the canonical form. -/
theorem put_wf {d : α} {l : List (Nat × α)} (k : Nat) (v : α) (hw : wf d l = true) : wf d (put d l k v) = true := by
  unfold put; split
  · exact erase_wf k hw
  · exact insert_wf k ‹_› hw

theorem above_filter {d : α} {l : List (Nat × α)} {a : Nat} (p : Nat × α → Bool) (hw : wf d l = true) (h : above l a = true) :
    above (l.filter p) a = true := by
  induction l with
  | nil => rfl
  | cons e t ih =>
    obtain ⟨b, v⟩ := e
    obtain ⟨-, h2, h3⟩ := wf_cons.1 hw
    by_cases hp : p (b, v) = true
    · simpa [List.filter_cons, hp, above] using h
    · simp only [List.filter_cons, hp]
      exact ih h3 (above_mono h2 (Nat.le_of_lt (by simpa [above] using h : a < b)))

/-- Dropping entries keeps the canonical form. -/
theorem filter_wf {d : α} {l : List (Nat × α)} (p : Nat × α → Bool) (hw : wf d l = true) : wf d (l.filter p) = true := by
  induction l with
  | nil => rfl
  | cons e t ih =>
    obtain ⟨b, v⟩ := e
    obtain ⟨h1, h2, h3⟩ := wf_cons.1 hw
    by_cases hp : p (b, v) = true
    · simp only [List.filter_cons, hp, if_true]
      exact wf_cons.2 ⟨h1, above_filter p h3 h2, ih h3⟩
    · simp only [List.filter_cons, hp]
      exact ih h3

end Sys2Proof.Machine.Sparse
end

