-- ==== Sys2Proof/Laws/Evolves.lean ====
section
/-! SUPPORT. What every operation of the model does to the parts of the state that rules about the whole machine speak of: it keeps a sound state sound, leaves the queue, the die-set serial and the life-cycle state alone, and never lowers the fused minimum SVN. The other files named Evolves… say it operation by operation. -/
namespace Sys2Proof.Machine

/-- From `s` to `t` the machine has done only what every operation may do. -/
structure Evolves (s t : State) : Prop where
  sound : Sound s → Sound t
  queue : t.pending = s.pending
  serial : t.lcs.serial = s.lcs.serial
  svn : s.lcs.svnMin ≤ t.lcs.svnMin
  life : t.lcs.state = s.lcs.state

theorem Evolves.refl (s : State) : Evolves s s := ⟨id, rfl, rfl, Nat.le_refl _, rfl⟩

theorem Evolves.trans {a b c : State} (h : Evolves a b) (g : Evolves b c) : Evolves a c :=
  ⟨g.sound ∘ h.sound, g.queue.trans h.queue, g.serial.trans h.serial, Nat.le_trans h.svn g.svn, g.life.trans h.life⟩

/-- A sound state stays sound where none of its memories, logs and images changes. -/
theorem sound_congr {s t : State} (h : Sound s) (h1 : t.sram = s.sram) (h2 : t.transom = s.transom) (h3 : t.host = s.host)
    (h4 : t.cistern = s.cistern) (h5 : t.ras = s.ras) (h6 : t.cfg = s.cfg) : Sound t := by
  obtain ⟨a, b, c, d, e⟩ := h
  constructor
  · simpa [Memory.wf, h1, h2, h3, h4] using a
  · rwa [h5]
  · rwa [h6]
  · rwa [h6]
  · rwa [h6]

/-- A step that changes none of the memories, logs, images and fuses. -/
theorem Evolves.congr {s0 s t : State} (h : Evolves s0 s) (h0 : t.pending = s.pending) (h1 : t.sram = s.sram) (h2 : t.transom = s.transom)
    (h3 : t.host = s.host) (h4 : t.cistern = s.cistern) (h5 : t.ras = s.ras) (h6 : t.cfg = s.cfg)
    (h7 : t.lcs.serial = s.lcs.serial) (h8 : t.lcs.svnMin = s.lcs.svnMin) (h9 : t.lcs.state = s.lcs.state) : Evolves s0 t :=
  h.trans ⟨fun x => sound_congr x h1 h2 h3 h4 h5 h6, h0, h7, Nat.le_of_eq h8.symm, h9⟩

/-- A record update that touches none of them. -/
theorem evolves_update {s0 s : State} {a1 a2 a3 a4 a5 a6 a7 a8 a9 a10 a11 a12 a13 a14 a15 a16 a17 a18 a19 a20 a21 a22} :
    Evolves s0 (State.mk s.pending s.sram a1 s.transom s.host s.cistern a2 a3 a4 a5 a6 a7 a8 a9 a10 a11 s.cfg a12 a13 a14 s.lcs a15 s.ras a16 a17 a18 a19 a20 a21 a22)
      ↔ Evolves s0 s :=
  ⟨fun h => h.congr rfl rfl rfl rfl rfl rfl rfl rfl rfl rfl, fun h => h.congr rfl rfl rfl rfl rfl rfl rfl rfl rfl rfl⟩

/-- A record update that touches the controller's registers and none of the fuses. -/
theorem Evolves.updateLcs {s0 s : State} {a1 a2 a3 a4 a5 a6 a7 a8 a9 a10 a11 a12 a13 a14 a15 a16 a17 a18 a19 a20 a21 a22} {l : Lcs}
    (h : Evolves s0 s) (h7 : l.serial = s.lcs.serial) (h8 : l.svnMin = s.lcs.svnMin) (h9 : l.state = s.lcs.state) :
    Evolves s0 (State.mk s.pending s.sram a1 s.transom s.host s.cistern a2 a3 a4 a5 a6 a7 a8 a9 a10 a11 s.cfg a12 a13 a14 l a15 s.ras a16 a17 a18 a19 a20 a21 a22) :=
  h.congr rfl rfl rfl rfl rfl rfl rfl h7 h8 h9

/-- A write to the memories that keeps their form. -/
theorem Evolves.memory {s t : State} (h0 : t.pending = s.pending) (h1 : Sparse.wf 0 s.sram = true → Sparse.wf 0 t.sram = true)
    (h2 : Sparse.wf 0 s.transom = true → Sparse.wf 0 t.transom = true) (h3 : Sparse.wf 0 s.host = true → Sparse.wf 0 t.host = true)
    (h4 : Sparse.wf wordZero s.cistern = true → Sparse.wf wordZero t.cistern = true) (h5 : t.ras = s.ras) (h6 : t.cfg = s.cfg)
    (h7 : t.lcs = s.lcs) : Evolves s t := by
  refine ⟨fun h => ?_, h0, by rw [h7], Nat.le_of_eq (by rw [h7]), by rw [h7]⟩
  obtain ⟨a, b, c, d, e⟩ := h
  simp only [Memory.wf, Bool.and_eq_true] at a
  exact ⟨by simp only [Memory.wf, Bool.and_eq_true]; exact ⟨⟨⟨h1 a.1.1.1, h2 a.1.1.2⟩, h3 a.1.2⟩, h4 a.2⟩, by rwa [h5], by rwa [h6],
    by rwa [h6], by rwa [h6]⟩

/-- A record update that drops SRAM bytes and cistern words. -/
theorem Evolves.dropMem {s0 s : State} {m : List (Nat × Byte)} {c : List (Nat × CWord)}
    {a1 a2 a3 a4 a5 a6 a7 a8 a9 a10 a11 a12 a13 a14 a15 a16 a17 a18 a19 a20 a21 a22} (h : Evolves s0 s)
    (h1 : Sparse.wf 0 s.sram = true → Sparse.wf 0 m = true) (h4 : Sparse.wf wordZero s.cistern = true → Sparse.wf wordZero c = true) :
    Evolves s0 (State.mk s.pending m a1 s.transom s.host c a2 a3 a4 a5 a6 a7 a8 a9 a10 a11 s.cfg a12 a13 a14 s.lcs a15 s.ras a16 a17 a18 a19 a20 a21 a22) :=
  h.trans (Evolves.memory rfl h1 id id h4 rfl rfl rfl)

/-- A change of the RAS log that keeps its bound. -/
theorem Evolves.log {s t : State} (h0 : t.pending = s.pending) (h1 : t.sram = s.sram) (h2 : t.transom = s.transom)
    (h3 : t.host = s.host) (h4 : t.cistern = s.cistern) (h5 : t.ras.length ≤ 256) (h6 : t.cfg = s.cfg)
    (h7 : t.lcs.serial = s.lcs.serial) (h8 : t.lcs.svnMin = s.lcs.svnMin) (h9 : t.lcs.state = s.lcs.state) : Evolves s t := by
  refine ⟨fun h => ?_, h0, h7, Nat.le_of_eq h8.symm, h9⟩
  obtain ⟨a, b, c, d, e⟩ := h
  exact ⟨by simpa [Memory.wf, h1, h2, h3, h4] using a, h5, by rwa [h6], by rwa [h6], by rwa [h6]⟩

/-- A change of the staged configuration that keeps its images legal. -/
theorem Evolves.config {s t : State} (h0 : t.pending = s.pending) (h1 : t.sram = s.sram) (h2 : t.transom = s.transom)
    (h3 : t.host = s.host) (h4 : t.cistern = s.cistern) (h5 : t.ras = s.ras)
    (h6 : s.cfg.clampLog.length ≤ 64 → t.cfg.clampLog.length ≤ 64)
    (h7 : legalMap s.cfg.committed = true → legalMap s.cfg.force = true → legalMap t.cfg.committed = true ∧ legalMap t.cfg.force = true)
    (h8 : t.lcs = s.lcs) : Evolves s t := by
  refine ⟨fun h => ?_, h0, by rw [h8], Nat.le_of_eq (by rw [h8]), by rw [h8]⟩
  obtain ⟨a, b, c, d, e⟩ := h
  exact ⟨by simpa [Memory.wf, h1, h2, h3, h4] using a, by rwa [h5], h6 c, (h7 d e).1, (h7 d e).2⟩

/-- A fold evolves where each of its steps does. -/
theorem Evolves.foldl {α : Type} {s0 : State} {f : State → α → State} {l : List α} {s : State} (h : Evolves s0 s)
    (hf : ∀ t x, Evolves s0 t → Evolves s0 (f t x)) : Evolves s0 (l.foldl f s) := by
  induction l generalizing s with
  | nil => exact h
  | cons x l ih => exact ih (hf s x h)

/-- The same for a fold that carries something beside the state. -/
theorem Evolves.foldl_fst {α β : Type} {s0 : State} {f : State × β → α → State × β} {l : List α} {a : State × β} (h : Evolves s0 a.1)
    (hf : ∀ t x, Evolves s0 t.1 → Evolves s0 (f t x).1) : Evolves s0 (l.foldl f a).1 := by
  induction l generalizing a with
  | nil => exact h
  | cons x l ih => exact ih (hf a x h)

theorem Evolves.of_fst {β : Type} {s0 t : State} {p : State × β} {b : β} (e : p = (t, b)) (h : Evolves s0 p.1) : Evolves s0 t := by
  rwa [e] at h

/-- Every next state that a command may answer has evolved. -/
def Evolved (s0 : State) (r : Result) : Prop := ∀ t, r = .next t → Evolves s0 t

theorem Evolved.next {s0 t : State} (h : Evolves s0 t) : Evolved s0 (.next t) := by
  intro u hu; cases hu; exact h

theorem Evolved.fault {s0 : State} {r : Fault} : Evolved s0 (.fault r) := by
  intro u hu; cases hu

end Sys2Proof.Machine
end

