-- ==== Sys2Proof/Laws/EvolvesOps.lean ====
section
/-! SUPPORT. The operations of Machine/Ops.lean evolve the state (Laws/Evolves.lean). -/
namespace Sys2Proof.Machine

theorem State.setPart_evolves {s0 : State} {s : State} {n : Fin 16} {p : Part} (h : Evolves s0 s) : Evolves s0 (State.setPart s n p) := by
  unfold State.setPart
  repeat' first
    | with_reducible assumption
    | simp only [evolves_update]

theorem State.modPart_evolves {s0 : State} {s : State} {n : Fin 16} {f : Part → Part} (h : Evolves s0 s) : Evolves s0 (State.modPart s n f) := by
  unfold State.modPart
  repeat' first
    | with_reducible assumption
    | with_reducible apply State.setPart_evolves

theorem State.setFn_evolves {s0 : State} {s : State} {n : Fin 16} {f : Fn} (h : Evolves s0 s) : Evolves s0 (State.setFn s n f) := by
  unfold State.setFn
  repeat' first
    | with_reducible assumption
    | simp only [evolves_update]

theorem State.modFn_evolves {s0 : State} {s : State} {n : Fin 16} {g : Fn → Fn} (h : Evolves s0 s) : Evolves s0 (State.modFn s n g) := by
  unfold State.modFn
  repeat' first
    | with_reducible assumption
    | with_reducible apply State.setFn_evolves

theorem State.setRing_evolves {s0 : State} {s : State} {n : Fin 16} {r : Fin 8} {x : Ring} (h : Evolves s0 s) : Evolves s0 (State.setRing s n r x) := by
  unfold State.setRing
  repeat' first
    | with_reducible assumption
    | with_reducible apply State.modFn_evolves

theorem State.modRing_evolves {s0 : State} {s : State} {n : Fin 16} {r : Fin 8} {g : Ring → Ring} (h : Evolves s0 s) : Evolves s0 (State.modRing s n r g) := by
  unfold State.modRing
  repeat' first
    | with_reducible assumption
    | with_reducible apply State.setRing_evolves

theorem State.setPort_evolves {s0 : State} {s : State} {n : Fin 24} {p : Port} (h : Evolves s0 s) : Evolves s0 (State.setPort s n p) := by
  unfold State.setPort
  repeat' first
    | with_reducible assumption
    | simp only [evolves_update]

theorem State.modPort_evolves {s0 : State} {s : State} {n : Fin 24} {f : Port → Port} (h : Evolves s0 s) : Evolves s0 (State.modPort s n f) := by
  unfold State.modPort
  repeat' first
    | with_reducible assumption
    | with_reducible apply State.setPort_evolves

theorem State.count_evolves {s0 : State} {s : State} {n : Fin 16} {i k : Nat} (h : Evolves s0 s) : Evolves s0 (State.count s n i k) := by
  unfold State.count
  repeat' first
    | with_reducible assumption
    | with_reducible apply State.modPart_evolves

theorem State.countPort_evolves {s0 : State} {s : State} {n : Fin 24} {i k : Nat} (h : Evolves s0 s) : Evolves s0 (State.countPort s n i k) := by
  unfold State.countPort
  repeat' first
    | with_reducible assumption
    | with_reducible apply State.modPort_evolves

theorem State.draw_evolves {s0 s : State} (h : Evolves s0 s) : Evolves s0 (State.draw s).2 := evolves_update.2 h

theorem writeByte_evolves {s0 s : State} {a : Nat} {b : Byte} (h : Evolves s0 s) : Evolves s0 (writeByte s a b) := by
  unfold writeByte
  split
  · split
    · exact h.trans (Evolves.memory rfl (Sparse.put_wf _ _) id id id rfl rfl rfl)
    · exact h
  · exact h.trans (Evolves.memory rfl id (Sparse.put_wf _ _) id id rfl rfl rfl)
  · exact h.trans (Evolves.memory rfl id id (Sparse.put_wf _ _) id rfl rfl rfl)
  · exact h

theorem memWrite_evolves {s0 s : State} {a : Nat} {bs : List Byte} (h : Evolves s0 s) : Evolves s0 (memWrite s a bs) := by
  induction bs generalizing s a with
  | nil => exact h
  | cons b bs ih => exact ih (writeByte_evolves h)

theorem hostWrite_evolves {s0 s : State} {a : Nat} {bs : List Byte} (h : Evolves s0 s) : Evolves s0 (hostWrite s a bs) := by
  induction bs generalizing s a with
  | nil => exact h
  | cons b bs ih => exact ih (h.trans (Evolves.memory rfl id id (Sparse.put_wf _ _) id rfl rfl rfl))

theorem State.post_evolves {s0 : State} {s : State} {n : Fin 16} {relaxed : Bool} {k : PostKind} {a : Nat} {bs : List Byte} (h : Evolves s0 s) : Evolves s0 (State.post s n relaxed k a bs) := by
  unfold State.post
  repeat' first
    | with_reducible assumption
    | simp only [evolves_update]

theorem stepWrite_evolves {s0 : State} {s : State} {n : Fin 16} {st : Option Nat} {a : Nat} {bs : List Byte} (h : Evolves s0 s) : Evolves s0 (stepWrite s n st a bs) := by
  unfold stepWrite
  dsimp only
  repeat' first
    | with_reducible assumption
    | with_reducible apply memWrite_evolves
    | with_reducible apply State.post_evolves
    | with_reducible apply State.modPart_evolves
    | simp only [evolves_update]
    | intro _
    | split

theorem sendVector_evolves {s0 : State} {s : State} {n : Fin 16} {v : Nat} (h : Evolves s0 s) : Evolves s0 (sendVector s n v) := by
  unfold sendVector
  dsimp only
  repeat' first
    | with_reducible assumption
    | with_reducible apply State.setFn_evolves
    | with_reducible apply State.post_evolves
    | simp only [evolves_update]
    | intro _
    | split

theorem eventIrq_evolves {s0 : State} {s : State} {n : Fin 16} (h : Evolves s0 s) : Evolves s0 (eventIrq s n) := by
  unfold eventIrq
  dsimp only
  repeat' first
    | with_reducible assumption
    | with_reducible apply sendVector_evolves
    | with_reducible apply State.modFn_evolves
    | simp only [evolves_update]
    | intro _
    | split

theorem event_evolves {s0 : State} {s : State} {n : Fin 16} {code ring step : Nat} {detail : List (Nat × Nat × Nat × Nat)} (h : Evolves s0 s) : Evolves s0 (event s n code ring step detail) := by
  unfold event
  dsimp only
  repeat' first
    | with_reducible assumption
    | with_reducible apply hostWrite_evolves
    | with_reducible apply State.post_evolves
    | with_reducible apply eventIrq_evolves
    | with_reducible apply State.modFn_evolves
    | simp only [evolves_update]
    | intro _
    | split

theorem rasLog_evolves {s0 s : State} {cause action : Nat} {part : Option (Fin 16)} {addr unit : Nat} (h : Evolves s0 s) :
    Evolves s0 (rasLog s cause action part addr unit) := by
  unfold rasLog
  split
  · rename_i hl
    dsimp only [State.draw]
    apply event_evolves
    split
    · exact h.trans (Evolves.log rfl rfl rfl rfl rfl (by rw [List.length_append]; exact hl) rfl rfl rfl rfl)
    · exact h.trans (Evolves.log rfl rfl rfl rfl rfl (by rw [List.length_append]; exact hl) rfl rfl rfl rfl)
  · exact evolves_update.2 h

theorem moderate_evolves {s0 : State} {s : State} {n : Fin 16} {r : Fin 8} {irq : Bool} (h : Evolves s0 s) : Evolves s0 (moderate s n r irq) := by
  unfold moderate
  dsimp only
  repeat' first
    | with_reducible assumption
    | with_reducible apply sendVector_evolves
    | with_reducible apply State.modRing_evolves
    | simp only [evolves_update]
    | intro _
    | split

theorem complete_evolves {s0 : State} {s : State} {n : Fin 16} {r : Fin 8} {seq status opcode : Nat} {step : Option Nat} {detail : BitVec 160} {irq : Bool} (h : Evolves s0 s) : Evolves s0 (complete s n r seq status opcode step detail irq) := by
  unfold complete
  dsimp only
  repeat' first
    | with_reducible assumption
    | with_reducible apply hostWrite_evolves
    | with_reducible apply State.post_evolves
    | with_reducible apply State.modRing_evolves
    | with_reducible apply moderate_evolves
    | simp only [evolves_update]
    | intro _
    | split

end Sys2Proof.Machine
end

