-- ==== Sys2Proof/Laws/EvolvesOperands.lean ====
section
/-! SUPPORT. The operations of Machine/Operands.lean evolve the state (Laws/Evolves.lean). -/
namespace Sys2Proof.Machine

theorem writeCode_evolves {s0 : State} {s : State} {n : Fin 16} {st : Option Nat} {t : Tensor} {x : Idx} {v : Nat} (h : Evolves s0 s) : Evolves s0 (writeCode s n st t x v) := by
  unfold writeCode
  dsimp only
  repeat' first
    | with_reducible assumption
    | with_reducible apply stepWrite_evolves
    | with_reducible apply Evolves.foldl
    | intro _

theorem writeFine_evolves {s0 : State} {s : State} {n : Fin 16} {st : Option Nat} {t : Tensor} {x : Idx} {v : Nat} (h : Evolves s0 s) : Evolves s0 (writeFine s n st t x v) := by
  unfold writeFine
  repeat' first
    | with_reducible assumption
    | with_reducible apply stepWrite_evolves
    | with_reducible apply Evolves.foldl
    | intro _

theorem padBlock_evolves {s0 : State} {s : State} {n : Fin 16} {st : Option Nat} {t : Tensor} {x : Idx} (h : Evolves s0 s) : Evolves s0 (padBlock s n st t x) := by
  unfold padBlock
  repeat' first
    | with_reducible assumption
    | with_reducible apply writeCode_evolves
    | simp only [evolves_update]
    | with_reducible apply Evolves.foldl
    | intro _

theorem putWord_evolves {s0 s : State} {w : Nat} {x : CWord} (h : Evolves s0 s) : Evolves s0 (putWord s w x) :=
  h.trans (Evolves.memory rfl id id id (Sparse.put_wf _ _) rfl rfl rfl)

theorem State.enqueue_evolves {s0 : State} {s : State} {ops : List LaneOp} (h : Evolves s0 s) : Evolves s0 (State.enqueue s ops) := by
  unfold State.enqueue
  repeat' first
    | with_reducible assumption
    | simp only [evolves_update]

end Sys2Proof.Machine
end

