-- ==== Sys2Proof/Laws/EvolvesSteps.lean ====
section
/-! SUPPORT. The operations of Machine/Steps.lean evolve the state (Laws/Evolves.lean). -/
namespace Sys2Proof.Machine

theorem modStep_evolves {s0 : State} {s : State} {n : Fin 16} {k : Nat} {f : StepRec → StepRec} (h : Evolves s0 s) : Evolves s0 (modStep s n k f) := by
  unfold modStep
  repeat' first
    | with_reducible assumption
    | with_reducible apply State.modPart_evolves

theorem completeSealsRing_evolves {s0 : State} {s : State} {n : Fin 16} {r : Fin 8} {k status : Nat} {detail : BitVec 160} (h : Evolves s0 s) : Evolves s0 (completeSealsRing s n r k status detail) := by
  unfold completeSealsRing
  dsimp only
  repeat' first
    | with_reducible assumption
    | with_reducible apply State.modRing_evolves
    | with_reducible apply complete_evolves
    | simp only [evolves_update]
    | with_reducible apply Evolves.foldl
    | intro _

theorem completeSeals_evolves {s0 : State} {s : State} {n : Fin 16} {k status : Nat} {detail : BitVec 160} (h : Evolves s0 s) : Evolves s0 (completeSeals s n k status detail) := by
  unfold completeSeals
  repeat' first
    | with_reducible assumption
    | with_reducible apply completeSealsRing_evolves
    | with_reducible apply Evolves.foldl
    | intro _

theorem abortStep_evolves {s0 : State} {s : State} {n : Fin 16} {k : Nat} (h : Evolves s0 s) : Evolves s0 (abortStep s n k) := by
  unfold abortStep
  repeat' first
    | with_reducible assumption
    | with_reducible apply completeSeals_evolves
    | with_reducible apply modStep_evolves
    | simp only [evolves_update]
    | intro _
    | split

theorem abortSteps_evolves {s0 : State} {s : State} {n : Fin 16} {sel : Nat → Bool} (h : Evolves s0 s) : Evolves s0 (abortSteps s n sel) := by
  unfold abortSteps
  repeat' first
    | with_reducible assumption
    | with_reducible apply abortStep_evolves
    | with_reducible apply Evolves.foldl
    | intro _

theorem holdPlace_evolves {s0 : State} {s : State} {n : Fin 16} {r : Fin 8} (h : Evolves s0 s) : Evolves s0 (holdPlace s n r) := by
  unfold holdPlace
  repeat' first
    | with_reducible assumption
    | with_reducible apply State.modRing_evolves
    | simp only [evolves_update]
    | intro _
    | split

theorem abortHeld_evolves {s0 : State} {s : State} {n : Fin 16} (h : Evolves s0 s) : Evolves s0 (abortHeld s n) := by
  unfold abortHeld
  repeat' first
    | with_reducible assumption
    | with_reducible apply holdPlace_evolves
    | with_reducible apply State.modRing_evolves
    | simp only [evolves_update]
    | with_reducible apply Evolves.foldl
    | intro _

theorem failStep_evolves {s0 : State} {s : State} {n : Fin 16} {k bits : Nat} (h : Evolves s0 s) : Evolves s0 (failStep s n k bits) := by
  unfold failStep
  dsimp only
  repeat' first
    | with_reducible assumption
    | with_reducible apply modStep_evolves
    | with_reducible apply completeSeals_evolves
    | with_reducible apply abortSteps_evolves
    | with_reducible apply State.modPart_evolves
    | with_reducible apply abortHeld_evolves
    | simp only [evolves_update]
    | intro _
    | split

theorem failStepOf_evolves {s0 : State} {s : State} {n : Fin 16} {st : Option Nat} {bits : Nat} (h : Evolves s0 s) : Evolves s0 (failStepOf s n st bits) := by
  unfold failStepOf
  repeat' first
    | with_reducible assumption
    | with_reducible apply failStep_evolves
    | simp only [evolves_update]
    | intro _
    | split

theorem modFlights_evolves {s0 : State} {s : State} {n : Fin 16} {r : Fin 8} {g : Flight → Flight} (h : Evolves s0 s) : Evolves s0 (modFlights s n r g) := by
  unfold modFlights
  repeat' first
    | with_reducible assumption
    | with_reducible apply State.modRing_evolves

theorem modFlight_evolves {s0 : State} {s : State} {n : Fin 16} {r : Fin 8} {seq : Nat} {g : Flight → Flight} (h : Evolves s0 s) : Evolves s0 (modFlight s n r seq g) := by
  unfold modFlight
  repeat' first
    | with_reducible assumption
    | with_reducible apply modFlights_evolves

theorem endFlight_evolves {s0 : State} {s : State} {n : Fin 16} {r : Fin 8} {seq status : Nat} {detail : BitVec 160} (h : Evolves s0 s) : Evolves s0 (endFlight s n r seq status detail) := by
  unfold endFlight
  dsimp only
  repeat' first
    | with_reducible assumption
    | with_reducible apply modFlight_evolves
    | with_reducible apply failStepOf_evolves
    | simp only [evolves_update]
    | intro _
    | split

end Sys2Proof.Machine
end

