-- ==== Sys2Proof/Laws/EvolvesLinks.lean ====
section
/-! SUPPORT. The operations of Machine/Links.lean evolve the state (Laws/Evolves.lean). -/
namespace Sys2Proof.Machine

theorem portEvent_evolves {s0 : State} {s : State} {n : Fin 24} {code b13 b14 : Nat} (h : Evolves s0 s) : Evolves s0 (portEvent s n code b13 b14) := by
  unfold portEvent
  dsimp only
  repeat' first
    | with_reducible assumption
    | with_reducible apply event_evolves

theorem pump_evolves {s0 : State} {s : State} {n : Fin 24} (h : Evolves s0 s) : Evolves s0 (pump s n) := by
  unfold pump
  repeat' first
    | with_reducible assumption
    | with_reducible apply State.modPort_evolves

theorem sendParcel_evolves {s0 : State} {s : State} {n : Fin 24} {part : Fin 16} {step vl : Nat} {fields : List (Nat × Nat × Nat × Nat)} {payload : List Byte} (h : Evolves s0 s) : Evolves s0 (sendParcel s n part step vl fields payload) := by
  unfold sendParcel
  dsimp only
  repeat' first
    | with_reducible assumption
    | with_reducible apply pump_evolves
    | with_reducible apply State.modPort_evolves
    | simp only [evolves_update]
    | intro _
    | split

theorem returnCredits_evolves {s0 : State} {s : State} {n : Fin 24} {x : Parcel} (h : Evolves s0 s) : Evolves s0 (returnCredits s n x) := by
  unfold returnCredits
  repeat' first
    | with_reducible assumption
    | with_reducible apply State.modPort_evolves

theorem loseUnverified_evolves {s0 : State} {s : State} {n : Fin 24} (h : Evolves s0 s) : Evolves s0 (loseUnverified s n) := by
  unfold loseUnverified
  dsimp only
  repeat' first
    | with_reducible assumption
    | with_reducible apply failStep_evolves
    | with_reducible apply State.modPort_evolves
    | simp only [evolves_update]
    | with_reducible apply Evolves.foldl
    | intro _
    | split

theorem endPortOpWith_evolves {s0 : State} {s : State} {port : Fin 24} {op status : Nat} {detail : BitVec 160} (h : Evolves s0 s) : Evolves s0 (endPortOpWith s port op status detail) := by
  unfold endPortOpWith
  repeat' first
    | with_reducible assumption
    | with_reducible apply endFlight_evolves
    | with_reducible apply Evolves.foldl
    | intro _

theorem endPortOp_evolves {s0 : State} {s : State} {port : Fin 24} {op status : Nat} (h : Evolves s0 s) : Evolves s0 (endPortOp s port op status) := by
  unfold endPortOp
  repeat' first
    | with_reducible assumption
    | with_reducible apply endPortOpWith_evolves

theorem flap_evolves {s0 : State} {s : State} {n : Fin 24} (h : Evolves s0 s) : Evolves s0 (flap s n) := by
  unfold flap
  dsimp only [State.draw]
  repeat' first
    | with_reducible assumption
    | with_reducible apply portEvent_evolves
    | with_reducible apply State.modPort_evolves
    | simp only [evolves_update]
    | intro _
    | split

theorem portDown_evolves {s0 : State} {s : State} {n : Fin 24} (h : Evolves s0 s) : Evolves s0 (portDown s n) := by
  unfold portDown
  dsimp only
  repeat' first
    | with_reducible assumption
    | with_reducible apply portEvent_evolves
    | with_reducible apply loseUnverified_evolves
    | with_reducible apply endPortOp_evolves
    | with_reducible apply State.modPort_evolves
    | with_reducible apply flap_evolves
    | simp only [evolves_update]
    | intro _
    | split

theorem joinPort_evolves {s0 : State} {s : State} {n : Fin 24} (h : Evolves s0 s) : Evolves s0 (joinPort s n) := by
  unfold joinPort
  repeat' first
    | with_reducible assumption
    | with_reducible apply pump_evolves
    | with_reducible apply State.modPort_evolves

theorem leavePort_evolves {s0 : State} {s : State} {n : Fin 24} {flag : Bool} (h : Evolves s0 s) : Evolves s0 (leavePort s n flag) := by
  unfold leavePort
  repeat' first
    | with_reducible assumption
    | with_reducible apply loseUnverified_evolves
    | with_reducible apply State.modPort_evolves

end Sys2Proof.Machine
end

