-- ==== Sys2Proof/Laws/EvolvesLanes.lean ====
section
/-! SUPPORT. The operations of Machine/Lanes.lean evolve the state (Laws/Evolves.lean). -/
namespace Sys2Proof.Machine

theorem noteNarrow_evolves {s0 : State} {s : State} {q : Fin 24} {w : Nat} (h : Evolves s0 s) : Evolves s0 (noteNarrow s q w) := by
  unfold noteNarrow
  repeat' first
    | with_reducible assumption
    | with_reducible apply rasLog_evolves
    | with_reducible apply portEvent_evolves

theorem settleTx_evolves {s0 : State} {s : State} {q : Fin 24} (h : Evolves s0 s) : Evolves s0 (settleTx s q) := by
  unfold settleTx
  dsimp only
  repeat' first
    | with_reducible assumption
    | with_reducible apply State.modPort_evolves
    | with_reducible apply noteNarrow_evolves
    | simp only [evolves_update]
    | intro _
    | split

theorem settleRx_evolves {s0 : State} {s : State} {q : Fin 24} (h : Evolves s0 s) : Evolves s0 (settleRx s q) := by
  unfold settleRx
  dsimp only
  repeat' first
    | with_reducible assumption
    | with_reducible apply noteNarrow_evolves
    | with_reducible apply State.modPort_evolves
    | simp only [evolves_update]
    | intro _
    | split

end Sys2Proof.Machine
end

