-- ==== Sys2Proof/Laws/EvolvesCollFields.lean ====
section
/-! SUPPORT. The operations of Machine/CollFields.lean evolve the state (Laws/Evolves.lean). -/
namespace Sys2Proof.Machine

theorem scramble_evolves {s0 : State} {s : State} {n : Fin 16} {st : Option Nat} {rs : List (Nat × Nat)} (h : Evolves s0 s) : Evolves s0 (scramble s n st rs) := by
  unfold scramble
  dsimp only [State.draw]
  repeat' first
    | with_reducible assumption
    | with_reducible apply stepWrite_evolves
    | simp only [evolves_update]
    | with_reducible apply Evolves.foldl
    | intro _

theorem scrambleWords_evolves {s0 : State} {s : State} {ws : List Nat} (h : Evolves s0 s) : Evolves s0 (scrambleWords s ws) := by
  unfold scrambleWords
  dsimp only [State.draw]
  repeat' first
    | with_reducible assumption
    | with_reducible apply putWord_evolves
    | simp only [evolves_update]
    | with_reducible apply Evolves.foldl
    | intro _

theorem spoilColl_evolves {s0 : State} {s : State} {n : Fin 16} {r : Fin 8} {f : Flight} (h : Evolves s0 s) : Evolves s0 (spoilColl s n r f) := by
  unfold spoilColl
  dsimp only
  repeat' first
    | with_reducible assumption
    | with_reducible apply scrambleWords_evolves
    | with_reducible apply scramble_evolves
    | simp only [evolves_update]

end Sys2Proof.Machine
end

