-- ==== Sys2Proof/Laws/EvolvesClosure.lean ====
section
/-! SUPPORT. The operations of Machine/Closure.lean evolve the state (Laws/Evolves.lean). -/
namespace Sys2Proof.Machine

theorem setBsnMap_evolves {s0 : State} {s : State} {b : Nat} {w : Word} (h : Evolves s0 s) : Evolves s0 (setBsnMap s b w) := by
  unfold setBsnMap
  repeat' first
    | with_reducible assumption
    | simp only [evolves_update]

theorem substituteBank_evolves {s0 s : State} {n : Option (Fin 16)} {b bank : Nat} {copy : Bool} (h : Evolves s0 s) :
    Evolves s0 (substituteBank s n b bank copy) := by
  unfold substituteBank
  dsimp only
  split
  · exact h
  · apply rasLog_evolves
    split
    · exact evolves_update.2 h
    · exact Evolves.dropMem h id (Sparse.filter_wf _)

theorem substituteBasin_evolves {s0 s : State} {n : Option (Fin 16)} {b : Nat} {copy : Bool} (h : Evolves s0 s) :
    Evolves s0 (substituteBasin s n b copy) := by
  unfold substituteBasin
  have h1 : Evolves s0 (setBsnMap s.draw.2 b (BitVec.ofNat 32 (s.draw.1 % 136))) := setBsnMap_evolves (State.draw_evolves h)
  apply rasLog_evolves
  split
  · exact evolves_update.2 h1
  · exact Evolves.dropMem (evolves_update.2 h1) (Sparse.filter_wf _) (Sparse.filter_wf _)

theorem substituteArray_evolves {s0 : State} {s : State} {n : Fin 16} {b a : Nat} (h : Evolves s0 s) : Evolves s0 (substituteArray s n b a) := by
  unfold substituteArray
  dsimp only
  repeat' first
    | with_reducible assumption
    | with_reducible apply rasLog_evolves
    | with_reducible apply setBsnMap_evolves
    | with_reducible apply substituteBasin_evolves
    | simp only [evolves_update]
    | intro _
    | split

theorem substituteRow_evolves {s0 : State} {s : State} {n : Fin 16} {b a row : Nat} (h : Evolves s0 s) : Evolves s0 (substituteRow s n b a row) := by
  unfold substituteRow
  dsimp only
  repeat' first
    | with_reducible assumption
    | with_reducible apply substituteArray_evolves
    | with_reducible apply rasLog_evolves
    | with_reducible apply setBsnMap_evolves
    | simp only [evolves_update]
    | intro _
    | split

theorem closureSubstitute_evolves {s0 : State} {s : State} {n : Fin 16} {g : GateReq} (h : Evolves s0 s) : Evolves s0 (closureSubstitute s n g) := by
  unfold closureSubstitute
  dsimp only
  repeat' first
    | with_reducible assumption
    | with_reducible apply substituteRow_evolves
    | with_reducible apply substituteBank_evolves
    | with_reducible apply substituteBasin_evolves
    | with_reducible apply State.modPart_evolves
    | simp only [evolves_update]
    | intro _
    | split

theorem reserved_evolves {s0 : State} {s : State} (h : Evolves s0 s) : Evolves s0 (reserved s) := by
  unfold reserved
  repeat' first
    | with_reducible assumption
    | with_reducible apply closureSubstitute_evolves
    | with_reducible apply Evolves.foldl
    | intro _

theorem sendControl_evolves {s0 : State} {s : State} {n : Fin 16} {f : Flight} {c : Coll} {kind plane port : Nat} (h : Evolves s0 s) : Evolves s0 (sendControl s n f c kind plane port) := by
  unfold sendControl
  dsimp only
  repeat' first
    | with_reducible assumption
    | with_reducible apply sendParcel_evolves
    | simp only [evolves_update]
    | intro _
    | split

theorem sendAborts_evolves {s0 : State} {s : State} {n : Fin 16} {f : Flight} {skip : Option Nat} {kind : Nat} (h : Evolves s0 s) : Evolves s0 (sendAborts s n f skip kind) := by
  unfold sendAborts
  repeat' first
    | with_reducible assumption
    | with_reducible apply sendControl_evolves
    | simp only [evolves_update]
    | with_reducible apply Evolves.foldl
    | intro _
    | split

theorem closePlanes_evolves {s0 : State} {s : State} {n : Fin 16} {f : Flight} {c : Coll} (h : Evolves s0 s) : Evolves s0 (closePlanes s n f c) := by
  unfold closePlanes
  repeat' first
    | with_reducible assumption
    | with_reducible apply State.modPart_evolves
    | simp only [evolves_update]
    | with_reducible apply Evolves.foldl
    | intro _

theorem dropLaneOps_evolves {s0 : State} {s : State} {n : Fin 16} (h : Evolves s0 s) : Evolves s0 (dropLaneOps s n) := by
  unfold dropLaneOps
  dsimp only
  repeat' first
    | with_reducible assumption
    | with_reducible apply scrambleWords_evolves
    | simp only [evolves_update]

theorem abortFlights_evolves {s0 : State} {s : State} {n : Fin 16} {r : Fin 8} (h : Evolves s0 s) : Evolves s0 (abortFlights s n r) := by
  unfold abortFlights
  dsimp only
  repeat' first
    | with_reducible assumption
    | with_reducible apply holdPlace_evolves
    | with_reducible apply State.modRing_evolves
    | with_reducible apply complete_evolves
    | simp only [evolves_update]
    | with_reducible apply Evolves.foldl
    | intro _

theorem endSnapRequest_evolves {s0 : State} {s : State} {n : Fin 16} {ok : Bool} (h : Evolves s0 s) : Evolves s0 (endSnapRequest s n ok) := by
  unfold endSnapRequest
  repeat' first
    | with_reducible assumption
    | simp only [evolves_update]
    | intro _
    | split

theorem detach_evolves {s0 : State} {s : State} {n : Fin 16} (h : Evolves s0 s) : Evolves s0 (detach s n) := by
  unfold detach
  dsimp only
  repeat' first
    | with_reducible assumption
    | with_reducible apply State.modPart_evolves
    | with_reducible apply rasLog_evolves
    | with_reducible apply event_evolves

theorem stopJob_evolves {s0 : State} {s : State} {n : Fin 16} (h : Evolves s0 s) : Evolves s0 (stopJob s n) := by
  unfold stopJob
  dsimp only
  repeat' first
    | with_reducible assumption
    | with_reducible apply State.modPart_evolves
    | with_reducible apply detach_evolves
    | simp only [evolves_update]
    | intro _
    | split

theorem stopWork_evolves {s0 : State} {s : State} {n : Fin 16} (h : Evolves s0 s) : Evolves s0 (stopWork s n) := by
  unfold stopWork
  dsimp only
  repeat' first
    | with_reducible assumption
    | with_reducible apply sendAborts_evolves
    | with_reducible apply closePlanes_evolves
    | with_reducible apply spoilColl_evolves
    | with_reducible apply dropLaneOps_evolves
    | with_reducible apply endSnapRequest_evolves
    | with_reducible apply State.modPart_evolves
    | simp only [evolves_update]
    | with_reducible apply Evolves.foldl
    | intro _
    | split

theorem leaveSluices_evolves {s0 : State} {s : State} {n : Fin 16} (h : Evolves s0 s) : Evolves s0 (leaveSluices s n) := by
  unfold leaveSluices
  dsimp only
  repeat' first
    | with_reducible assumption
    | with_reducible apply leavePort_evolves
    | with_reducible apply Evolves.foldl
    | intro _
    | split

theorem resetWork_evolves {s0 : State} {s : State} {n : Fin 16} (h : Evolves s0 s) : Evolves s0 (resetWork s n) := by
  unfold resetWork
  dsimp only
  repeat' first
    | with_reducible assumption
    | with_reducible apply leaveSluices_evolves
    | with_reducible apply State.modFn_evolves
    | with_reducible apply State.modPart_evolves

theorem fenceWork_evolves {s0 : State} {s : State} {n : Fin 16} (h : Evolves s0 s) : Evolves s0 (fenceWork s n) := by
  unfold fenceWork
  dsimp only
  repeat' first
    | with_reducible assumption
    | with_reducible apply abortSteps_evolves
    | with_reducible apply abortFlights_evolves
    | with_reducible apply stopJob_evolves
    | with_reducible apply scrambleWords_evolves
    | with_reducible apply State.modPart_evolves
    | simp only [evolves_update]
    | with_reducible apply Evolves.foldl
    | intro _

theorem fenceEvent_evolves {s0 : State} {s : State} {n : Fin 16} {unit addr cause : Nat} (h : Evolves s0 s) : Evolves s0 (fenceEvent s n unit addr cause) := by
  unfold fenceEvent
  repeat' first
    | with_reducible assumption
    | with_reducible apply event_evolves

theorem requestClosure_evolves {s0 : State} {s : State} {n : Fin 16} {why : Reason} {sub : Option GateReq} {unit addr cause : Nat} (h : Evolves s0 s) : Evolves s0 (requestClosure s n why sub unit addr cause) := by
  unfold requestClosure
  dsimp only
  repeat' first
    | with_reducible assumption
    | with_reducible apply State.modPart_evolves
    | with_reducible apply functionReset_evolves
    | with_reducible apply stopWork_evolves
    | with_reducible apply resetWork_evolves
    | with_reducible apply fenceEvent_evolves
    | with_reducible apply fenceWork_evolves
    | with_reducible apply closureSubstitute_evolves
    | simp only [evolves_update]
    | intro _
    | split

theorem fenceUnit_evolves {s0 : State} {s : State} {n : Fin 16} {g : GateReq} {unit addr cause : Nat} (h : Evolves s0 s) : Evolves s0 (fenceUnit s n g unit addr cause) := by
  unfold fenceUnit
  dsimp only
  repeat' first
    | with_reducible assumption
    | with_reducible apply requestClosure_evolves
    | with_reducible apply rasLog_evolves
    | simp only [evolves_update]
    | intro _
    | split

theorem faultClosure_evolves {s0 : State} {s : State} {n : Fin 16} {g : GateReq} {unit addr cause : Nat} (h : Evolves s0 s) : Evolves s0 (faultClosure s n g unit addr cause) := by
  unfold faultClosure
  repeat' first
    | with_reducible assumption
    | with_reducible apply requestClosure_evolves
    | with_reducible apply fenceUnit_evolves
    | intro _
    | split

theorem functionReset_evolves {s0 : State} {s : State} {n : Fin 16} (h : Evolves s0 s) : Evolves s0 (functionReset s n) := by
  unfold functionReset
  dsimp only
  repeat' first
    | with_reducible assumption
    | with_reducible apply State.modPart_evolves
    | with_reducible apply requestClosure_evolves
    | simp only [evolves_update]
    | intro _
    | split

end Sys2Proof.Machine
end

