-- ==== Sys2Proof/Laws/EvolvesFaults.lean ====
section
/-! SUPPORT. The operations of Machine/Faults.lean evolve the state (Laws/Evolves.lean). -/
namespace Sys2Proof.Machine

theorem poison_evolves {s0 : State} {s : State} {a : Nat} (h : Evolves s0 s) : Evolves s0 (poison s a) := by
  unfold poison
  dsimp only [State.draw]
  repeat' first
    | with_reducible assumption
    | with_reducible apply memWrite_evolves
    | simp only [evolves_update]

theorem sramFault_evolves {s0 : State} {s : State} {n : Fin 16} {st : Option Nat} {a : Nat} (h : Evolves s0 s) : Evolves s0 (sramFault s n st a) := by
  unfold sramFault
  dsimp only
  repeat' first
    | with_reducible assumption
    | with_reducible apply rasLog_evolves
    | with_reducible apply State.count_evolves
    | with_reducible apply State.modPart_evolves
    | with_reducible apply failStepOf_evolves
    | with_reducible apply faultClosure_evolves
    | simp only [evolves_update]
    | intro _
    | split

theorem readFault_evolves {s0 : State} {s : State} {n : Fin 16} {fault : UnitFault} {rs : List (Nat × Nat)} (h : Evolves s0 s) : Evolves s0 (readFault s n fault rs).1 := by
  unfold readFault
  dsimp only
  repeat' first
    | with_reducible assumption
    | with_reducible apply poison_evolves
    | with_reducible apply State.count_evolves
    | simp only [evolves_update]
    | intro _
    | split

theorem afterRead_evolves {s0 : State} {s : State} {n : Fin 16} {st x : Option Nat} (h : Evolves s0 s) : Evolves s0 (afterRead s n st x) := by
  cases x with
  | none => exact h
  | some a => exact sramFault_evolves h

theorem residueFault_evolves {s0 : State} {s : State} {n : Fin 16} {st : Option Nat} {b a row col : Nat} (h : Evolves s0 s) : Evolves s0 (residueFault s n st b a row col) := by
  unfold residueFault
  dsimp only
  repeat' first
    | with_reducible assumption
    | with_reducible apply rasLog_evolves
    | with_reducible apply State.count_evolves
    | with_reducible apply failStepOf_evolves
    | with_reducible apply State.modPart_evolves
    | with_reducible apply faultClosure_evolves
    | simp only [evolves_update]
    | intro _
    | split

theorem cisternUe_evolves {s0 : State} {s : State} {n : Fin 16} {w : Nat} (h : Evolves s0 s) : Evolves s0 (cisternUe s n w) := by
  unfold cisternUe
  dsimp only [State.draw]
  repeat' first
    | with_reducible assumption
    | with_reducible apply putWord_evolves
    | with_reducible apply rasLog_evolves
    | with_reducible apply State.count_evolves
    | with_reducible apply failStep_evolves
    | with_reducible apply faultClosure_evolves
    | simp only [evolves_update]
    | with_reducible apply Evolves.foldl
    | intro _
    | split

theorem cisternResidue_evolves {s0 : State} {s : State} {n : Fin 16} {st : Option Nat} {w : Nat} (h : Evolves s0 s) : Evolves s0 (cisternResidue s n st w) := by
  unfold cisternResidue
  dsimp only
  repeat' first
    | with_reducible assumption
    | with_reducible apply failStepOf_evolves
    | with_reducible apply rasLog_evolves
    | with_reducible apply State.count_evolves

theorem cisternCorrected_evolves {s0 : State} {s : State} {n : Fin 16} {w : Nat} (h : Evolves s0 s) : Evolves s0 (cisternCorrected s n w) := by
  unfold cisternCorrected
  dsimp only
  repeat' first
    | with_reducible assumption
    | with_reducible apply State.count_evolves
    | with_reducible apply State.modPart_evolves
    | simp only [evolves_update]
    | intro _
    | split

end Sys2Proof.Machine
end

