-- ==== Sys2Proof/Laws/EvolvesCopy.lean ====
section
/-! SUPPORT. The operations of Machine/Copy.lean evolve the state (Laws/Evolves.lean). -/
namespace Sys2Proof.Machine

theorem writeBlock_evolves {s0 : State} {s : State} {n : Fin 16} {st : Option Nat} {b : Tensor} {row : Idx} {blk : Nat} {x : Nat × List Nat} (h : Evolves s0 s) : Evolves s0 (writeBlock s n st b row blk x) := by
  unfold writeBlock
  dsimp only
  repeat' first
    | with_reducible assumption
    | with_reducible apply writeCode_evolves
    | with_reducible apply writeFine_evolves
    | simp only [evolves_update]
    | with_reducible apply Evolves.foldl
    | intro _

theorem copyRow_evolves {z0 : State} {s0 : State} {n : Fin 16} {st : Option Nat} {a b : Tensor} {rnd : Nat → Rnd} {s : State} {row : Idx} (h : Evolves z0 s) : Evolves z0 (copyRow s0 n st a b rnd s row) := by
  unfold copyRow
  dsimp only
  repeat' first
    | with_reducible assumption
    | with_reducible apply writeCode_evolves
    | with_reducible apply padBlock_evolves
    | with_reducible apply writeFine_evolves
    | with_reducible apply writeBlock_evolves
    | simp only [evolves_update]
    | with_reducible apply Evolves.foldl
    | intro _
    | split

theorem dmaFault_evolves {s0 : State} {s : State} {n : Fin 16} {r : Fin 8} {seq a : Nat} {st : Option Nat} (h : Evolves s0 s) : Evolves s0 (dmaFault s n r seq a st) := by
  unfold dmaFault
  repeat' first
    | with_reducible assumption
    | with_reducible apply event_evolves

theorem beginCopy_evolves {s0 : State} {s : State} {n : Fin 16} {r : Fin 8} {f : Flight} (h : Evolves s0 s) : Evolves s0 (beginCopy s n r f) := by
  unfold beginCopy
  dsimp only
  repeat' first
    | with_reducible assumption
    | with_reducible apply dmaFault_evolves
    | with_reducible apply scramble_evolves
    | with_reducible apply endFlight_evolves
    | with_reducible apply readFault_evolves
    | with_reducible apply copyRow_evolves
    | with_reducible apply afterRead_evolves
    | simp only [evolves_update]
    | with_reducible apply Evolves.foldl
    | with_reducible apply Evolves.foldl_fst
    | intro _
    | split

end Sys2Proof.Machine
end

