-- ==== Sys2Proof/Laws/EvolvesColumn.lean ====
section
/-! SUPPORT. The operations of Machine/Column.lean evolve the state (Laws/Evolves.lean). -/
namespace Sys2Proof.Machine

end Sys2Proof.Machine
end

