-- ==== Sys2Proof/Laws/EvolvesGemm.lean ====
section
/-! SUPPORT. The operations of Machine/Gemm.lean evolve the state (Laws/Evolves.lean). -/
namespace Sys2Proof.Machine

theorem acceptTile_evolves {s0 : State} {s : State} {n : Fin 16} {r : Fin 8} {d : Desc} (h : Evolves s0 s) : Evolves s0 (acceptTile s n r d) := by
  unfold acceptTile
  dsimp only
  repeat' first
    | with_reducible assumption
    | with_reducible apply State.count_evolves
    | with_reducible apply State.setPart_evolves

end Sys2Proof.Machine
end

