-- ==== Sys2Proof/Laws/EvolvesArray.lean ====
section
/-! SUPPORT. The operations of Machine/Array.lean evolve the state (Laws/Evolves.lean). -/
namespace Sys2Proof.Machine

theorem putSump_evolves {s0 : State} {s : State} {k : Nat} {v : Acc} (h : Evolves s0 s) : Evolves s0 (putSump s k v) := by
  unfold putSump
  repeat' first
    | with_reducible assumption
    | simp only [evolves_update]

theorem putChunk_evolves {s0 : State} {s : State} {k : Nat} {v : Acc} (h : Evolves s0 s) : Evolves s0 (putChunk s k v) := by
  unfold putChunk
  repeat' first
    | with_reducible assumption
    | simp only [evolves_update]

theorem computeBlock_evolves {s0 : State} {s : State} {n : Fin 16} {d : Desc} {b u k : Nat} (h : Evolves s0 s) : Evolves s0 (computeBlock s n d b u k) := by
  unfold computeBlock
  dsimp only
  repeat' first
    | with_reducible assumption
    | with_reducible apply putSump_evolves
    | with_reducible apply putChunk_evolves
    | with_reducible apply Evolves.foldl
    | with_reducible apply Evolves.foldl_fst
    | intro _
    | split

theorem loadWeights_evolves {s0 : State} {s : State} {n : Fin 16} {d : Desc} {b u k : Nat} (h : Evolves s0 s) : Evolves s0 (loadWeights s n d b u k) := by
  unfold loadWeights
  dsimp only
  repeat' first
    | with_reducible assumption
    | simp only [evolves_update]
    | with_reducible apply Evolves.foldl
    | intro _

theorem garbleColumn_evolves {s0 : State} {s : State} {n : Fin 16} {d : Desc} {b u a col : Nat} (h : Evolves s0 s) : Evolves s0 (garbleColumn s n d b u a col) := by
  unfold garbleColumn
  dsimp only [State.draw]
  repeat' first
    | with_reducible assumption
    | with_reducible apply putSump_evolves
    | with_reducible apply putChunk_evolves
    | simp only [evolves_update]
    | with_reducible apply Evolves.foldl
    | intro _
    | split

theorem chunkToSump_evolves {s0 : State} {s : State} {n : Fin 16} {d : Desc} {b u : Nat} (h : Evolves s0 s) : Evolves s0 (chunkToSump s n d b u) := by
  unfold chunkToSump
  repeat' first
    | with_reducible assumption
    | with_reducible apply putSump_evolves
    | with_reducible apply Evolves.foldl
    | intro _
    | split

theorem drainDirect_evolves {s0 : State} {s : State} {n : Fin 16} {dr : Drain} {o : Tensor} {ys : List Drained} (h : Evolves s0 s) : Evolves s0 (drainDirect s n dr o ys).1 := by
  unfold drainDirect
  dsimp only
  repeat' first
    | with_reducible assumption
    | with_reducible apply writeCode_evolves
    | with_reducible apply writeFine_evolves
    | simp only
    | with_reducible apply Evolves.foldl
    | with_reducible apply Evolves.foldl_fst
    | intro _
    | split

theorem drainStats_evolves {s0 : State} {s : State} {n : Fin 16} {r : Fin 8} {dr : Drain} {ws : List (Drained × Val)} (h : Evolves s0 s) : Evolves s0 (drainStats s n r dr ws) := by
  unfold drainStats
  dsimp only
  repeat' first
    | with_reducible assumption
    | with_reducible apply State.enqueue_evolves
    | with_reducible apply modFlight_evolves
    | with_reducible apply writeCode_evolves
    | simp only [evolves_update]
    | with_reducible apply Evolves.foldl
    | intro _
    | split

theorem drainRow_evolves {s0 : State} {s : State} {b : Nat} {dr : Drain} {a row : Nat} (h : Evolves s0 s) : Evolves s0 (drainRow s b dr a row) := by
  unfold drainRow
  dsimp only
  repeat' first
    | with_reducible assumption
    | with_reducible apply drainDirect_evolves
    | with_reducible apply drainStats_evolves
    | with_reducible apply State.enqueue_evolves
    | with_reducible apply modFlight_evolves
    | simp only [evolves_update]
    | with_reducible apply Evolves.foldl
    | with_reducible apply Evolves.foldl_fst
    | intro _
    | split

theorem setBegun_evolves {s0 : State} {s : State} {n : Fin 16} {r : Fin 8} {seq b k : Nat} (h : Evolves s0 s) : Evolves s0 (setBegun s n r seq b k) := by
  unfold setBegun
  repeat' first
    | with_reducible assumption
    | with_reducible apply modFlight_evolves

theorem addBeats_evolves {s0 : State} {s : State} {n : Fin 16} {b k : Nat} (h : Evolves s0 s) : Evolves s0 (addBeats s n b k) := by
  unfold addBeats
  repeat' first
    | with_reducible assumption
    | with_reducible apply State.modPart_evolves

theorem endIfDone_evolves {s0 : State} {s : State} {n : Fin 16} {r : Fin 8} {seq : Nat} (h : Evolves s0 s) : Evolves s0 (endIfDone s n r seq) := by
  unfold endIfDone
  dsimp only
  repeat' first
    | with_reducible assumption
    | with_reducible apply endFlight_evolves
    | simp only [evolves_update]
    | intro _
    | split

theorem beginBlock_evolves {s0 : State} {s : State} {n : Fin 16} {r : Fin 8} {f : Flight} {b : Nat} {fault : UnitFault} (h : Evolves s0 s) : Evolves s0 (beginBlock s n r f b fault) := by
  unfold beginBlock
  dsimp only
  repeat' first
    | with_reducible assumption
    | with_reducible apply computeBlock_evolves
    | with_reducible apply loadWeights_evolves
    | with_reducible apply setBegun_evolves
    | with_reducible apply garbleColumn_evolves
    | with_reducible apply addBeats_evolves
    | with_reducible apply State.count_evolves
    | with_reducible apply chunkToSump_evolves
    | simp only [evolves_update]
    | intro _
    | split

theorem unitBegin_evolves {s0 : State} {s : State} {n : Fin 16} {r : Fin 8} {b : Nat} {fault : UnitFault} (h : Evolves s0 s) : Evolves s0 (unitBegin s n r b fault) := by
  unfold unitBegin
  dsimp only
  repeat' first
    | with_reducible assumption
    | with_reducible apply readFault_evolves
    | with_reducible apply afterRead_evolves
    | with_reducible apply endIfDone_evolves
    | with_reducible apply beginBlock_evolves
    | with_reducible apply residueFault_evolves
    | simp only [evolves_update]
    | intro _
    | split

theorem rowDrain_evolves {s0 : State} {s : State} {b : Nat} (h : Evolves s0 s) : Evolves s0 (rowDrain s b) := by
  unfold rowDrain
  dsimp only
  repeat' first
    | with_reducible assumption
    | with_reducible apply drainRow_evolves
    | with_reducible apply chunkToSump_evolves
    | with_reducible apply endIfDone_evolves
    | simp only [evolves_update]
    | intro _
    | split

theorem execArrayUnitBegin_evolves {s0 : State} {fn : Fin 16} {ring : Fin 8} {basin : Fin 128} {fault : UnitFault} {s : State} (h : Evolves s0 s) : Evolved s0 (execArrayUnitBegin fn ring basin fault s) := by
  unfold execArrayUnitBegin
  repeat' first
    | with_reducible assumption
    | with_reducible apply Evolved.next
    | exact Evolved.fault
    | with_reducible apply unitBegin_evolves

theorem execSumpRowDrain_evolves {s0 : State} {basin : Fin 128} {s : State} (h : Evolves s0 s) : Evolved s0 (execSumpRowDrain basin s) := by
  unfold execSumpRowDrain
  repeat' first
    | with_reducible assumption
    | with_reducible apply Evolved.next
    | exact Evolved.fault
    | with_reducible apply rowDrain_evolves

end Sys2Proof.Machine
end

