-- ==== Sys2Proof/Laws/EvolvesStrict.lean ====
section
/-! SUPPORT. The operations of Machine/Strict.lean evolve the state (Laws/Evolves.lean). -/
namespace Sys2Proof.Machine

theorem sliceUnit_evolves {z0 : State} {s0 : State} {n : Fin 16} {f : Flight} {s : State} {row c : Nat} (h : Evolves z0 s) : Evolves z0 (sliceUnit s0 n f s row c) := by
  unfold sliceUnit
  dsimp only
  repeat' first
    | with_reducible assumption
    | with_reducible apply writeCode_evolves
    | with_reducible apply stepWrite_evolves
    | with_reducible apply addBeats_evolves
    | with_reducible apply Evolves.foldl
    | intro _

theorem beginSlice_evolves {s0 : State} {s : State} {n : Fin 16} {r : Fin 8} {f : Flight} (h : Evolves s0 s) : Evolves s0 (beginSlice s n r f) := by
  unfold beginSlice
  dsimp only
  repeat' first
    | with_reducible assumption
    | with_reducible apply readFault_evolves
    | with_reducible apply sliceUnit_evolves
    | with_reducible apply endFlight_evolves
    | with_reducible apply afterRead_evolves
    | with_reducible apply Evolves.foldl
    | with_reducible apply Evolves.foldl_fst
    | intro _

theorem strictRow_evolves {z0 : State} {s0 : State} {n : Fin 16} {f : Flight} {ie : Ieee} {acc : State × Nat} {m : Nat} (h : Evolves z0 acc.1) : Evolves z0 (strictRow s0 n f ie acc m).1 := by
  unfold strictRow
  dsimp only
  repeat' first
    | with_reducible assumption
    | with_reducible apply writeCode_evolves
    | with_reducible apply addBeats_evolves
    | with_reducible apply Evolves.foldl
    | with_reducible apply Evolves.foldl_fst
    | intro _

theorem strictResidue_evolves {s0 : State} {s : State} {n : Fin 16} {st : Option Nat} {b : Nat} (h : Evolves s0 s) : Evolves s0 (strictResidue s n st b) := by
  unfold strictResidue
  repeat' first
    | with_reducible assumption
    | with_reducible apply failStepOf_evolves
    | with_reducible apply rasLog_evolves
    | with_reducible apply State.count_evolves

theorem beginStrict_evolves {s0 : State} {s : State} {n : Fin 16} {r : Fin 8} {f : Flight} (h : Evolves s0 s) : Evolves s0 (beginStrict s n r f) := by
  unfold beginStrict
  dsimp only [State.draw]
  repeat' first
    | with_reducible assumption
    | with_reducible apply readFault_evolves
    | with_reducible apply strictRow_evolves
    | with_reducible apply State.count_evolves
    | with_reducible apply writeCode_evolves
    | with_reducible apply strictResidue_evolves
    | with_reducible apply endFlight_evolves
    | with_reducible apply afterRead_evolves
    | simp only [evolves_update]
    | with_reducible apply Evolves.foldl
    | with_reducible apply Evolves.foldl_fst
    | intro _
    | split

end Sys2Proof.Machine
end

