-- ==== Sys2Proof/Laws/EvolvesCistern.lean ====
section
/-! SUPPORT. The operations of Machine/Cistern.lean evolve the state (Laws/Evolves.lean). -/
namespace Sys2Proof.Machine

theorem acceptCstOpen_evolves {s0 : State} {s : State} {n : Fin 16} {r : Fin 8} {d : Desc} (h : Evolves s0 s) : Evolves s0 (acceptCstOpen s n r d) := by
  unfold acceptCstOpen
  repeat' first
    | with_reducible assumption
    | with_reducible apply State.modPart_evolves

theorem beginCstOpen_evolves {s0 : State} {s : State} {n : Fin 16} {r : Fin 8} {f : Flight} (h : Evolves s0 s) : Evolves s0 (beginCstOpen s n r f) := by
  unfold beginCstOpen
  repeat' first
    | with_reducible assumption
    | with_reducible apply State.enqueue_evolves

theorem beginCstAdd_evolves {s0 : State} {s : State} {n : Fin 16} {r : Fin 8} {f : Flight} (h : Evolves s0 s) : Evolves s0 (beginCstAdd s n r f) := by
  unfold beginCstAdd
  dsimp only
  repeat' first
    | with_reducible assumption
    | with_reducible apply readFault_evolves
    | with_reducible apply State.count_evolves
    | with_reducible apply afterRead_evolves
    | with_reducible apply State.enqueue_evolves

theorem maybeClear_evolves {s0 : State} {s : State} {ws : List Nat} (h : Evolves s0 s) : Evolves s0 (maybeClear s ws) := by
  unfold maybeClear
  dsimp only [State.draw]
  repeat' first
    | with_reducible assumption
    | with_reducible apply putWord_evolves
    | simp only [evolves_update]
    | with_reducible apply Evolves.foldl
    | intro _
    | split

theorem beginCstRead_evolves {s0 : State} {s : State} {n : Fin 16} {r : Fin 8} {f : Flight} (h : Evolves s0 s) : Evolves s0 (beginCstRead s n r f) := by
  unfold beginCstRead
  dsimp only
  repeat' first
    | with_reducible assumption
    | with_reducible apply scramble_evolves
    | with_reducible apply maybeClear_evolves
    | with_reducible apply endFlight_evolves
    | with_reducible apply dmaFault_evolves
    | with_reducible apply State.enqueue_evolves
    | simp only [evolves_update]
    | intro _
    | split

theorem acceptCstClose_evolves {s0 : State} {s : State} {n : Fin 16} {d : Desc} (h : Evolves s0 s) : Evolves s0 (acceptCstClose s n d) := by
  unfold acceptCstClose
  repeat' first
    | with_reducible assumption
    | with_reducible apply State.modPart_evolves

theorem beginCstClose_evolves {s0 : State} {s : State} {n : Fin 16} {r : Fin 8} {f : Flight} (h : Evolves s0 s) : Evolves s0 (beginCstClose s n r f) := by
  unfold beginCstClose
  repeat' first
    | with_reducible assumption
    | with_reducible apply endFlight_evolves
    | with_reducible apply State.modPart_evolves

theorem noteTouch_evolves {s0 : State} {s : State} {n : Fin 16} {st : Option Nat} {w : Nat} (h : Evolves s0 s) : Evolves s0 (noteTouch s n st w) := by
  unfold noteTouch
  repeat' first
    | with_reducible assumption
    | with_reducible apply modStep_evolves
    | simp only [evolves_update]
    | intro _
    | split

theorem readOut_evolves {s0 : State} {s : State} {n : Fin 16} {f : Flight} {i : Nat} {w : CWord} (h : Evolves s0 s) : Evolves s0 (readOut s n f i w) := by
  unfold readOut
  dsimp only
  repeat' first
    | with_reducible assumption
    | with_reducible apply stepWrite_evolves
    | with_reducible apply writeCode_evolves
    | simp only [evolves_update]
    | intro _
    | split

theorem applyLane_evolves {s0 : State} {s : State} {n : Fin 16} {f : Flight} {o : LaneOp} (h : Evolves s0 s) : Evolves s0 (applyLane s n f o) := by
  unfold applyLane
  dsimp only
  repeat' first
    | with_reducible assumption
    | with_reducible apply putWord_evolves
    | with_reducible apply State.count_evolves
    | with_reducible apply readOut_evolves
    | simp only [evolves_update]
    | intro _
    | split

theorem applyFaulty_evolves {s0 : State} {s : State} {n : Fin 16} {f : Flight} {o : LaneOp} (h : Evolves s0 s) : Evolves s0 (applyFaulty s n f o) := by
  unfold applyFaulty
  dsimp only [State.draw]
  repeat' first
    | with_reducible assumption
    | with_reducible apply putWord_evolves
    | with_reducible apply applyLane_evolves
    | simp only [evolves_update]
    | intro _
    | split

theorem endCistern_evolves {s0 : State} {s : State} {n : Fin 16} {r : Fin 8} {seq : Nat} (h : Evolves s0 s) : Evolves s0 (endCistern s n r seq) := by
  unfold endCistern
  repeat' first
    | with_reducible assumption
    | with_reducible apply endFlight_evolves
    | simp only [evolves_update]
    | intro _
    | split

theorem scrub_evolves {s0 : State} {s : State} {word : Nat} {fault : LaneFault} (h : Evolves s0 s) : Evolves s0 (scrub s word fault) := by
  unfold scrub
  dsimp only
  repeat' first
    | with_reducible assumption
    | with_reducible apply State.count_evolves
    | with_reducible apply cisternCorrected_evolves
    | with_reducible apply cisternUe_evolves
    | with_reducible apply cisternResidue_evolves
    | simp only [evolves_update]
    | intro _
    | split

end Sys2Proof.Machine
end

