-- ==== Sys2Proof/Laws/EvolvesCodec.lean ====
section
/-! SUPPORT. The operations of Machine/Codec.lean evolve the state (Laws/Evolves.lean). -/
namespace Sys2Proof.Machine

end Sys2Proof.Machine
end

