-- ==== Sys2Proof/Laws/EvolvesColl.lean ====
section
/-! SUPPORT. The operations of Machine/Coll.lean evolve the state (Laws/Evolves.lean). -/
namespace Sys2Proof.Machine

theorem modSeg_evolves {s0 : State} {s : State} {n : Fin 16} {r : Fin 8} {seq idx : Nat} {m : Seg → Seg} (h : Evolves s0 s) : Evolves s0 (modSeg s n r seq idx m) := by
  unfold modSeg
  repeat' first
    | with_reducible assumption
    | with_reducible apply modFlight_evolves

theorem writeCodes_evolves {s0 : State} {s : State} {n : Fin 16} {st : Option Nat} {t : Tensor} {first : Nat} {cs : List Nat} (h : Evolves s0 s) : Evolves s0 (writeCodes s n st t first cs) := by
  unfold writeCodes
  repeat' first
    | with_reducible assumption
    | with_reducible apply writeCode_evolves
    | with_reducible apply Evolves.foldl
    | intro _

theorem writeFines_evolves {s0 : State} {s : State} {n : Fin 16} {st : Option Nat} {t : Tensor} {blocks : List Nat} {fs : List Nat} (h : Evolves s0 s) : Evolves s0 (writeFines s n st t blocks fs) := by
  unfold writeFines
  repeat' first
    | with_reducible assumption
    | with_reducible apply padBlock_evolves
    | with_reducible apply writeFine_evolves
    | with_reducible apply Evolves.foldl
    | intro _

theorem countCodec_evolves {s0 : State} {s : State} {n : Fin 16} {f : Flight} {g : Seg} {bs : List Byte} (h : Evolves s0 s) : Evolves s0 (countCodec s n f g bs) := by
  unfold countCodec
  dsimp only
  repeat' first
    | with_reducible assumption
    | with_reducible apply State.count_evolves
    | intro _
    | split

theorem sendSeg_evolves {s0 : State} {s : State} {n : Fin 16} {t : PlaneTable} {f : Flight} {g : Seg} {kind port : Nat} {bs : List Byte} (h : Evolves s0 s) : Evolves s0 (sendSeg s n t f g kind port bs) := by
  unfold sendSeg
  dsimp only
  repeat' first
    | with_reducible assumption
    | with_reducible apply sendParcel_evolves
    | with_reducible apply countCodec_evolves

theorem sendDown_evolves {s0 : State} {s : State} {n : Fin 16} {t : PlaneTable} {f : Flight} {g : Seg} {bs : List Byte} (h : Evolves s0 s) : Evolves s0 (sendDown s n t f g bs) := by
  unfold sendDown
  repeat' first
    | with_reducible assumption
    | with_reducible apply sendSeg_evolves
    | with_reducible apply Evolves.foldl
    | intro _

theorem setWords_evolves {s0 : State} {s : State} {ws : List Nat} {xs : List (BitVec 128 × BitVec 3)} (h : Evolves s0 s) : Evolves s0 (setWords s ws xs) := by
  unfold setWords
  repeat' first
    | with_reducible assumption
    | with_reducible apply putWord_evolves
    | with_reducible apply Evolves.foldl
    | intro _

theorem downQuantise_evolves {s0 : State} {s : State} {n : Fin 16} {r : Fin 8} {f : Flight} {g : Seg} (h : Evolves s0 s) : Evolves s0 (downQuantise s n r f g) := by
  unfold downQuantise
  dsimp only
  repeat' first
    | with_reducible assumption
    | with_reducible apply setWords_evolves
    | with_reducible apply modSeg_evolves
    | simp only [evolves_update]
    | intro _
    | split

theorem passUp_evolves {s0 : State} {s : State} {n : Fin 16} {r : Fin 8} {seq idx : Nat} (h : Evolves s0 s) : Evolves s0 (passUp s n r seq idx) := by
  unfold passUp
  dsimp only
  repeat' first
    | with_reducible assumption
    | with_reducible apply downQuantise_evolves
    | with_reducible apply sendDown_evolves
    | with_reducible apply modSeg_evolves
    | with_reducible apply sendSeg_evolves
    | simp only [evolves_update]
    | intro _
    | split

theorem upStep_evolves {s0 : State} {s : State} {n : Fin 16} {r : Fin 8} {seq plane : Nat} (h : Evolves s0 s) : Evolves s0 (upStep s n r seq plane) := by
  unfold upStep
  repeat' first
    | with_reducible assumption
    | with_reducible apply passUp_evolves
    | simp only [evolves_update]
    | intro _
    | split

theorem rootAdvance_evolves {s0 : State} {s : State} {n : Fin 16} {r : Fin 8} {seq : Nat} (h : Evolves s0 s) : Evolves s0 (rootAdvance s n r seq) := by
  unfold rootAdvance
  repeat' first
    | with_reducible assumption
    | with_reducible apply upStep_evolves
    | simp only [evolves_update]
    | with_reducible apply Evolves.foldl
    | intro _
    | split

theorem outWords_evolves {s0 : State} {s : State} {t : PlaneTable} {f : Flight} {c : Coll} (h : Evolves s0 s) : Evolves s0 (outWords s t f c).1 := by
  unfold outWords
  dsimp only [State.draw]
  repeat' first
    | with_reducible assumption
    | simp only [evolves_update]
    | intro _
    | split

theorem endCollIfDone_evolves {s0 : State} {s : State} {n : Fin 16} {r : Fin 8} {seq : Nat} (h : Evolves s0 s) : Evolves s0 (endCollIfDone s n r seq) := by
  unfold endCollIfDone
  dsimp only
  repeat' first
    | with_reducible assumption
    | with_reducible apply outWords_evolves
    | with_reducible apply writeCode_evolves
    | with_reducible apply endFlight_evolves
    | with_reducible apply closePlanes_evolves
    | simp only [evolves_update]
    | with_reducible apply Evolves.foldl
    | with_reducible apply Evolves.foldl_fst
    | intro _
    | split

theorem breakColl_evolves {s0 : State} {s : State} {n : Fin 16} {r : Fin 8} {f : Flight} {status : Nat} {detail : BitVec 160} (h : Evolves s0 s) : Evolves s0 (breakColl s n r f status detail) := by
  unfold breakColl
  dsimp only
  repeat' first
    | with_reducible assumption
    | with_reducible apply spoilColl_evolves
    | with_reducible apply closePlanes_evolves
    | with_reducible apply State.count_evolves
    | with_reducible apply endFlight_evolves
    | simp only [evolves_update]
    | intro _
    | split

theorem stopColl_evolves {s0 : State} {s : State} {n : Fin 16} {r : Fin 8} {f : Flight} {kind : Nat} {skip : Option Nat} (h : Evolves s0 s) : Evolves s0 (stopColl s n r f kind skip) := by
  unfold stopColl
  dsimp only
  repeat' first
    | with_reducible assumption
    | with_reducible apply sendAborts_evolves
    | with_reducible apply modFlight_evolves
    | with_reducible apply breakColl_evolves

theorem fenceColl_evolves {s0 : State} {s : State} {n : Fin 16} {r : Fin 8} {f : Flight} {epoch port : Nat} (h : Evolves s0 s) : Evolves s0 (fenceColl s n r f epoch port) := by
  unfold fenceColl
  dsimp only
  repeat' first
    | with_reducible assumption
    | with_reducible apply event_evolves
    | with_reducible apply breakColl_evolves

theorem lossyEnter_evolves {s0 : State} {s : State} {n : Fin 16} {r : Fin 8} {f : Flight} {ctl : Word} {c : Coll} (h : Evolves s0 s) : Evolves s0 (lossyEnter s n r f ctl c) := by
  unfold lossyEnter
  dsimp only
  repeat' first
    | with_reducible assumption
    | with_reducible apply setWords_evolves
    | with_reducible apply State.enqueue_evolves
    | with_reducible apply writeCode_evolves
    | with_reducible apply modSeg_evolves
    | simp only
    | with_reducible apply Evolves.foldl
    | intro _
    | split

theorem zeroAbsent_evolves {s0 : State} {s : State} {n : Fin 16} {f : Flight} {t : PlaneTable} {c : Coll} (h : Evolves s0 s) : Evolves s0 (zeroAbsent s n f t c) := by
  unfold zeroAbsent
  dsimp only
  repeat' first
    | with_reducible assumption
    | with_reducible apply writeFines_evolves
    | with_reducible apply writeCodes_evolves
    | with_reducible apply Evolves.foldl
    | intro _

theorem ownContribution_evolves {s0 : State} {s : State} {n : Fin 16} {r : Fin 8} {f : Flight} {t : PlaneTable} {c : Coll} (h : Evolves s0 s) : Evolves s0 (ownContribution s n r f t c) := by
  unfold ownContribution
  dsimp only
  repeat' first
    | with_reducible assumption
    | with_reducible apply writeFines_evolves
    | with_reducible apply writeCodes_evolves
    | with_reducible apply lossyEnter_evolves
    | with_reducible apply State.enqueue_evolves
    | with_reducible apply setWords_evolves
    | with_reducible apply zeroAbsent_evolves
    | simp only [evolves_update]
    | intro _
    | split

theorem bcastDown_evolves {s0 : State} {s : State} {n : Fin 16} {r : Fin 8} {seq : Nat} (h : Evolves s0 s) : Evolves s0 (bcastDown s n r seq) := by
  unfold bcastDown
  repeat' first
    | with_reducible assumption
    | with_reducible apply modSeg_evolves
    | with_reducible apply sendDown_evolves
    | simp only [evolves_update]
    | with_reducible apply Evolves.foldl
    | intro _
    | split

theorem enterColl_evolves {s0 : State} {s : State} {n : Fin 16} {r : Fin 8} {f : Flight} {t : PlaneTable} {c : Coll} (h : Evolves s0 s) : Evolves s0 (enterColl s n r f t c) := by
  unfold enterColl
  dsimp only
  repeat' first
    | with_reducible assumption
    | with_reducible apply readFault_evolves
    | with_reducible apply modFlight_evolves
    | with_reducible apply endCollIfDone_evolves
    | with_reducible apply rootAdvance_evolves
    | with_reducible apply bcastDown_evolves
    | with_reducible apply ownContribution_evolves
    | with_reducible apply afterRead_evolves

theorem beginColl_evolves {s0 : State} {s : State} {n : Fin 16} {r : Fin 8} {f : Flight} (h : Evolves s0 s) : Evolves s0 (beginColl s n r f) := by
  unfold beginColl
  dsimp only
  repeat' first
    | with_reducible assumption
    | with_reducible apply State.modPart_evolves
    | with_reducible apply modFlight_evolves
    | with_reducible apply stopColl_evolves
    | with_reducible apply fenceColl_evolves
    | with_reducible apply enterColl_evolves
    | simp only [evolves_update]
    | with_reducible apply Evolves.foldl
    | intro _
    | split

end Sys2Proof.Machine
end

