-- ==== Sys2Proof/Laws/EvolvesCollRx.lean ====
section
/-! SUPPORT. The operations of Machine/CollRx.lean evolve the state (Laws/Evolves.lean). -/
namespace Sys2Proof.Machine

theorem modPlane_evolves {s0 : State} {s : State} {n : Fin 16} {plane : Nat} {g : PlaneRec → PlaneRec} (h : Evolves s0 s) : Evolves s0 (modPlane s n plane g) := by
  unfold modPlane
  repeat' first
    | with_reducible assumption
    | with_reducible apply State.modPart_evolves

theorem discard_evolves {s0 : State} {s : State} {q : Fin 24} {x : Parcel} {i : Nat} (h : Evolves s0 s) : Evolves s0 (discard s q x i) := by
  unfold discard
  repeat' first
    | with_reducible assumption
    | with_reducible apply returnCredits_evolves
    | with_reducible apply State.countPort_evolves

theorem noteEdge_evolves {s0 : State} {s : State} {n : Fin 16} {q : Fin 24} {x : Parcel} (h : Evolves s0 s) : Evolves s0 (noteEdge s n q x) := by
  unfold noteEdge
  dsimp only
  repeat' first
    | with_reducible assumption
    | with_reducible apply discard_evolves
    | with_reducible apply event_evolves
    | with_reducible apply modPlane_evolves
    | simp only [evolves_update]
    | intro _
    | split

theorem answerStale_evolves {s0 : State} {s : State} {n : Fin 16} {q : Fin 24} {t : PlaneTable} {x : Parcel} (h : Evolves s0 s) : Evolves s0 (answerStale s n q t x) := by
  unfold answerStale
  dsimp only
  repeat' first
    | with_reducible assumption
    | with_reducible apply discard_evolves
    | with_reducible apply sendParcel_evolves
    | with_reducible apply modPlane_evolves
    | simp only [evolves_update]
    | intro _
    | split

theorem takeStale_evolves {s0 : State} {s : State} {n : Fin 16} {q : Fin 24} {x : Parcel} (h : Evolves s0 s) : Evolves s0 (takeStale s n q x) := by
  unfold takeStale
  dsimp only
  repeat' first
    | with_reducible assumption
    | with_reducible apply modPlane_evolves
    | with_reducible apply returnCredits_evolves
    | with_reducible apply fenceColl_evolves
    | with_reducible apply discard_evolves
    | simp only [evolves_update]
    | intro _
    | split

theorem collMismatch_evolves {s0 : State} {s : State} {n : Fin 16} {r : Fin 8} {f : Flight} {q : Fin 24} {x : Parcel} (h : Evolves s0 s) : Evolves s0 (collMismatch s n r f q x) := by
  unfold collMismatch
  dsimp only
  repeat' first
    | with_reducible assumption
    | with_reducible apply event_evolves
    | with_reducible apply discard_evolves
    | with_reducible apply breakColl_evolves

theorem mergeUp_evolves {s0 : State} {s : State} {n : Fin 16} {r : Fin 8} {t : PlaneTable} {f : Flight} {g : Seg} {c : Nat} {bs : List Byte} (h : Evolves s0 s) : Evolves s0 (mergeUp s n r t f g c bs) := by
  unfold mergeUp
  dsimp only
  repeat' first
    | with_reducible assumption
    | with_reducible apply modSeg_evolves
    | with_reducible apply State.enqueue_evolves
    | with_reducible apply writeFines_evolves
    | with_reducible apply writeCodes_evolves
    | simp only [evolves_update]
    | with_reducible apply Evolves.foldl
    | intro _
    | split

theorem writeDown_evolves {s0 : State} {s : State} {n : Fin 16} {r : Fin 8} {t : PlaneTable} {f : Flight} {g : Seg} {bs : List Byte} (h : Evolves s0 s) : Evolves s0 (writeDown s n r t f g bs) := by
  unfold writeDown
  dsimp only
  repeat' first
    | with_reducible assumption
    | with_reducible apply modSeg_evolves
    | with_reducible apply sendDown_evolves
    | with_reducible apply setWords_evolves
    | with_reducible apply writeFines_evolves
    | with_reducible apply writeCodes_evolves
    | simp only [evolves_update]
    | intro _
    | split

theorem collProgress_evolves {s0 : State} {s : State} {n : Fin 16} {r : Fin 8} {seq : Nat} (h : Evolves s0 s) : Evolves s0 (collProgress s n r seq) := by
  unfold collProgress
  repeat' first
    | with_reducible assumption
    | with_reducible apply endCollIfDone_evolves
    | with_reducible apply rootAdvance_evolves

theorem takeSegment_evolves {s0 s u : State} {n : Fin 16} {q : Fin 24} {t : PlaneTable} {r : Fin 8} {f : Flight} {c : Coll} {x : Parcel}
    (h : Evolves s0 s) (hu : takeSegment s n q t r f c x = some u) : Evolves s0 u := by
  unfold takeSegment at hu
  dsimp only at hu
  repeat' split at hu
  all_goals first
    | with_reducible exact Option.some.inj hu ▸ collMismatch_evolves h
    | with_reducible exact Option.some.inj hu ▸ discard_evolves h
    | with_reducible exact Option.some.inj hu ▸ collProgress_evolves (mergeUp_evolves (returnCredits_evolves h))
    | with_reducible exact Option.some.inj hu ▸ collProgress_evolves (writeDown_evolves (returnCredits_evolves h))
    | exact absurd hu (by simp)

theorem holdParcel_evolves {s0 : State} {s : State} {q : Fin 24} {x : Parcel} {fresh : Bool} (h : Evolves s0 s) : Evolves s0 (holdParcel s q x fresh) := by
  unfold holdParcel
  dsimp only
  repeat' first
    | with_reducible assumption
    | with_reducible apply State.modPort_evolves
    | with_reducible apply State.countPort_evolves
    | simp only [evolves_update]
    | intro _
    | split

theorem receiveColl_evolves {s0 : State} {s : State} {n : Fin 16} {q : Fin 24} {x : Parcel} {fresh : Bool} (h : Evolves s0 s) : Evolves s0 (receiveColl s n q x fresh) := by
  unfold receiveColl
  dsimp only
  repeat' first
    | with_reducible assumption
    | with_reducible apply noteEdge_evolves
    | with_reducible apply discard_evolves
    | with_reducible apply takeStale_evolves
    | with_reducible apply answerStale_evolves
    | with_reducible apply holdParcel_evolves
    | with_reducible apply modPlane_evolves
    | with_reducible apply returnCredits_evolves
    | with_reducible apply stopColl_evolves
    | exact takeSegment_evolves h (by assumption)
    | simp only [evolves_update]
    | intro _
    | split

theorem recheckPort_evolves {s0 : State} {s : State} {q : Fin 24} (h : Evolves s0 s) : Evolves s0 (recheckPort s q) := by
  unfold recheckPort
  dsimp only
  repeat' first
    | with_reducible assumption
    | with_reducible apply receiveColl_evolves
    | with_reducible apply State.setPort_evolves
    | simp only [evolves_update]
    | with_reducible apply Evolves.foldl
    | intro _
    | split

theorem recheckHeld_evolves {s0 s : State} {k : Nat} (h : Evolves s0 s) : Evolves s0 (recheckHeld k s) := by
  induction k generalizing s with
  | zero => exact h
  | succ k ih =>
    have h1 : Evolves s0 (allPorts.foldl recheckPort s) := h.foldl fun _ _ => recheckPort_evolves
    unfold recheckHeld
    dsimp only
    split
    · exact ih h1
    · exact h1

theorem recheck_evolves {s0 : State} {s : State} (h : Evolves s0 s) : Evolves s0 (recheck s) := by
  unfold recheck
  repeat' first
    | with_reducible assumption
    | with_reducible apply recheckHeld_evolves

theorem upSegmentSend_evolves {s0 : State} {s : State} {n : Fin 16} {plane : Nat} (h : Evolves s0 s) : Evolves s0 (upSegmentSend s n plane) := by
  unfold upSegmentSend
  repeat' first
    | with_reducible assumption
    | with_reducible apply recheck_evolves
    | with_reducible apply collProgress_evolves
    | with_reducible apply upStep_evolves
    | simp only [evolves_update]
    | intro _
    | split

theorem execUpSegmentSend_evolves {s0 : State} {fn : Fin 16} {plane : Fin 8} {s : State} (h : Evolves s0 s) : Evolved s0 (execUpSegmentSend fn plane s) := by
  unfold execUpSegmentSend
  repeat' first
    | with_reducible assumption
    | with_reducible apply Evolved.next
    | exact Evolved.fault
    | with_reducible apply upSegmentSend_evolves

theorem collectiveTimeout_evolves {s0 : State} {s : State} {n : Fin 16} {plane : Nat} (h : Evolves s0 s) : Evolves s0 (collectiveTimeout s n plane) := by
  unfold collectiveTimeout
  repeat' first
    | with_reducible assumption
    | with_reducible apply recheck_evolves
    | with_reducible apply stopColl_evolves
    | simp only [evolves_update]
    | intro _
    | split

theorem execCollectiveTimeout_evolves {s0 : State} {fn : Fin 16} {plane : Fin 8} {s : State} (h : Evolves s0 s) : Evolved s0 (execCollectiveTimeout fn plane s) := by
  unfold execCollectiveTimeout
  repeat' first
    | with_reducible assumption
    | with_reducible apply Evolved.next
    | exact Evolved.fault
    | with_reducible apply collectiveTimeout_evolves

theorem laneOp_evolves {s0 : State} {s : State} {basin bank pick : Nat} {fault : LaneFault} (h : Evolves s0 s) : Evolves s0 (laneOp s basin bank pick fault) := by
  unfold laneOp
  dsimp only
  repeat' first
    | with_reducible assumption
    | with_reducible apply recheck_evolves
    | with_reducible apply collProgress_evolves
    | with_reducible apply endIfDone_evolves
    | with_reducible apply endCistern_evolves
    | with_reducible apply noteTouch_evolves
    | with_reducible apply cisternResidue_evolves
    | with_reducible apply applyLane_evolves
    | with_reducible apply cisternCorrected_evolves
    | with_reducible apply cisternUe_evolves
    | with_reducible apply applyFaulty_evolves
    | simp only [evolves_update]
    | intro _
    | split

theorem execCisternLaneOp_evolves {s0 : State} {basin : Fin 128} {bank : Fin 64} {pick : Nat} {fault : LaneFault} {s : State} (h : Evolves s0 s) : Evolved s0 (execCisternLaneOp basin bank pick fault s) := by
  unfold execCisternLaneOp
  repeat' first
    | with_reducible assumption
    | with_reducible apply Evolved.next
    | exact Evolved.fault
    | with_reducible apply laneOp_evolves

end Sys2Proof.Machine
end

