-- ==== Sys2Proof/Laws/EvolvesPlan.lean ====
section
/-! SUPPORT. The operations of Machine/Plan.lean evolve the state (Laws/Evolves.lean). -/
namespace Sys2Proof.Machine

theorem writeBase_evolves {s0 : State} {s : State} {n : Fin 16} {m : MirrorTable} {r : Record} (h : Evolves s0 s) : Evolves s0 (writeBase s n m r) := by
  unfold writeBase
  repeat' first
    | with_reducible assumption
    | with_reducible apply memWrite_evolves
    | with_reducible apply State.modPart_evolves

theorem lstoreFault_evolves {s0 : State} {s : State} {n : Fin 16} {a : Nat} (h : Evolves s0 s) : Evolves s0 (lstoreFault s n a) := by
  unfold lstoreFault
  repeat' first
    | with_reducible assumption
    | with_reducible apply rasLog_evolves

theorem clearPlanes_evolves {s0 : State} {s : State} {n : Fin 16} (h : Evolves s0 s) : Evolves s0 (clearPlanes s n) := by
  unfold clearPlanes
  repeat' first
    | with_reducible assumption
    | with_reducible apply State.modPart_evolves

theorem discardHeld_evolves {s0 : State} {s : State} {n : Fin 16} {keep : Nat} (h : Evolves s0 s) : Evolves s0 (discardHeld s n keep) := by
  unfold discardHeld
  repeat' first
    | with_reducible assumption
    | with_reducible apply discard_evolves
    | with_reducible apply State.modPort_evolves
    | simp only [evolves_update]
    | with_reducible apply Evolves.foldl
    | intro _
    | split

theorem assignPorts_evolves {s0 : State} {s : State} {n : Fin 16} {named : List Nat} {ident : Option (Nat × Nat)} (h : Evolves s0 s) : Evolves s0 (assignPorts s n named ident) := by
  unfold assignPorts
  repeat' first
    | with_reducible assumption
    | with_reducible apply State.modPort_evolves
    | simp only [evolves_update]
    | with_reducible apply Evolves.foldl
    | intro _

theorem setLastStep_evolves {s0 : State} {s : State} {n : Fin 16} {k : Nat} (h : Evolves s0 s) : Evolves s0 (setLastStep s n k) := by
  unfold setLastStep
  repeat' first
    | with_reducible assumption
    | with_reducible apply State.modFn_evolves

theorem installPlan_evolves {s0 : State} {s : State} {n : Fin 16} {d : Desc} (h : Evolves s0 s) : Evolves s0 (installPlan s n d) := by
  unfold installPlan
  dsimp only
  repeat' first
    | with_reducible assumption
    | with_reducible apply abortSteps_evolves
    | with_reducible apply discardHeld_evolves
    | with_reducible apply clearPlanes_evolves
    | with_reducible apply assignPorts_evolves
    | with_reducible apply setLastStep_evolves
    | with_reducible apply State.modFn_evolves
    | with_reducible apply State.modPart_evolves

theorem dropPlan_evolves {s0 : State} {s : State} {n : Fin 16} (h : Evolves s0 s) : Evolves s0 (dropPlan s n) := by
  unfold dropPlan
  dsimp only
  repeat' first
    | with_reducible assumption
    | with_reducible apply State.modPart_evolves
    | with_reducible apply State.modPort_evolves
    | simp only [evolves_update]
    | with_reducible apply Evolves.foldl
    | intro _

theorem applyPlanLoad_evolves {s0 : State} {s : State} {n : Fin 16} {d : Desc} (h : Evolves s0 s) : Evolves s0 (applyPlanLoad s n d).1 := by
  unfold applyPlanLoad
  dsimp only
  repeat' first
    | with_reducible assumption
    | with_reducible apply installPlan_evolves
    | with_reducible apply dropPlan_evolves
    | with_reducible apply lstoreFault_evolves
    | with_reducible apply writeBase_evolves
    | intro _
    | split

theorem applyEpochAdvance_evolves {s0 : State} {s : State} {n : Fin 16} {d : Desc} (h : Evolves s0 s) : Evolves s0 (applyEpochAdvance s n d) := by
  unfold applyEpochAdvance
  dsimp only
  repeat' first
    | with_reducible assumption
    | with_reducible apply discardHeld_evolves
    | with_reducible apply clearPlanes_evolves
    | with_reducible apply State.modPart_evolves
    | with_reducible apply assignPorts_evolves
    | with_reducible apply recheck_evolves
    | simp only [evolves_update]
    | intro _
    | split

end Sys2Proof.Machine
end

