-- ==== Sys2Proof/Laws/EvolvesRecover.lean ====
section
/-! SUPPORT. The operations of Machine/Recover.lean evolve the state (Laws/Evolves.lean). -/
namespace Sys2Proof.Machine

theorem sendMirror_evolves {s0 : State} {s : State} {n : Fin 16} {port mkind : Nat} {base restore : Bool} {step index sealed count : Nat} {payload : List Byte} (h : Evolves s0 s) : Evolves s0 (sendMirror s n port mkind base restore step index sealed count payload) := by
  unfold sendMirror
  dsimp only
  repeat' first
    | with_reducible assumption
    | with_reducible apply sendParcel_evolves
    | with_reducible apply State.count_evolves

theorem sendRecord_evolves {s0 : State} {s : State} {n : Fin 16} {ps : List Nat} {r : Record} {base restore : Bool} {sealed : Nat} (h : Evolves s0 s) : Evolves s0 (sendRecord s n ps r base restore sealed) := by
  unfold sendRecord
  dsimp only
  repeat' first
    | with_reducible assumption
    | with_reducible apply State.count_evolves
    | with_reducible apply sendMirror_evolves
    | with_reducible apply Evolves.foldl
    | intro _
    | split

theorem retireRecord_evolves {s0 : State} {s : State} {n : Fin 16} {k : Nat} (h : Evolves s0 s) : Evolves s0 (retireRecord s n k) := by
  unfold retireRecord
  dsimp only
  repeat' first
    | with_reducible assumption
    | with_reducible apply modStep_evolves
    | with_reducible apply failStep_evolves
    | with_reducible apply lstoreFault_evolves
    | with_reducible apply State.modPart_evolves
    | with_reducible apply sendRecord_evolves
    | simp only [evolves_update]
    | intro _
    | split

theorem sealStep_evolves {s0 : State} {s : State} {n : Fin 16} {r : StepRec} (h : Evolves s0 s) : Evolves s0 (sealStep s n r) := by
  unfold sealStep
  dsimp only
  repeat' first
    | with_reducible assumption
    | with_reducible apply completeSeals_evolves
    | with_reducible apply modStep_evolves
    | with_reducible apply State.modPart_evolves

theorem foldStore_evolves {s0 : State} {s : State} {n : Fin 16} {m : MirrorTable} {t : Nat} (h : Evolves s0 s) : Evolves s0 (foldStore s n m t) := by
  unfold foldStore
  dsimp only
  repeat' first
    | with_reducible assumption
    | with_reducible apply memWrite_evolves
    | with_reducible apply State.modPart_evolves

theorem applyRelease_evolves {s0 : State} {s : State} {n : Fin 16} {d : Desc} (h : Evolves s0 s) : Evolves s0 (applyRelease s n d).1 := by
  unfold applyRelease
  dsimp only
  repeat' first
    | with_reducible assumption
    | with_reducible apply State.modPart_evolves
    | with_reducible apply lstoreFault_evolves
    | with_reducible apply foldStore_evolves
    | with_reducible apply sendMirror_evolves
    | simp only
    | intro _
    | split

theorem beginSync_evolves {s0 : State} {s : State} {n : Fin 16} {r : Fin 8} {seq : Nat} (h : Evolves s0 s) : Evolves s0 (beginSync s n r seq) := by
  unfold beginSync
  dsimp only
  repeat' first
    | with_reducible assumption
    | with_reducible apply sendMirror_evolves
    | with_reducible apply sendRecord_evolves
    | with_reducible apply State.modPart_evolves
    | simp only [evolves_update]
    | with_reducible apply Evolves.foldl
    | intro _
    | split

theorem endJob_evolves {s0 : State} {s : State} {n : Fin 16} {status : Nat} {detail : BitVec 160} (h : Evolves s0 s) : Evolves s0 (endJob s n status detail) := by
  unfold endJob
  repeat' first
    | with_reducible assumption
    | with_reducible apply endFlight_evolves
    | with_reducible apply State.modPart_evolves
    | simp only
    | intro _
    | split

theorem finishSync_evolves {s0 : State} {s : State} {n : Fin 16} (h : Evolves s0 s) : Evolves s0 (finishSync s n) := by
  unfold finishSync
  dsimp only
  repeat' first
    | with_reducible assumption
    | with_reducible apply endJob_evolves
    | with_reducible apply State.modPart_evolves
    | simp only [evolves_update]
    | intro _
    | split

theorem takeAck_evolves {s0 : State} {s : State} {n : Fin 16} {base : Bool} {step : Nat} (h : Evolves s0 s) : Evolves s0 (takeAck s n base step) := by
  unfold takeAck
  dsimp only
  repeat' first
    | with_reducible assumption
    | with_reducible apply finishSync_evolves
    | with_reducible apply State.modPart_evolves
    | with_reducible apply modStep_evolves
    | with_reducible apply State.count_evolves
    | simp only [evolves_update]
    | intro _
    | split

theorem resendMirror_evolves {s0 : State} {s : State} {n : Fin 16} (h : Evolves s0 s) : Evolves s0 (resendMirror s n) := by
  unfold resendMirror
  dsimp only
  repeat' first
    | with_reducible assumption
    | with_reducible apply lstoreFault_evolves
    | with_reducible apply sendRecord_evolves
    | with_reducible apply sendMirror_evolves
    | simp only [evolves_update]
    | with_reducible apply Evolves.foldl
    | intro _
    | split

theorem placeGranules_evolves {s0 : State} {s : State} {p : Part} {r : Record} {which : List Nat} (h : Evolves s0 s) : Evolves s0 (placeGranules s p r which) := by
  unfold placeGranules
  dsimp only
  repeat' first
    | with_reducible assumption
    | with_reducible apply memWrite_evolves
    | simp only [evolves_update]
    | with_reducible apply Evolves.foldl
    | intro _

theorem retained_evolves {s0 : State} {s : State} {n : Fin 16} {r : StepRec} {before : Option Record} {fault : UnitFault} (h : Evolves s0 s) : Evolves s0 (retained s n r before fault).1 := by
  unfold retained
  dsimp only
  repeat' first
    | with_reducible assumption
    | with_reducible apply rasLog_evolves
    | with_reducible apply scramble_evolves
    | with_reducible apply scrambleWords_evolves
    | simp only [evolves_update]
    | intro _
    | split

theorem applyReplay_evolves {s0 : State} {s : State} {n : Fin 16} {d : Desc} {fault : UnitFault} (h : Evolves s0 s) : Evolves s0 (applyReplay s n d fault).1 := by
  unfold applyReplay
  dsimp only
  repeat' first
    | with_reducible assumption
    | with_reducible apply lstoreFault_evolves
    | with_reducible apply abortSteps_evolves
    | with_reducible apply State.modPart_evolves
    | with_reducible apply sendMirror_evolves
    | with_reducible apply placeGranules_evolves
    | with_reducible apply retained_evolves
    | with_reducible apply scrambleWords_evolves
    | with_reducible apply putWord_evolves
    | with_reducible apply memWrite_evolves
    | with_reducible apply discardHeld_evolves
    | with_reducible apply clearPlanes_evolves
    | with_reducible apply setLastStep_evolves
    | simp only
    | with_reducible apply Evolves.foldl
    | with_reducible apply Evolves.foldl_fst
    | intro _
    | split

theorem dropSteps_evolves {s0 : State} {s : State} {n : Fin 16} (h : Evolves s0 s) : Evolves s0 (dropSteps s n) := by
  unfold dropSteps
  dsimp only
  repeat' first
    | with_reducible assumption
    | with_reducible apply discardHeld_evolves
    | with_reducible apply clearPlanes_evolves
    | with_reducible apply abortSteps_evolves
    | with_reducible apply State.modPart_evolves

theorem installShard_evolves {s0 : State} {s : State} {n : Fin 16} {r : Record} {step : Nat} (h : Evolves s0 s) : Evolves s0 (installShard s n r step).1 := by
  unfold installShard
  dsimp only
  repeat' first
    | with_reducible assumption
    | with_reducible apply dropSteps_evolves
    | with_reducible apply placeGranules_evolves
    | with_reducible apply putWord_evolves
    | with_reducible apply setLastStep_evolves
    | with_reducible apply State.modPart_evolves
    | with_reducible apply dropPlan_evolves
    | with_reducible apply lstoreFault_evolves
    | with_reducible apply writeBase_evolves
    | simp only [evolves_update]
    | with_reducible apply Evolves.foldl
    | with_reducible apply Evolves.foldl_fst
    | intro _
    | split

theorem beginRestore_evolves {s0 : State} {s : State} {n : Fin 16} {r : Fin 8} {seq : Nat} {d : Desc} (h : Evolves s0 s) : Evolves s0 (beginRestore s n r seq d) := by
  unfold beginRestore
  dsimp only
  repeat' first
    | with_reducible assumption
    | with_reducible apply sendMirror_evolves
    | with_reducible apply State.modPart_evolves

theorem shardLost_evolves {s0 : State} {s : State} {n : Fin 16} (h : Evolves s0 s) : Evolves s0 (shardLost s n) := by
  unfold shardLost
  dsimp only
  repeat' first
    | with_reducible assumption
    | with_reducible apply dropSteps_evolves
    | with_reducible apply memWrite_evolves
    | with_reducible apply putWord_evolves
    | with_reducible apply lstoreFault_evolves
    | with_reducible apply State.modPart_evolves
    | with_reducible apply endJob_evolves
    | with_reducible apply rasLog_evolves
    | simp only
    | with_reducible apply Evolves.foldl
    | intro _
    | split

theorem finishRestore_evolves {s0 : State} {s : State} {n : Fin 16} (h : Evolves s0 s) : Evolves s0 (finishRestore s n) := by
  unfold finishRestore
  dsimp only
  repeat' first
    | with_reducible assumption
    | with_reducible apply installShard_evolves
    | with_reducible apply endJob_evolves
    | simp only [evolves_update]
    | intro _
    | split

theorem modHosted_evolves {s0 : State} {s : State} {n : Fin 16} {f : Hosted → Hosted} (h : Evolves s0 s) : Evolves s0 (modHosted s n f) := by
  unfold modHosted
  repeat' first
    | with_reducible assumption
    | with_reducible apply State.modPart_evolves

theorem refuse_evolves {s0 : State} {s : State} {n : Fin 16} {q : Fin 24} {step why : Nat} (h : Evolves s0 s) : Evolves s0 (refuse s n q step why) := by
  unfold refuse
  dsimp only
  repeat' first
    | with_reducible assumption
    | with_reducible apply sendMirror_evolves

theorem finishOne_evolves {s0 : State} {s : State} {n : Fin 16} {q : Fin 24} {m : MirrorTable} {t : Xfer} (h : Evolves s0 s) : Evolves s0 (finishOne s n q m t) := by
  unfold finishOne
  dsimp only
  repeat' first
    | with_reducible assumption
    | with_reducible apply modHosted_evolves
    | with_reducible apply sendMirror_evolves
    | with_reducible apply rasLog_evolves
    | simp only [evolves_update]
    | intro _
    | split

theorem finishHosted_evolves {s0 : State} {s : State} {n : Fin 16} {q : Fin 24} {m : MirrorTable} (h : Evolves s0 s) : Evolves s0 (finishHosted s n q m) := by
  unfold finishHosted
  repeat' first
    | with_reducible assumption
    | with_reducible apply finishOne_evolves
    | simp only [evolves_update]
    | with_reducible apply Evolves.foldl
    | intro _
    | split

theorem serveRestore_evolves {s0 : State} {s : State} {n : Fin 16} {q : Fin 24} {m : MirrorTable} {step : Nat} (h : Evolves s0 s) : Evolves s0 (serveRestore s n q m step) := by
  unfold serveRestore
  dsimp only
  repeat' first
    | with_reducible assumption
    | with_reducible apply refuse_evolves
    | with_reducible apply rasLog_evolves
    | with_reducible apply sendRecord_evolves
    | simp only [evolves_update]
    | intro _
    | split

theorem receiveHello_evolves {s0 : State} {s : State} {n : Fin 16} {q : Fin 24} {m : MirrorTable} {x : Parcel} (h : Evolves s0 s) : Evolves s0 (receiveHello s n q m x) := by
  unfold receiveHello
  dsimp only
  repeat' first
    | with_reducible assumption
    | with_reducible apply refuse_evolves
    | with_reducible apply modHosted_evolves
    | simp only [evolves_update]
    | intro _
    | split

theorem receiveHosted_evolves {s0 : State} {s : State} {n : Fin 16} {q : Fin 24} {m : MirrorTable} {x : Parcel} (h : Evolves s0 s) : Evolves s0 (receiveHosted s n q m x) := by
  unfold receiveHosted
  dsimp only
  repeat' first
    | with_reducible assumption
    | with_reducible apply receiveHello_evolves
    | with_reducible apply refuse_evolves
    | with_reducible apply State.countPort_evolves
    | with_reducible apply serveRestore_evolves
    | with_reducible apply modHosted_evolves
    | with_reducible apply finishHosted_evolves
    | simp only [evolves_update]
    | intro _
    | split

theorem undoJob_evolves {s0 : State} {s : State} {n : Fin 16} (h : Evolves s0 s) : Evolves s0 (undoJob s n) := by
  unfold undoJob
  repeat' first
    | with_reducible assumption
    | with_reducible apply State.modPart_evolves

theorem receivePartner_evolves {s0 : State} {s : State} {n : Fin 16} {x : Parcel} (h : Evolves s0 s) : Evolves s0 (receivePartner s n x) := by
  unfold receivePartner
  dsimp only
  repeat' first
    | with_reducible assumption
    | with_reducible apply takeAck_evolves
    | with_reducible apply endJob_evolves
    | with_reducible apply undoJob_evolves
    | with_reducible apply State.modPart_evolves
    | with_reducible apply State.count_evolves
    | with_reducible apply finishRestore_evolves
    | simp only [evolves_update]
    | intro _
    | split

theorem receiveMirror_evolves {s0 : State} {s : State} {n : Fin 16} {q : Fin 24} {x : Parcel} (h : Evolves s0 s) : Evolves s0 (receiveMirror s n q x) := by
  unfold receiveMirror
  dsimp only
  repeat' first
    | with_reducible assumption
    | with_reducible apply discard_evolves
    | with_reducible apply receiveHosted_evolves
    | with_reducible apply returnCredits_evolves
    | with_reducible apply receivePartner_evolves
    | simp only [evolves_update]
    | intro _
    | split

theorem dropPartial_evolves {s0 : State} {s : State} {n : Fin 16} (h : Evolves s0 s) : Evolves s0 (dropPartial s n) := by
  unfold dropPartial
  repeat' first
    | with_reducible assumption
    | with_reducible apply modHosted_evolves

theorem linkDown_evolves {s0 : State} {s : State} {q : Fin 24} (h : Evolves s0 s) : Evolves s0 (linkDown s q) := by
  unfold linkDown
  dsimp only
  repeat' first
    | with_reducible assumption
    | with_reducible apply dropPartial_evolves
    | with_reducible apply portDown_evolves
    | simp only [evolves_update]
    | intro _
    | split

theorem linkJoin_evolves {s0 : State} {s : State} {q : Fin 24} (h : Evolves s0 s) : Evolves s0 (linkJoin s q) := by
  unfold linkJoin
  dsimp only
  repeat' first
    | with_reducible assumption
    | with_reducible apply joinPort_evolves
    | with_reducible apply resendMirror_evolves
    | simp only
    | intro _
    | split

end Sys2Proof.Machine
end

