-- ==== Sys2Proof/Laws/Registers.lean ====
section
/-! SUPPORT. Laws of the staged registers: a field written is read back and leaves the others alone, and the check of R402 gives every register a legal word. -/
namespace Sys2Proof.Machine

/-! ### Fields of a word -/

theorem field_split (x l k : Nat) : x = x / 2 ^ (l + k) * 2 ^ (l + k) + x / 2 ^ l % 2 ^ k * 2 ^ l + x % 2 ^ l := by
  have h1 : x / 2 ^ l = x / 2 ^ l / 2 ^ k * 2 ^ k + x / 2 ^ l % 2 ^ k := (Nat.div_add_mod' _ _).symm
  have h2 : x = x / 2 ^ l * 2 ^ l + x % 2 ^ l := (Nat.div_add_mod' _ _).symm
  rw [Nat.pow_add, ← Nat.div_div_eq_div_mul]
  calc x = x / 2 ^ l * 2 ^ l + x % 2 ^ l := h2
    _ = (x / 2 ^ l / 2 ^ k * 2 ^ k + x / 2 ^ l % 2 ^ k) * 2 ^ l + x % 2 ^ l := by rw [← h1]
    _ = _ := by rw [Nat.add_mul, Nat.mul_assoc, Nat.mul_comm (2 ^ k)]

/-- A word with a field replaced, as a number. -/
def putNat (x l k v : Nat) : Nat := x - x / 2 ^ l % 2 ^ k * 2 ^ l + v * 2 ^ l

theorem putNat_eq (x l k v : Nat) : putNat x l k v = x / 2 ^ (l + k) * 2 ^ (l + k) + v * 2 ^ l + x % 2 ^ l := by
  have h := field_split x l k
  unfold putNat
  omega

theorem low_lt {l k v r : Nat} (hv : v < 2 ^ k) (hr : r < 2 ^ l) : v * 2 ^ l + r < 2 ^ (l + k) := by
  rw [Nat.pow_add, Nat.mul_comm (2 ^ l)]
  calc v * 2 ^ l + r < v * 2 ^ l + 2 ^ l := by omega
    _ = (v + 1) * 2 ^ l := by rw [Nat.add_mul, Nat.one_mul]
    _ ≤ 2 ^ k * 2 ^ l := Nat.mul_le_mul_right _ hv

theorem putNat_lt {x l k v n : Nat} (hx : x < 2 ^ n) (hv : v < 2 ^ k) (hn : l + k ≤ n) : putNat x l k v < 2 ^ n := by
  rw [putNat_eq]
  have h1 := low_lt hv (Nat.mod_lt x (Nat.two_pow_pos l))
  obtain ⟨d, rfl⟩ := Nat.exists_eq_add_of_le hn
  have h2 : x / 2 ^ (l + k) < 2 ^ d := by
    rw [Nat.div_lt_iff_lt_mul (Nat.two_pow_pos _), Nat.mul_comm, ← Nat.pow_add]; exact hx
  have h3 := low_lt h2 h1
  rw [Nat.add_assoc]
  exact h3

theorem putNat_same {x l k v : Nat} (hv : v < 2 ^ k) : putNat x l k v / 2 ^ l % 2 ^ k = v := by
  rw [putNat_eq, Nat.pow_add, Nat.mul_comm (2 ^ l), ← Nat.mul_assoc, ← Nat.add_mul,
    Nat.mul_comm, Nat.mul_add_div (Nat.two_pow_pos l), Nat.div_eq_of_lt (Nat.mod_lt _ (Nat.two_pow_pos l)), Nat.add_zero,
    Nat.mul_comm, Nat.mul_add_mod, Nat.mod_eq_of_lt hv]

theorem putNat_above {x l k v l' k' : Nat} (hv : v < 2 ^ k) (h : l + k ≤ l') : putNat x l k v / 2 ^ l' % 2 ^ k' = x / 2 ^ l' % 2 ^ k' := by
  obtain ⟨d, rfl⟩ := Nat.exists_eq_add_of_le h
  rw [putNat_eq, Nat.add_assoc, Nat.pow_add 2 (l + k), ← Nat.div_div_eq_div_mul, ← Nat.div_div_eq_div_mul, Nat.mul_comm (x / 2 ^ (l + k)),
    Nat.mul_add_div (Nat.two_pow_pos _), Nat.div_eq_of_lt (low_lt hv (Nat.mod_lt x (Nat.two_pow_pos l))), Nat.add_zero]

theorem field_mod {x l l' k' : Nat} (h : l' + k' ≤ l) : x % 2 ^ l / 2 ^ l' % 2 ^ k' = x / 2 ^ l' % 2 ^ k' := by
  obtain ⟨d, rfl⟩ := Nat.exists_eq_add_of_le h
  rw [Nat.add_assoc, Nat.pow_add 2 l', Nat.mod_mul_right_div_self, Nat.pow_add, Nat.mod_mul_right_mod]

theorem putNat_below {x l k v l' k' : Nat} (h : l' + k' ≤ l) : putNat x l k v / 2 ^ l' % 2 ^ k' = x / 2 ^ l' % 2 ^ k' := by
  have e : putNat x l k v % 2 ^ l = x % 2 ^ l := by
    rw [putNat_eq, Nat.pow_add, Nat.mul_comm (2 ^ l), ← Nat.mul_assoc, ← Nat.add_mul, Nat.mul_comm, Nat.mul_add_mod, Nat.mod_mod]
  rw [← field_mod h, e, field_mod h]

theorem Field.get_eq (f : Field) (w : Word) : f.get w = w.toNat / 2 ^ f.lsb % 2 ^ f.width := by
  rw [Field.get, Nat.shiftRight_eq_div_pow]

theorem Field.get_lt (f : Field) (w : Word) : f.get w < 2 ^ f.width := by rw [Field.get]; exact Nat.mod_lt _ (Nat.two_pow_pos _)

theorem Field.put_toNat (f : Field) (w : Word) (v : Nat) (hf : f.lsb + f.width ≤ 32) :
    (f.put w v).toNat = putNat w.toNat f.lsb f.width (v % 2 ^ f.width) := by
  have e : f.put w v = BitVec.ofNat 32 (putNat w.toNat f.lsb f.width (v % 2 ^ f.width)) := by
    rw [Field.put, Field.get_eq, putNat]
  rw [e, BitVec.toNat_ofNat]
  exact Nat.mod_eq_of_lt (putNat_lt w.isLt (Nat.mod_lt _ (Nat.two_pow_pos _)) hf)

/-- A field reads back the value put into it. -/
theorem Field.get_put_same (f : Field) (w : Word) (v : Nat) (hf : f.lsb + f.width ≤ 32) : f.get (f.put w v) = v % 2 ^ f.width := by
  rw [Field.get_eq, f.put_toNat w v hf]
  exact putNat_same (Nat.mod_lt _ (Nat.two_pow_pos _))

/-- A field keeps its value when one beside it is written. -/
theorem Field.get_put_other (g f : Field) (w : Word) (v : Nat) (hf : f.lsb + f.width ≤ 32)
    (h : g.lsb + g.width ≤ f.lsb ∨ f.lsb + f.width ≤ g.lsb) : g.get (f.put w v) = g.get w := by
  rw [Field.get_eq, Field.get_eq, f.put_toNat w v hf]
  rcases h with h | h
  · exact putNat_below h
  · exact putNat_above (Nat.mod_lt _ (Nat.two_pow_pos _)) h

/-! ### The field lists of the staged registers -/

/-- Two fields share no bit. -/
def Field.apart (f g : Field) : Bool := decide (f.lsb + f.width ≤ g.lsb) || decide (g.lsb + g.width ≤ f.lsb)

/-- The values that R402 lets a commit apply to a field fit into it. -/
def Field.fits (f : Field) : Bool :=
  decide (f.lsb + f.width ≤ 32) &&
    match f.kind with
    | .num lo hi => decide (lo ≤ hi) && decide (hi < 2 ^ f.width)
    | .enum codes d => codes.contains d && codes.all fun c => decide (c < 2 ^ f.width)
    | .nonzero d => d != 0 && decide (d < 2 ^ f.width)
    | _ => true

/-- A list of fields that share no bit, each of which fits and whose reset values are legal. -/
def shapeOk : List Field → Bool
  | [] => true
  | f :: fs => f.fits && fs.all (fun g => f.apart g) && shapeOk fs

/-- A register's fields as the tables give them. -/
def regFieldsOk (fs : List Field) : Bool :=
  shapeOk fs && fs.all fun f => legalField f.kind (f.get (resetWord fs))

theorem fieldsPart_ok (n : Nat) : regFieldsOk (fieldsPart n) = true := by
  unfold fieldsPart; split <;> decide

theorem fieldsD2dPart_ok (n : Nat) : regFieldsOk (fieldsD2dPart n) = true := by
  unfold fieldsD2dPart; split <;> decide

theorem fieldsPwr_ok (n : Nat) : regFieldsOk (fieldsPwr n) = true := by
  unfold fieldsPwr; split <;> decide

theorem fieldsLnk_ok (n : Nat) : regFieldsOk (fieldsLnk n) = true := by
  unfold fieldsLnk; split <;> decide

theorem fieldsNumerics_ok : regFieldsOk fieldsNumerics = true := by decide
theorem fieldsCodecCtl_ok : regFieldsOk fieldsCodecCtl = true := by decide
theorem fieldsCodecStream_ok : regFieldsOk fieldsCodecStream = true := by decide
theorem fieldsD2dCtl_ok : regFieldsOk fieldsD2dCtl = true := by decide
theorem fieldsArrayMode_ok : regFieldsOk fieldsArrayMode = true := by decide
theorem fieldsScrub_ok : regFieldsOk fieldsScrub = true := by decide
theorem fieldsRetire_ok : regFieldsOk fieldsRetire = true := by decide
theorem fieldsFdomain_ok : regFieldsOk fieldsFdomain = true := by decide
theorem fieldsLdgCtl_ok : regFieldsOk fieldsLdgCtl = true := by decide
theorem fieldsSeed_ok : regFieldsOk fieldsSeed = true := by decide
theorem fieldsClvTimeout_ok : regFieldsOk fieldsClvTimeout = true := by decide
theorem fieldsCdcMode_ok : regFieldsOk fieldsCdcMode = true := by decide
theorem fieldsCdcTimeout_ok : regFieldsOk fieldsCdcTimeout = true := by decide

/-- Every staged register has a sound list of fields. -/
theorem regKind_fieldsOk {off : Nat} {sc : Scope} {fs : List Field} (h : regKind off = .staged sc fs) : regFieldsOk fs = true := by
  unfold regKind at h
  dsimp only at h
  split at h <;> (repeat' split at h)
  all_goals cases h
  all_goals with_reducible first
    | exact fieldsPart_ok _
    | exact fieldsD2dPart_ok _
    | exact fieldsPwr_ok _
    | exact fieldsLnk_ok _
    | exact fieldsNumerics_ok
    | exact fieldsCodecCtl_ok
    | exact fieldsCodecStream_ok
    | exact fieldsD2dCtl_ok
    | exact fieldsArrayMode_ok
    | exact fieldsScrub_ok
    | exact fieldsRetire_ok
    | exact fieldsFdomain_ok
    | exact fieldsLdgCtl_ok
    | exact fieldsSeed_ok
    | exact fieldsClvTimeout_ok
    | exact fieldsCdcMode_ok
    | exact fieldsCdcTimeout_ok

/-! ### The check of R402 -/

theorem shapeOk_append {ps fs : List Field} {f : Field} (h : shapeOk (ps ++ f :: fs) = true) :
    f.fits = true ∧ (∀ g ∈ ps, g.apart f = true) := by
  induction ps with
  | nil =>
    simp only [List.nil_append, shapeOk, Bool.and_eq_true] at h
    exact ⟨h.1.1, by simp⟩
  | cons p ps ih =>
    simp only [List.cons_append, shapeOk, Bool.and_eq_true, List.all_eq_true] at h
    obtain ⟨h1, h2⟩ := ih h.2
    refine ⟨h1, fun g hg => ?_⟩
    rcases List.mem_cons.1 hg with rfl | hg
    · exact h.1.2 f (by simp)
    · exact h2 g hg

theorem rangeBound_le (top first a : Nat) (l : List (Nat × Nat)) : rangeBound top first a l ≤ a := by
  unfold rangeBound
  dsimp only
  split
  · exact Nat.zero_le _
  · exact Nat.min_le_left _ _

theorem regKind_part {off n : Nat} (h : regIndex off 0x10400 4 16 = some n) : regKind off = .staged .device (fieldsPart n) := by
  have hr : 0x10400 ≤ off ∧ off < 0x10440 := by
    unfold regIndex at h; split at h
    · omega
    · cases h
  unfold regKind
  rw [show off / 0x10000 = 1 by omega]
  simp only [h]
  rw [if_neg (by omega)]

theorem regKind_d2dPart {off n : Nat} (h : regIndex off 0x40100 4 16 = some n) : regKind off = .staged .device (fieldsD2dPart n) := by
  have hr : 0x40100 ≤ off ∧ off < 0x40140 := by
    unfold regIndex at h; split at h
    · omega
    · cases h
  unfold regKind
  rw [show off / 0x10000 = 4 by omega]
  simp only [h]
  rw [if_neg (by omega), if_neg (by omega)]

/-- The bound that depends on other fields keeps a number inside its range. -/
theorem dependentBound_range {s : State} {img : RegMap} {off lo hi : Nat} {sc : Scope} {fs ps rest : List Field} {f : Field} {out : Word} {a : Nat}
    (hk : regKind off = .staged sc fs) (hp : ps ++ f :: rest = fs) (hl : ∀ g ∈ ps, legalField g.kind (g.get out) = true)
    (hf : f.kind = .num lo hi) (ha : lo ≤ a ∧ a ≤ hi) :
    lo ≤ dependentBound s img off f.lsb out a ∧ dependentBound s img off f.lsb out a ≤ hi := by
  have hm : f ∈ fs := hp ▸ List.mem_append_right _ List.mem_cons_self
  unfold dependentBound
  split
  · rename_i h
    obtain ⟨rfl, h16⟩ := h
    cases (hk : RegKind.staged Scope.device (fieldsPwr 2) = _)
    have h0 : 20 ≤ wbits out 8 0 := by
      rcases ps with _ | ⟨p, ps⟩
      · obtain ⟨rfl, -⟩ := List.cons.inj hp; exact absurd h16 (by decide)
      · obtain ⟨rfl, -⟩ := List.cons.inj hp
        have := hl _ List.mem_cons_self
        simp only [legalField, fNum, Bool.and_eq_true] at this
        exact of_decide_eq_true this.1
    simp only [fieldsPwr, List.mem_cons, List.not_mem_nil, or_false] at hm
    rcases hm with rfl | rfl | rfl | rfl
    · exact absurd h16 (by decide)
    · exact absurd h16 (by decide)
    · cases hf; omega
    · exact absurd h16 (by decide)
  · split
    · rename_i h
      obtain ⟨rfl, h8⟩ := h
      cases (hk : RegKind.staged Scope.device (fieldsPwr 3) = _)
      have h0 : wbits out 7 0 ≤ 110 := by
        rcases ps with _ | ⟨p, ps⟩
        · obtain ⟨rfl, -⟩ := List.cons.inj hp; exact absurd h8 (by decide)
        · obtain ⟨rfl, -⟩ := List.cons.inj hp
          have := hl _ List.mem_cons_self
          simp only [legalField, fNum, Bool.and_eq_true] at this
          exact of_decide_eq_true this.2
      simp only [fieldsPwr, List.mem_cons, List.not_mem_nil, or_false] at hm
      rcases hm with rfl | rfl | rfl | rfl
      · exact absurd h8 (by decide)
      · cases hf; omega
      · exact absurd h8 (by decide)
      · exact absurd h8 (by decide)
    · split
      · rename_i n hn
        cases (regKind_part hn).symm.trans hk
        split
        · rename_i h8
          have hlo : lo = 0 := by
            simp only [fieldsPart, List.mem_cons, List.not_mem_nil, or_false] at hm
            rcases hm with rfl | rfl | rfl | rfl
            · exact absurd h8 (by simp [fPlain])
            · exact absurd h8 (by simp [fResv])
            · cases hf; rfl
            · exact absurd h8 (by simp [fResv])
          exact ⟨Nat.le_trans (Nat.le_of_eq hlo) (Nat.zero_le _), Nat.le_trans (rangeBound_le _ _ _ _) ha.2⟩
        · exact ha
      · rename_i n hn
        cases (regKind_d2dPart hn).symm.trans hk
        split
        · rename_i h16
          have hlo : lo = 0 := by
            simp only [fieldsD2dPart, List.mem_cons, List.not_mem_nil, or_false] at hm
            rcases hm with rfl | rfl
            · exact absurd h16 (by simp [fNum])
            · cases hf; rfl
          exact ⟨Nat.le_trans (Nat.le_of_eq hlo) (Nat.zero_le _), Nat.le_trans (rangeBound_le _ _ _ _) ha.2⟩
        · exact ha
      · exact ha

/-- Whatever is written, the value that the check applies to a field is legal and fits. -/
theorem checkField_legal {s : State} {img : RegMap} {off : Nat} {sc : Scope} {fs ps rest : List Field} {f : Field} {out : Word} {v : Nat}
    (hk : regKind off = .staged sc fs) (hp : ps ++ f :: rest = fs) (hl : ∀ g ∈ ps, legalField g.kind (g.get out) = true)
    (hv : v < 2 ^ f.width) :
    legalField f.kind (checkField s img off out f v).1 = true ∧ (checkField s img off out f v).1 < 2 ^ f.width := by
  have hfit : f.fits = true := by
    have := regKind_fieldsOk hk
    rw [regFieldsOk, Bool.and_eq_true, ← hp] at this
    exact (shapeOk_append this.1).1
  simp only [Field.fits, Bool.and_eq_true, decide_eq_true_eq] at hfit
  obtain ⟨-, hfit⟩ := hfit
  unfold checkField
  cases hf : f.kind with
  | locked => dsimp only; split <;> simp [legalField, hv, Field.get_lt]
  | reserved => dsimp only; split <;> simp [legalField, Nat.two_pow_pos]
  | plain => simp [legalField, hv]
  | nonzero d =>
    simp only [hf, Bool.and_eq_true, decide_eq_true_eq] at hfit
    dsimp only
    split
    · exact ⟨hfit.1, hfit.2⟩
    · rename_i h; exact ⟨by simpa [legalField] using h, hv⟩
  | enum codes d =>
    simp only [hf, Bool.and_eq_true, List.all_eq_true, decide_eq_true_eq] at hfit
    dsimp only
    split
    · rename_i h; exact ⟨h, hv⟩
    · exact ⟨hfit.1, hfit.2 d (by simpa using hfit.1)⟩
  | num lo hi =>
    simp only [hf, Bool.and_eq_true, decide_eq_true_eq] at hfit
    dsimp only
    have h := dependentBound_range (s := s) (img := img) (a := max lo (min hi v)) hk hp hl hf (by omega)
    exact ⟨by simp [legalField, h.1, h.2], Nat.lt_of_le_of_lt h.2 hfit.2⟩

/-- The part of the check that remains after `ps` keeps every field legal. -/
theorem checkReg_fold {s : State} {img : RegMap} {off : Nat} {sc : Scope} {fs : List Field} {w : Word} (hk : regKind off = .staged sc fs)
    (rest : List Field) : ∀ (ps : List Field) (acc : Word × List ClampEntry), ps ++ rest = fs →
      (∀ g ∈ ps, legalField g.kind (g.get acc.1) = true) →
      ∀ g ∈ fs, legalField g.kind (g.get (rest.foldl (fun (acc : Word × List ClampEntry) f =>
        let v := f.get w
        let x := checkField s img off acc.1 f v
        (f.put acc.1 x.1, match x.2 with | some k => acc.2 ++ [(off, f.lsb, k, v, x.1)] | none => acc.2)) acc).1) = true := by
  induction rest with
  | nil => intro ps acc hp hl g hg; rw [← hp, List.append_nil] at hg; exact hl g hg
  | cons f rest ih =>
    intro ps acc hp hl
    rw [List.foldl_cons]
    refine ih (ps ++ [f]) _ (by rw [List.append_assoc]; exact hp) ?_
    have hs := regKind_fieldsOk hk
    rw [regFieldsOk, Bool.and_eq_true, ← hp] at hs
    obtain ⟨hfit, hap⟩ := shapeOk_append hs.1
    have h32 : f.lsb + f.width ≤ 32 := by
      simp only [Field.fits, Bool.and_eq_true, decide_eq_true_eq] at hfit; exact hfit.1
    have hx := checkField_legal (s := s) (img := img) hk hp hl (f.get_lt w)
    intro g hg
    dsimp only
    rcases List.mem_append.1 hg with hg | hg
    · rw [g.get_put_other f _ _ h32 (by simpa [Field.apart] using hap g hg)]
      exact hl g hg
    · rw [List.mem_singleton] at hg
      subst hg
      rw [g.get_put_same _ _ h32, Nat.mod_eq_of_lt hx.2]
      exact hx.1

/-- The check gives a register a legal word. -/
theorem checkReg_legal {s : State} {img : RegMap} {off : Nat} {sc : Scope} {fs : List Field} {w : Word} (hk : regKind off = .staged sc fs) :
    legalReg off (checkReg s img off fs w).1 = true := by
  unfold legalReg
  rw [hk]
  exact List.all_eq_true.2 (checkReg_fold hk fs [] (0, []) rfl (by simp))

/-! ### Register images -/

theorem legalReg_reset (off : Nat) : legalReg off (resetValue off) = true := by
  unfold legalReg resetValue
  cases h : regKind off with
  | staged sc fs =>
    have := regKind_fieldsOk h
    rw [regFieldsOk, Bool.and_eq_true] at this
    exact this.2
  | _ => rfl

/-- A register of a legal image holds a legal word. -/
theorem legalReg_get {m : RegMap} (h : legalMap m = true) (off : Nat) : legalReg off (regGet m off) = true := by
  unfold regGet
  induction m with
  | nil => exact legalReg_reset off
  | cons e t ih =>
    obtain ⟨a, w⟩ := e
    simp only [legalMap, List.all_cons, Bool.and_eq_true] at h
    unfold Sparse.get
    split
    · rename_i e; rw [e]; exact h.1
    · exact ih h.2

theorem legalMap_erase {m : RegMap} (h : legalMap m = true) (off : Nat) : legalMap (Sparse.erase m off) = true := by
  induction m with
  | nil => rfl
  | cons e t ih =>
    obtain ⟨a, w⟩ := e
    simp only [legalMap, List.all_cons, Bool.and_eq_true] at h
    unfold Sparse.erase
    split
    · exact h.2
    · simp only [legalMap, List.all_cons, Bool.and_eq_true]; exact ⟨h.1, ih h.2⟩

theorem legalMap_insert {m : RegMap} {off : Nat} {v : Word} (h : legalMap m = true) (hv : legalReg off v = true) :
    legalMap (Sparse.insert m off v) = true := by
  induction m with
  | nil => simpa [Sparse.insert, legalMap] using hv
  | cons e t ih =>
    obtain ⟨a, w⟩ := e
    have h' := h
    simp only [legalMap, List.all_cons, Bool.and_eq_true] at h'
    unfold Sparse.insert
    split
    · simp only [legalMap, List.all_cons, Bool.and_eq_true]; exact ⟨hv, h'⟩
    · split
      · simp only [legalMap, List.all_cons, Bool.and_eq_true]; exact ⟨hv, h'.2⟩
      · simp only [legalMap, List.all_cons, Bool.and_eq_true]; exact ⟨h'.1, ih h'.2⟩

/-- Writing a legal word keeps an image legal. -/
theorem legalMap_put {m : RegMap} {off : Nat} {v : Word} (h : legalMap m = true) (hv : legalReg off v = true) :
    legalMap (regPut m off v) = true := by
  unfold regPut Sparse.put
  split
  · exact legalMap_erase h off
  · exact legalMap_insert h hv

theorem legalMap_filter {m : RegMap} (p : Nat × Word → Bool) (h : legalMap m = true) : legalMap (m.filter p) = true := by
  simp only [legalMap, List.all_eq_true] at *
  exact fun e he => h e (List.mem_filter.1 he).1

/-- A CFG_PART_n of COUNT 0 is legal. -/
theorem legalReg_noCount (n : Fin 16) (k : Nat) (h : k < 128) : legalReg (0x10400 + 4 * n.val) (BitVec.ofNat 32 k) = true := by
  have hi : regIndex (0x10400 + 4 * n.val) 0x10400 4 16 = some n.val := by
    unfold regIndex; rw [if_pos (by omega)]; congr 1; omega
  have hk : k % 2 ^ 32 = k := Nat.mod_eq_of_lt (by omega)
  unfold legalReg
  rw [regKind_part hi]
  simp only [fieldsPart, List.all_cons, List.all_nil, fPlain, fResv, fNum, legalField, Field.get, BitVec.toNat_ofNat, hk, Nat.shiftRight_eq_div_pow,
    Bool.and_eq_true, beq_iff_eq, decide_eq_true_eq]
  refine ⟨trivial, ?_, ⟨?_, ?_⟩, ?_, trivial⟩ <;> omega

/-- A CFG_PART_n that a commit looks at without a write keeps an image legal. -/
theorem checkPart_legal {img : RegMap} (n : Fin 16) (h : legalMap img = true) : legalMap (checkPart img n).1 = true := by
  unfold checkPart
  dsimp only
  split
  · exact legalMap_put h (legalReg_noCount n _ (Nat.mod_lt _ (by decide)))
  · exact h

/-- The image that a commit makes is legal. -/
theorem checkImage_legal {s : State} (h : legalMap s.cfg.committed = true) : legalMap (checkImage s).1 = true := by
  unfold checkImage
  generalize hacc : (s.cfg.committed, ([] : List ClampEntry)) = acc
  have h0 : legalMap acc.1 = true := by rw [← hacc]; exact h
  have pair : ∀ (x : RegMap × List ClampEntry) (l : List ClampEntry), legalMap x.1 = true → legalMap (x.1, l ++ x.2).1 = true := fun _ _ h => h
  clear hacc
  induction checkList s generalizing acc with
  | nil => exact h0
  | cons e l ih =>
    rw [List.foldl_cons]
    apply ih
    obtain ⟨off, ow⟩ := e
    cases ow with
    | none => exact pair _ _ (checkPart_legal _ h0)
    | some w =>
      cases hk : regKind off with
      | staged sc fs => exact legalMap_put h0 (checkReg_legal hk)
      | _ => exact h0

end Sys2Proof.Machine
end

