-- ==== Sys2Proof/Laws/EvolvesCommit.lean ====
section
/-! SUPPORT. The operations of Machine/Commit.lean evolve the state (Laws/Evolves.lean). -/
namespace Sys2Proof.Machine

theorem stage_evolves {s0 s : State} {off size : Nat} {value : BitVec 64} (h : Evolves s0 s) : Evolves s0 (stage s off size value) := by
  have same : ∀ x y, Evolves s0 { s with cfg := { s.cfg with staged := x, bad := y } } := fun x y =>
    h.trans (Evolves.config rfl rfl rfl rfl rfl rfl id (fun a b => ⟨a, b⟩) rfl)
  unfold stage
  dsimp only
  split
  · exact h
  · split
    · exact same _ _
    · split
      · exact same _ _
      · exact h
      · exact same _ _

theorem commitImage_evolves {s0 s : State} (h : Evolves s0 s) : Evolves s0 (commitImage s) :=
  h.trans (Evolves.config rfl rfl rfl rfl rfl rfl (fun _ => List.length_take_le _ _) (fun a b => ⟨checkImage_legal a, b⟩) rfl)

theorem forceReg_evolves {s0 s : State} {off : Nat} (h : Evolves s0 s) : Evolves s0 (forceReg s off) :=
  h.trans (Evolves.config rfl rfl rfl rfl rfl rfl id (fun a b => ⟨a, legalMap_put b (legalReg_get a off)⟩) rfl)

theorem portEnable_evolves {s0 : State} {s : State} {q : Fin 24} {was now : Bool} (h : Evolves s0 s) : Evolves s0 (portEnable s q was now) := by
  unfold portEnable
  dsimp only
  repeat' first
    | with_reducible assumption
    | with_reducible apply State.modPort_evolves
    | with_reducible apply leavePort_evolves
    | with_reducible apply endPortOp_evolves
    | simp only [evolves_update]
    | intro _
    | split

theorem forcePort_evolves {s0 : State} {s : State} {q : Nat} {off : Nat} (h : Evolves s0 s) : Evolves s0 (forcePort s q off) := by
  unfold forcePort
  dsimp only
  repeat' first
    | with_reducible assumption
    | with_reducible apply forceReg_evolves
    | with_reducible apply portEnable_evolves
    | with_reducible apply settleTx_evolves
    | intro _
    | split

theorem forcePorts_evolves {s0 : State} {s : State} {sel : Option Nat → Bool} (h : Evolves s0 s) : Evolves s0 (forcePorts s sel) := by
  unfold forcePorts
  repeat' first
    | with_reducible assumption
    | with_reducible apply forcePort_evolves
    | simp only [evolves_update]
    | with_reducible apply Evolves.foldl
    | intro _
    | split

theorem forceUnowned_evolves {s0 : State} {s : State} (h : Evolves s0 s) : Evolves s0 (forceUnowned s) := by
  unfold forceUnowned
  repeat' first
    | with_reducible assumption
    | with_reducible apply forcePorts_evolves

theorem applyPart_evolves {s0 : State} {s : State} {n : Fin 16} (h : Evolves s0 s) : Evolves s0 (applyPart s n).1 := by
  unfold applyPart
  dsimp only
  repeat' first
    | with_reducible assumption
    | with_reducible apply forceReg_evolves
    | with_reducible apply forcePorts_evolves
    | with_reducible apply State.modPart_evolves
    | simp only [evolves_update]
    | with_reducible apply Evolves.foldl
    | with_reducible apply Evolves.foldl_fst
    | intro _
    | split

theorem applyDevice_evolves {s0 s : State} (h : Evolves s0 s) : Evolves s0 (applyDevice s).1 := by
  unfold applyDevice
  dsimp only
  apply Evolves.foldl
  · refine Evolves.trans (Evolves.foldl h fun t o ht => ?_) (Evolves.config rfl rfl rfl rfl rfl rfl id (fun a b => ⟨a, b⟩) rfl)
    split
    · exact forceReg_evolves ht
    · exact ht
  · intro t n ht
    exact State.modPart_evolves (requestClosure_evolves ht)

theorem bumpGen_evolves {s0 : State} {s : State} {n : Fin 16} (h : Evolves s0 s) : Evolves s0 (bumpGen s n) := by
  unfold bumpGen
  dsimp only
  repeat' first
    | with_reducible assumption
    | with_reducible apply State.modPart_evolves

end Sys2Proof.Machine
end

