-- ==== Sys2Proof/Laws/EvolvesPower.lean ====
section
/-! SUPPORT. The operations of Machine/Power.lean evolve the state (Laws/Evolves.lean). -/
namespace Sys2Proof.Machine

theorem queueTaps_evolves {s0 : State} {s : State} {b cov ceil : Nat} (h : Evolves s0 s) : Evolves s0 (queueTaps s b cov ceil) := by
  unfold queueTaps
  repeat' first
    | with_reducible assumption
    | simp only [evolves_update]

theorem applyTaps_evolves {s0 : State} {s : State} {xs : List (Nat × Nat × Nat)} {sel : Nat → Bool} (h : Evolves s0 s) : Evolves s0 (applyTaps s xs sel) := by
  unfold applyTaps
  dsimp only
  repeat' first
    | with_reducible assumption
    | simp only [evolves_update]
    | with_reducible apply Evolves.foldl
    | intro _
    | split

theorem tapsNow_evolves {s0 : State} {s : State} {gate : Option (Fin 16)} (h : Evolves s0 s) : Evolves s0 (tapsNow s gate) := by
  unfold tapsNow
  repeat' first
    | with_reducible assumption
    | with_reducible apply applyTaps_evolves

theorem setVcore_evolves {s0 : State} {s : State} {c : Nat} (h : Evolves s0 s) : Evolves s0 (setVcore s c) := by
  unfold setVcore
  dsimp only
  repeat' first
    | with_reducible assumption
    | simp only [evolves_update]

theorem planVcore_evolves {s0 : State} {s : State} {gate : Option (Fin 16)} (h : Evolves s0 s) : Evolves s0 (planVcore s gate) := by
  unfold planVcore
  dsimp only
  repeat' first
    | with_reducible assumption
    | with_reducible apply setVcore_evolves
    | with_reducible apply tapsNow_evolves
    | with_reducible apply queueTaps_evolves
    | simp only [evolves_update]
    | with_reducible apply Evolves.foldl
    | intro _
    | split

theorem powerGate_evolves {s0 : State} {s : State} {n : Fin 16} (h : Evolves s0 s) : Evolves s0 (powerGate s n) := by
  unfold powerGate
  dsimp only
  repeat' first
    | with_reducible assumption
    | with_reducible apply planVcore_evolves
    | with_reducible apply applyTaps_evolves
    | intro _
    | split

theorem bumpPower_evolves {s0 : State} {s : State} {i k : Nat} (h : Evolves s0 s) : Evolves s0 (bumpPower s i k) := by
  unfold bumpPower
  repeat' first
    | with_reducible assumption
    | simp only [evolves_update]

theorem sag_evolves {s0 : State} {s : State} (h : Evolves s0 s) : Evolves s0 (sag s) := by
  unfold sag
  dsimp only
  repeat' first
    | with_reducible assumption
    | with_reducible apply setVcore_evolves
    | simp only [evolves_update]
    | intro _
    | split

theorem takeReadings_evolves {s0 : State} {s : State} {m : PowerMeas} (h : Evolves s0 s) : Evolves s0 (takeReadings s m) := by
  unfold takeReadings
  dsimp only
  repeat' first
    | with_reducible assumption
    | simp only [evolves_update]

theorem powerSample_evolves {s0 : State} {s : State} {m : PowerMeas} (h : Evolves s0 s) : Evolves s0 (powerSample s m) := by
  unfold powerSample
  dsimp only
  repeat' first
    | with_reducible assumption
    | with_reducible apply takeReadings_evolves
    | with_reducible apply bumpPower_evolves
    | with_reducible apply sag_evolves
    | with_reducible apply tapsNow_evolves
    | with_reducible apply planVcore_evolves
    | simp only [evolves_update]
    | intro _
    | split

theorem emergencyFall_evolves {s0 : State} {s : State} {tj : Nat} (h : Evolves s0 s) : Evolves s0 (emergencyFall s tj) := by
  unfold emergencyFall
  dsimp only
  repeat' first
    | with_reducible assumption
    | with_reducible apply setVcore_evolves
    | simp only [evolves_update]

theorem thermalEmergency_evolves {s0 : State} {s : State} {tj : Nat} (h : Evolves s0 s) : Evolves s0 (thermalEmergency s tj) := by
  unfold thermalEmergency
  dsimp only
  repeat' first
    | with_reducible assumption
    | with_reducible apply bumpPower_evolves
    | with_reducible apply emergencyFall_evolves
    | simp only [evolves_update]
    | intro _
    | split

theorem execThermalEmergency_evolves {s0 : State} {tj : Nat} {s : State} (h : Evolves s0 s) : Evolved s0 (execThermalEmergency tj s) := by
  unfold execThermalEmergency
  repeat' first
    | with_reducible assumption
    | with_reducible apply Evolved.next
    | exact Evolved.fault
    | with_reducible apply thermalEmergency_evolves

theorem emergencyStep_evolves {s0 : State} {s : State} {tj : Nat} (h : Evolves s0 s) : Evolves s0 (emergencyStep s tj) := by
  unfold emergencyStep
  repeat' first
    | with_reducible assumption
    | with_reducible apply emergencyFall_evolves
    | intro _
    | split

theorem execEmergencyStep_evolves {s0 : State} {tj : Nat} {s : State} (h : Evolves s0 s) : Evolved s0 (execEmergencyStep tj s) := by
  unfold execEmergencyStep
  repeat' first
    | with_reducible assumption
    | with_reducible apply Evolved.next
    | exact Evolved.fault
    | with_reducible apply emergencyStep_evolves

theorem emergencyEnd_evolves {s0 : State} {s : State} {tj : Nat} (h : Evolves s0 s) : Evolves s0 (emergencyEnd s tj) := by
  unfold emergencyEnd
  repeat' first
    | with_reducible assumption
    | simp only [evolves_update]
    | intro _
    | split

theorem execEmergencyEnd_evolves {s0 : State} {tj : Nat} {s : State} (h : Evolves s0 s) : Evolved s0 (execEmergencyEnd tj s) := by
  unfold execEmergencyEnd
  repeat' first
    | with_reducible assumption
    | with_reducible apply Evolved.next
    | exact Evolved.fault
    | with_reducible apply emergencyEnd_evolves

theorem phaseFault_evolves {s0 : State} {s : State} {phases : Nat} (h : Evolves s0 s) : Evolves s0 (phaseFault s phases) := by
  unfold phaseFault
  repeat' first
    | with_reducible assumption
    | with_reducible apply sag_evolves
    | simp only [evolves_update]
    | intro _
    | split

theorem execPhaseFault_evolves {s0 : State} {phases : Nat} {s : State} (h : Evolves s0 s) : Evolved s0 (execPhaseFault phases s) := by
  unfold execPhaseFault
  repeat' first
    | with_reducible assumption
    | with_reducible apply Evolved.next
    | exact Evolved.fault
    | with_reducible apply phaseFault_evolves

theorem vinLow_evolves {s0 : State} {s : State} {vin : Nat} (h : Evolves s0 s) : Evolves s0 (vinLow s vin) := by
  unfold vinLow
  dsimp only
  repeat' first
    | with_reducible assumption
    | with_reducible apply tapsNow_evolves
    | with_reducible apply planVcore_evolves
    | simp only [evolves_update]
    | intro _
    | split

theorem execVinLow_evolves {s0 : State} {vin : Nat} {s : State} (h : Evolves s0 s) : Evolved s0 (execVinLow vin s) := by
  unfold execVinLow
  repeat' first
    | with_reducible assumption
    | with_reducible apply Evolved.next
    | exact Evolved.fault
    | with_reducible apply vinLow_evolves

theorem execFirmwareStop_evolves {s0 : State} {s : State} (h : Evolves s0 s) : Evolved s0 (execFirmwareStop s) := by
  unfold execFirmwareStop
  repeat' first
    | with_reducible assumption
    | with_reducible apply Evolved.next
    | exact Evolved.fault
    | simp only
    | intro _
    | with_reducible refine Evolves.updateLcs ?_ rfl rfl rfl

theorem sentinelMeasure_evolves {s0 : State} {s : State} {offered : List (Nat × Nat)} (h : Evolves s0 s) : Evolves s0 (sentinelMeasure s offered) := by
  unfold sentinelMeasure
  dsimp only [State.draw]
  repeat' first
    | with_reducible assumption
    | with_reducible apply bumpPower_evolves
    | with_reducible apply queueTaps_evolves
    | with_reducible apply tapsNow_evolves
    | with_reducible apply planVcore_evolves
    | simp only [evolves_update]
    | with_reducible apply Evolves.foldl
    | intro _
    | split

theorem execSentinelMeasure_evolves {s0 : State} {readings : List (Nat × Nat)} {s : State} (h : Evolves s0 s) : Evolved s0 (execSentinelMeasure readings s) := by
  unfold execSentinelMeasure
  repeat' first
    | with_reducible assumption
    | with_reducible apply Evolved.next
    | exact Evolved.fault
    | with_reducible apply sentinelMeasure_evolves

end Sys2Proof.Machine
end

