-- ==== Sys2Proof/Laws/EvolvesSnapshot.lean ====
section
/-! SUPPORT. The operations of Machine/Snapshot.lean evolve the state (Laws/Evolves.lean). -/
namespace Sys2Proof.Machine

theorem State.modSlots_evolves {s0 : State} {s : State} {n : Fin 16} {f : Slot × Slot → Slot × Slot} (h : Evolves s0 s) : Evolves s0 (State.modSlots s n f) := by
  unfold State.modSlots
  repeat' first
    | with_reducible assumption
    | simp only [evolves_update]

theorem takeSnapshot_evolves {s0 : State} {s : State} {n : Fin 16} {step : Nat} {onDemand : Bool} (h : Evolves s0 s) : Evolves s0 (takeSnapshot s n step onDemand) := by
  unfold takeSnapshot
  dsimp only [State.draw]
  repeat' first
    | with_reducible assumption
    | with_reducible apply State.modPart_evolves
    | with_reducible apply State.modSlots_evolves
    | simp only [evolves_update]
    | intro _
    | split

theorem servePending_evolves {s0 : State} {s : State} {n : Fin 16} {step : Nat} (h : Evolves s0 s) : Evolves s0 (servePending s n step) := by
  unfold servePending
  repeat' first
    | with_reducible assumption
    | with_reducible apply endSnapRequest_evolves
    | with_reducible apply takeSnapshot_evolves
    | with_reducible apply State.modPart_evolves
    | simp only [evolves_update]
    | intro _
    | split

end Sys2Proof.Machine
end

