-- ==== Sys2Proof/Laws/EvolvesGate.lean ====
section
/-! SUPPORT. The operations of Machine/Gate.lean evolve the state (Laws/Evolves.lean). -/
namespace Sys2Proof.Machine

theorem rejection_evolves {s0 : State} {s : State} {n : Fin 16} {f : Flight} {status byte : Nat} (h : Evolves s0 s) :
    Evolves s0 (rejection s n f status byte).2 := by
  unfold rejection
  split
  · exact State.draw_evolves (State.draw_evolves h)
  · exact h

theorem rejectFlight_evolves {s0 : State} {s : State} {n : Fin 16} {r : Fin 8} {f : Flight} {status byte : Nat} (h : Evolves s0 s) : Evolves s0 (rejectFlight s n r f status byte) := by
  unfold rejectFlight
  dsimp only
  repeat' first
    | with_reducible assumption
    | with_reducible apply rejection_evolves
    | with_reducible apply State.modRing_evolves
    | with_reducible apply complete_evolves

theorem noReadFlight_evolves {s0 : State} {s : State} {n : Fin 16} {r : Fin 8} {f : Flight} {a : Nat} (h : Evolves s0 s) : Evolves s0 (noReadFlight s n r f a) := by
  unfold noReadFlight
  repeat' first
    | with_reducible assumption
    | with_reducible apply endFlight_evolves
    | with_reducible apply dmaFault_evolves

theorem keepTrap_evolves {s0 : State} {s : State} {n : Fin 16} {r : Fin 8} {f : Flight} (h : Evolves s0 s) : Evolves s0 (keepTrap s n r f) := by
  unfold keepTrap
  repeat' first
    | with_reducible assumption
    | with_reducible apply State.modPart_evolves
    | simp only [evolves_update]
    | intro _
    | split

theorem retireFront_evolves {s0 : State} {s : State} {n : Fin 16} {r : Fin 8} (h : Evolves s0 s) : Evolves s0 (retireFront s n r) := by
  unfold retireFront
  dsimp only
  repeat' first
    | with_reducible assumption
    | with_reducible apply State.modRing_evolves
    | with_reducible apply keepTrap_evolves
    | with_reducible apply complete_evolves
    | simp only [evolves_update]
    | intro _
    | split

theorem retireGateOps_evolves {s0 s : State} {n : Fin 16} {r : Fin 8} {k : Nat} (h : Evolves s0 s) : Evolves s0 (retireGateOps s n r k) := by
  induction k generalizing s with
  | zero => exact h
  | succ k ih =>
    unfold retireGateOps
    split
    · split
      · exact ih (retireFront_evolves h)
      · exact h
    · exact h

theorem retireAllGateOps_evolves {s0 : State} {s : State} {n : Fin 16} (h : Evolves s0 s) : Evolves s0 (retireAllGateOps s n) := by
  unfold retireAllGateOps
  repeat' first
    | with_reducible assumption
    | with_reducible apply retireGateOps_evolves
    | with_reducible apply Evolves.foldl
    | intro _

theorem applySync_evolves {s0 : State} {s : State} {n : Fin 16} {r : Fin 8} {f : Flight} (h : Evolves s0 s) : Evolves s0 (applySync s n r f) := by
  unfold applySync
  repeat' first
    | with_reducible assumption
    | with_reducible apply endFlight_evolves
    | with_reducible apply lstoreFault_evolves
    | with_reducible apply modFlight_evolves
    | with_reducible apply beginSync_evolves
    | simp only [evolves_update]
    | intro _
    | split

theorem applyAtGate_evolves {s0 : State} {s : State} {n : Fin 16} {r : Fin 8} {f : Flight} (h : Evolves s0 s) : Evolves s0 (applyAtGate s n r f).1 := by
  unfold applyAtGate
  dsimp only
  repeat' first
    | with_reducible assumption
    | with_reducible apply rejectFlight_evolves
    | with_reducible apply noReadFlight_evolves
    | with_reducible apply endFlight_evolves
    | with_reducible apply applyPlanLoad_evolves
    | with_reducible apply endJob_evolves
    | with_reducible apply applySync_evolves
    | with_reducible apply applyReplay_evolves
    | with_reducible apply installShard_evolves
    | with_reducible apply modFlight_evolves
    | with_reducible apply beginRestore_evolves
    | with_reducible apply applyEpochAdvance_evolves
    | simp only
    | intro _
    | split

theorem applyGateFlights_evolves {s0 : State} {s : State} {n : Fin 16} (h : Evolves s0 s) : Evolves s0 (applyGateFlights s n).1 := by
  unfold applyGateFlights
  dsimp only
  repeat' first
    | with_reducible assumption
    | with_reducible apply applyAtGate_evolves
    | simp only [evolves_update]
    | with_reducible apply Evolves.foldl
    | with_reducible apply Evolves.foldl_fst
    | intro _
    | split

theorem applyReq_evolves {s0 : State} {s : State} {n : Fin 16} {g : GateReq} (h : Evolves s0 s) : Evolves s0 (applyReq s n g) := by
  unfold applyReq
  dsimp only
  repeat' first
    | with_reducible assumption
    | with_reducible apply fenceUnit_evolves
    | with_reducible apply substituteRow_evolves
    | with_reducible apply substituteBasin_evolves
    | with_reducible apply substituteBank_evolves
    | simp only [evolves_update]
    | intro _
    | split

theorem applyReqs_evolves {s0 : State} {s : State} {n : Fin 16} (h : Evolves s0 s) : Evolves s0 (applyReqs s n) := by
  unfold applyReqs
  repeat' first
    | with_reducible assumption
    | with_reducible apply applyReq_evolves
    | with_reducible apply State.modPart_evolves
    | simp only [evolves_update]
    | with_reducible apply Evolves.foldl
    | intro _
    | split

theorem noteModes_evolves {s0 : State} {s : State} (h : Evolves s0 s) : Evolves s0 (noteModes s) := by
  unfold noteModes
  repeat' first
    | with_reducible assumption
    | simp only [evolves_update]

theorem noteModules_evolves {s0 : State} {old s : State} (h : Evolves s0 s) : Evolves s0 (noteModules old s) := by
  unfold noteModules
  dsimp only
  repeat' first
    | with_reducible assumption
    | simp only [evolves_update]
    | intro _
    | split

theorem applyDeviceIf_evolves {s0 : State} {s : State} {gate : Option (Fin 16)} (h : Evolves s0 s) : Evolves s0 (applyDeviceIf s gate).1 := by
  unfold applyDeviceIf
  dsimp only
  repeat' first
    | with_reducible assumption
    | with_reducible apply applyDevice_evolves
    | with_reducible apply noteModes_evolves
    | with_reducible apply noteModules_evolves
    | with_reducible apply tapsNow_evolves
    | with_reducible apply planVcore_evolves
    | intro _
    | split

theorem bumpIf_evolves {s0 : State} {s : State} {changed : Bool} {n : Fin 16} (h : Evolves s0 s) : Evolves s0 (bumpIf s changed n) := by
  unfold bumpIf
  repeat' first
    | with_reducible assumption
    | with_reducible apply bumpGen_evolves
    | intro _
    | split

theorem latchJoined_evolves {s0 : State} {s : State} {n : Fin 16} (h : Evolves s0 s) : Evolves s0 (latchJoined s n) := by
  unfold latchJoined
  repeat' first
    | with_reducible assumption
    | with_reducible apply State.modPart_evolves

theorem gateRequests_evolves {s0 : State} {s : State} {n : Fin 16} {closed : Option Nat} {dev : Bool} (h : Evolves s0 s) : Evolves s0 (gateRequests s n closed dev) := by
  unfold gateRequests
  dsimp only
  repeat' first
    | with_reducible assumption
    | with_reducible apply servePending_evolves
    | with_reducible apply takeSnapshot_evolves
    | with_reducible apply powerGate_evolves
    | with_reducible apply applyPart_evolves
    | with_reducible apply applyDeviceIf_evolves
    | with_reducible apply applyGateFlights_evolves
    | with_reducible apply applyReqs_evolves
    | with_reducible apply bumpIf_evolves
    | with_reducible apply latchJoined_evolves
    | with_reducible apply retireAllGateOps_evolves
    | simp only [evolves_update]
    | with_reducible apply Evolves.foldl
    | with_reducible apply Evolves.foldl_fst
    | intro _
    | split

theorem gateIfIdle_evolves {s0 : State} {s : State} {dev : Bool} {n : Fin 16} (h : Evolves s0 s) : Evolves s0 (gateIfIdle s dev n) := by
  unfold gateIfIdle
  repeat' first
    | with_reducible assumption
    | with_reducible apply gateRequests_evolves
    | with_reducible apply bumpIf_evolves
    | intro _
    | split

theorem fillTensor_evolves {s0 : State} {s : State} {n : Fin 16} {k : Nat} {seed : BitVec 128} {e : BitVec 128} (h : Evolves s0 s) : Evolves s0 (fillTensor s n k seed e) := by
  unfold fillTensor
  dsimp only
  repeat' first
    | with_reducible assumption
    | with_reducible apply State.count_evolves
    | with_reducible apply writeCode_evolves
    | with_reducible apply Evolves.foldl
    | intro _

theorem openStepNow_evolves {s0 : State} {s00 : State} {n : Fin 16} {k : Nat} (h : Evolves s0 s00) : Evolves s0 (openStepNow s00 n k) := by
  unfold openStepNow
  dsimp only
  repeat' first
    | with_reducible assumption
    | with_reducible apply State.modPart_evolves
    | with_reducible apply fillTensor_evolves
    | simp only [evolves_update]
    | with_reducible apply Evolves.foldl
    | intro _
    | split

theorem joinStep_evolves {s0 : State} {s : State} {n : Fin 16} {r : Fin 8} {k : Nat} (h : Evolves s0 s) : Evolves s0 (joinStep s n r k) := by
  unfold joinStep
  repeat' first
    | with_reducible assumption
    | with_reducible apply endFlight_evolves
    | with_reducible apply State.modRing_evolves
    | simp only [evolves_update]
    | intro _
    | split

theorem refuseFull_evolves {s0 : State} {s : State} {n : Fin 16} (h : Evolves s0 s) : Evolves s0 (refuseFull s n) := by
  unfold refuseFull
  repeat' first
    | with_reducible assumption
    | with_reducible apply rejectFlight_evolves
    | simp only [evolves_update]
    | with_reducible apply Evolves.foldl
    | intro _
    | split

theorem judgeOpen_evolves {s0 : State} {s : State} {n : Fin 16} {r : Fin 8} (h : Evolves s0 s) : Evolves s0 (judgeOpen s n r) := by
  unfold judgeOpen
  repeat' first
    | with_reducible assumption
    | with_reducible apply endFlight_evolves
    | with_reducible apply holdPlace_evolves
    | with_reducible apply rejectFlight_evolves
    | simp only [evolves_update]
    | intro _
    | split

theorem applyHeld_evolves {s0 : State} {s : State} {n : Fin 16} (h : Evolves s0 s) : Evolves s0 (applyHeld s n) := by
  unfold applyHeld
  repeat' first
    | with_reducible assumption
    | with_reducible apply gateRequests_evolves
    | intro _
    | split

theorem tryOpen_evolves {s0 : State} {s : State} {n : Fin 16} (h : Evolves s0 s) : Evolves s0 (tryOpen s n) := by
  unfold tryOpen
  dsimp only
  repeat' first
    | with_reducible assumption
    | with_reducible apply judgeOpen_evolves
    | with_reducible apply applyHeld_evolves
    | with_reducible apply refuseFull_evolves
    | with_reducible apply openStepNow_evolves
    | with_reducible apply joinStep_evolves
    | with_reducible apply retireAllGateOps_evolves
    | simp only [evolves_update]
    | with_reducible apply Evolves.foldl
    | intro _
    | split

theorem releaseHeld_evolves {s0 : State} {s : State} (h : Evolves s0 s) : Evolves s0 (releaseHeld s) := by
  unfold releaseHeld
  repeat' first
    | with_reducible assumption
    | with_reducible apply tryOpen_evolves
    | with_reducible apply Evolves.foldl

theorem settleGates_evolves {s0 : State} {s : State} (h : Evolves s0 s) : Evolves s0 (settleGates s) := by
  unfold settleGates
  dsimp only
  repeat' first
    | with_reducible assumption
    | with_reducible apply forceUnowned_evolves
    | with_reducible apply applyDeviceIf_evolves
    | with_reducible apply releaseHeld_evolves
    | with_reducible apply gateIfIdle_evolves
    | with_reducible apply Evolves.foldl
    | with_reducible apply Evolves.foldl_fst
    | intro _

theorem clearCorrected_evolves {s0 : State} {s : State} {n : Fin 16} (h : Evolves s0 s) : Evolves s0 (clearCorrected s n) := by
  unfold clearCorrected
  repeat' first
    | with_reducible assumption
    | simp only [evolves_update]

theorem closeStep_evolves {s0 : State} {s : State} {n : Fin 16} {k : Nat} (h : Evolves s0 s) : Evolves s0 (closeStep s n k) := by
  unfold closeStep
  dsimp only
  repeat' first
    | with_reducible assumption
    | with_reducible apply modStep_evolves
    | with_reducible apply State.modPart_evolves
    | with_reducible apply clearCorrected_evolves
    | with_reducible apply retireRecord_evolves

theorem stepGateOpen_evolves {s0 : State} {s : State} {n : Fin 16} (h : Evolves s0 s) : Evolves s0 (stepGateOpen s n) := by
  unfold stepGateOpen
  repeat' first
    | with_reducible assumption
    | with_reducible apply settleGates_evolves
    | with_reducible apply gateRequests_evolves
    | with_reducible apply closeStep_evolves
    | simp only [evolves_update]
    | intro _
    | split

theorem execStepGateOpen_evolves {s0 : State} {fn : Fin 16} {s : State} (h : Evolves s0 s) : Evolved s0 (execStepGateOpen fn s) := by
  unfold execStepGateOpen
  repeat' first
    | with_reducible assumption
    | with_reducible apply Evolved.next
    | exact Evolved.fault
    | with_reducible apply stepGateOpen_evolves

theorem execPartitionIdle_evolves {s0 : State} {fn : Fin 16} {s : State} (h : Evolves s0 s) : Evolved s0 (execPartitionIdle fn s) := by
  unfold execPartitionIdle
  repeat' first
    | with_reducible assumption
    | with_reducible apply Evolved.next
    | exact Evolved.fault
    | with_reducible apply settleGates_evolves
    | with_reducible apply gateRequests_evolves
    | split

theorem execScrubOp_evolves {s0 : State} {word : Nat} {fault : LaneFault} {s : State} (h : Evolves s0 s) : Evolved s0 (execScrubOp word fault s) := by
  unfold execScrubOp
  repeat' first
    | with_reducible assumption
    | with_reducible apply Evolved.next
    | exact Evolved.fault
    | with_reducible apply settleGates_evolves
    | with_reducible apply scrub_evolves

theorem stepSealed_evolves {s0 : State} {s : State} {n : Fin 16} (h : Evolves s0 s) : Evolves s0 (stepSealed s n) := by
  unfold stepSealed
  repeat' first
    | with_reducible assumption
    | with_reducible apply releaseHeld_evolves
    | with_reducible apply sealStep_evolves
    | simp only [evolves_update]
    | intro _
    | split

theorem execStepSealed_evolves {s0 : State} {fn : Fin 16} {s : State} (h : Evolves s0 s) : Evolved s0 (execStepSealed fn s) := by
  unfold execStepSealed
  repeat' first
    | with_reducible assumption
    | with_reducible apply Evolved.next
    | exact Evolved.fault
    | with_reducible apply stepSealed_evolves

theorem commit_evolves {s0 : State} {s : State} {value : Word} (h : Evolves s0 s) : Evolves s0 (commit s value) := by
  unfold commit
  repeat' first
    | with_reducible assumption
    | with_reducible apply settleGates_evolves
    | with_reducible apply commitImage_evolves
    | intro _
    | split

end Sys2Proof.Machine
end

