-- ==== Sys2Proof/Laws/EvolvesPorts.lean ====
section
/-! SUPPORT. The operations of Machine/Ports.lean evolve the state (Laws/Evolves.lean). -/
namespace Sys2Proof.Machine

theorem restoreIfDown_evolves {s0 : State} {s : State} {n : Fin 16} (h : Evolves s0 s) : Evolves s0 (restoreIfDown s n) := by
  unfold restoreIfDown
  dsimp only
  repeat' first
    | with_reducible assumption
    | with_reducible apply tryOpen_evolves
    | with_reducible apply shardLost_evolves
    | intro _
    | split

theorem goDown_evolves {s0 : State} {s : State} {q : Fin 24} (h : Evolves s0 s) : Evolves s0 (goDown s q) := by
  unfold goDown
  repeat' first
    | with_reducible assumption
    | with_reducible apply restoreIfDown_evolves
    | with_reducible apply linkDown_evolves
    | simp only [evolves_update]
    | intro _
    | split

theorem tryJoin_evolves {s0 : State} {s : State} {q : Fin 24} (h : Evolves s0 s) : Evolves s0 (tryJoin s q) := by
  unfold tryJoin
  dsimp only
  repeat' first
    | with_reducible assumption
    | with_reducible apply endPortOp_evolves
    | with_reducible apply linkJoin_evolves
    | with_reducible apply portEvent_evolves
    | with_reducible apply State.modPort_evolves
    | with_reducible apply endPortOpWith_evolves
    | simp only [evolves_update]
    | intro _
    | split

theorem setJoinReq_evolves {s0 : State} {s : State} {q : Fin 24} (h : Evolves s0 s) : Evolves s0 (setJoinReq s q) := by
  unfold setJoinReq
  repeat' first
    | with_reducible assumption
    | with_reducible apply State.modPort_evolves

theorem askJoin_evolves {s0 : State} {s : State} {q : Fin 24} (h : Evolves s0 s) : Evolves s0 (askJoin s q) := by
  unfold askJoin
  dsimp only
  repeat' first
    | with_reducible assumption
    | with_reducible apply tryJoin_evolves
    | with_reducible apply setJoinReq_evolves
    | with_reducible apply State.modPort_evolves
    | simp only [evolves_update]
    | dsimp only [id]
    | intro _
    | split

theorem beginPortJoin_evolves {s0 : State} {s : State} {_n : Fin 16} {_r : Fin 8} {f : Flight} (h : Evolves s0 s) : Evolves s0 (beginPortJoin s _n _r f) := by
  unfold beginPortJoin
  repeat' first
    | with_reducible assumption
    | with_reducible apply askJoin_evolves

theorem beginPortLeave_evolves {s0 : State} {s : State} {_n : Fin 16} {_r : Fin 8} {f : Flight} (h : Evolves s0 s) : Evolves s0 (beginPortLeave s _n _r f) := by
  unfold beginPortLeave
  repeat' first
    | with_reducible assumption
    | with_reducible apply State.modPort_evolves

theorem portJoinTimeout_evolves {s0 : State} {s : State} {q : Fin 24} (h : Evolves s0 s) : Evolves s0 (portJoinTimeout s q) := by
  unfold portJoinTimeout
  repeat' first
    | with_reducible assumption
    | with_reducible apply endPortOp_evolves
    | with_reducible apply State.modPort_evolves
    | simp only [evolves_update]
    | intro _
    | split

theorem execPortJoinTimeout_evolves {s0 : State} {port : Fin 24} {s : State} (h : Evolves s0 s) : Evolved s0 (execPortJoinTimeout port s) := by
  unfold execPortJoinTimeout
  repeat' first
    | with_reducible assumption
    | with_reducible apply Evolved.next
    | exact Evolved.fault
    | with_reducible apply portJoinTimeout_evolves

theorem portLeaveDrained_evolves {s0 : State} {s : State} {q : Fin 24} (h : Evolves s0 s) : Evolves s0 (portLeaveDrained s q) := by
  unfold portLeaveDrained
  dsimp only
  repeat' first
    | with_reducible assumption
    | with_reducible apply leavePort_evolves
    | with_reducible apply endPortOp_evolves
    | intro _
    | split

theorem execPortLeaveDrained_evolves {s0 : State} {port : Fin 24} {s : State} (h : Evolves s0 s) : Evolved s0 (execPortLeaveDrained port s) := by
  unfold execPortLeaveDrained
  repeat' first
    | with_reducible assumption
    | with_reducible apply Evolved.next
    | exact Evolved.fault
    | with_reducible apply portLeaveDrained_evolves

end Sys2Proof.Machine
end

