-- ==== Sys2Proof/Laws/EvolvesStart.lean ====
section
/-! SUPPORT. The operations of Machine/Start.lean evolve the state (Laws/Evolves.lean). -/
namespace Sys2Proof.Machine

theorem beginFlight_evolves {s0 : State} {s : State} {n : Fin 16} {r : Fin 8} {f : Flight} (h : Evolves s0 s) : Evolves s0 (beginFlight s n r f) := by
  unfold beginFlight
  dsimp only
  repeat' first
    | with_reducible assumption
    | with_reducible apply beginCopy_evolves
    | with_reducible apply beginSlice_evolves
    | with_reducible apply beginStrict_evolves
    | with_reducible apply beginCstOpen_evolves
    | with_reducible apply beginCstAdd_evolves
    | with_reducible apply beginCstRead_evolves
    | with_reducible apply beginCstClose_evolves
    | intro _
    | split

theorem startOne_evolves {s0 : State} {s : State} {n : Fin 16} {r : Fin 8} {seq : Nat} (h : Evolves s0 s) : Evolves s0 (startOne s n r seq) := by
  unfold startOne
  repeat' first
    | with_reducible assumption
    | with_reducible apply beginFlight_evolves
    | with_reducible apply modFlight_evolves
    | simp only [evolves_update]
    | intro _
    | split

theorem startRing_evolves {s0 : State} {s : State} {n : Fin 16} {r : Fin 8} (h : Evolves s0 s) : Evolves s0 (startRing s n r) := by
  unfold startRing
  repeat' first
    | with_reducible assumption
    | with_reducible apply startOne_evolves
    | with_reducible apply Evolves.foldl
    | intro _

theorem checkFences_evolves {s0 : State} {s : State} {n : Fin 16} (h : Evolves s0 s) : Evolves s0 (checkFences s n) := by
  unfold checkFences
  repeat' first
    | with_reducible assumption
    | with_reducible apply endFlight_evolves
    | with_reducible apply Evolves.foldl
    | intro _
    | split

theorem trapReport_evolves {s0 : State} {s : State} {n : Fin 16} (h : Evolves s0 s) : Evolves s0 (trapReport s n) := by
  unfold trapReport
  dsimp only
  repeat' first
    | with_reducible assumption
    | with_reducible apply event_evolves
    | with_reducible apply State.modPart_evolves
    | simp only [evolves_update]
    | intro _
    | split

theorem settle_evolves {s0 : State} {s : State} {n : Fin 16} (h : Evolves s0 s) : Evolves s0 (settle s n) := by
  unfold settle
  repeat' first
    | with_reducible assumption
    | with_reducible apply trapReport_evolves
    | with_reducible apply startRing_evolves
    | with_reducible apply checkFences_evolves
    | with_reducible apply Evolves.foldl
    | intro _

theorem push_evolves {s0 : State} {s : State} {n : Fin 16} {r : Fin 8} {f : Flight} (h : Evolves s0 s) : Evolves s0 (push s n r f) := by
  unfold push
  repeat' first
    | with_reducible assumption
    | with_reducible apply State.modRing_evolves

theorem pushRejected_evolves {s0 : State} {s : State} {n : Fin 16} {r : Fin 8} {d : Desc} {st byte : Nat} (h : Evolves s0 s) : Evolves s0 (pushRejected s n r d st byte) := by
  unfold pushRejected
  dsimp only
  repeat' first
    | with_reducible assumption
    | with_reducible apply push_evolves
    | with_reducible apply rejectFlight_evolves
    | with_reducible apply failStepOf_evolves
    | simp only [evolves_update]
    | intro _
    | split

theorem issueWith_evolves {s0 : State} {s : State} {n : Fin 16} {r : Fin 8} {row : Bool} {d : Desc} {own : Option (Nat × Nat)} {act : State} (h : Evolves s0 s) (hact : Evolves s0 act) : Evolved s0 (issueWith s n r row d own act) := by
  unfold issueWith
  repeat' first
    | with_reducible assumption
    | with_reducible apply Evolved.next
    | exact Evolved.fault
    | with_reducible apply settle_evolves
    | with_reducible apply pushRejected_evolves
    | simp only [evolves_update]
    | split

theorem issueWork_evolves {s0 : State} {s : State} {n : Fin 16} {r : Fin 8} {row : Bool} {d : Desc} {fault : UnitFault} {own : Option (Nat × Nat)} {accept : State → State} (h : Evolves s0 s) (haccept : ∀ t, Evolves s0 t → Evolves s0 (accept t)) : Evolved s0 (issueWork s n r row d fault own accept) := by
  unfold issueWork
  dsimp only
  repeat' first
    | with_reducible assumption
    | with_reducible apply Evolved.next
    | exact Evolved.fault
    | with_reducible apply issueWith_evolves
    | with_reducible apply push_evolves
    | with_reducible apply startOne_evolves
    | with_reducible apply haccept

theorem issueNow_evolves {s0 : State} {s : State} {n : Fin 16} {r : Fin 8} {row : Bool} {d : Desc} {own : Option (Nat × Nat)} {work : State → Flight → State} (h : Evolves s0 s) (hwork : ∀ t f, Evolves s0 t → Evolves s0 (work t f)) : Evolved s0 (issueNow s n r row d own work) := by
  unfold issueNow
  dsimp only
  repeat' first
    | with_reducible assumption
    | with_reducible apply Evolved.next
    | exact Evolved.fault
    | with_reducible apply issueWith_evolves
    | with_reducible apply push_evolves
    | with_reducible apply hwork

theorem issueGate_evolves {s0 : State} {s : State} {n : Fin 16} {r : Fin 8} {row : Bool} {d : Desc} {fault : UnitFault} {v : Verdict} (h : Evolves s0 s) : Evolved s0 (issueGate s n r row d fault v) := by
  unfold issueGate
  dsimp only
  repeat' first
    | with_reducible assumption
    | with_reducible apply Evolved.next
    | exact Evolved.fault
    | with_reducible apply issueWith_evolves
    | with_reducible apply push_evolves
    | with_reducible apply gateIfIdle_evolves
    | with_reducible apply noReadFlight_evolves
    | simp only [evolves_update]
    | split

theorem execNop_evolves {s0 : State} {fn : Fin 16} {ring : Fin 8} {d : Desc} {s : State} (h : Evolves s0 s) : Evolved s0 (execNop fn ring d s) := by
  unfold execNop
  repeat' first
    | with_reducible assumption
    | with_reducible apply Evolved.next
    | exact Evolved.fault
    | with_reducible apply issueNow_evolves
    | with_reducible apply endFlight_evolves
    | intro _

theorem execFence_evolves {s0 : State} {fn : Fin 16} {ring : Fin 8} {d : Desc} {s : State} (h : Evolves s0 s) : Evolved s0 (execFence fn ring d s) := by
  unfold execFence
  repeat' first
    | with_reducible assumption
    | with_reducible apply Evolved.next
    | exact Evolved.fault
    | with_reducible apply issueNow_evolves
    | with_reducible apply endFlight_evolves
    | split
    | intro _

theorem fenceTimeout_evolves {s0 : State} {s : State} {n : Fin 16} {r : Fin 8} (h : Evolves s0 s) : Evolves s0 (fenceTimeout s n r) := by
  unfold fenceTimeout
  dsimp only
  repeat' first
    | with_reducible assumption
    | with_reducible apply checkFences_evolves
    | with_reducible apply settle_evolves
    | with_reducible apply endFlight_evolves
    | simp only [evolves_update]
    | intro _
    | split

theorem execFenceTimeout_evolves {s0 : State} {fn : Fin 16} {ring : Fin 8} {s : State} (h : Evolves s0 s) : Evolved s0 (execFenceTimeout fn ring s) := by
  unfold execFenceTimeout
  repeat' first
    | with_reducible assumption
    | with_reducible apply Evolved.next
    | exact Evolved.fault
    | with_reducible apply fenceTimeout_evolves

theorem execPlanLoad_evolves {s0 : State} {fn : Fin 16} {ring : Fin 8} {d : Desc} {s : State} (h : Evolves s0 s) : Evolved s0 (execPlanLoad fn ring d s) := by
  unfold execPlanLoad
  repeat' first
    | with_reducible assumption
    | with_reducible apply Evolved.next
    | exact Evolved.fault
    | with_reducible apply issueGate_evolves

theorem execStepOpen_evolves {s0 : State} {fn : Fin 16} {ring : Fin 8} {d : Desc} {s : State} (h : Evolves s0 s) : Evolved s0 (execStepOpen fn ring d s) := by
  unfold execStepOpen
  repeat' first
    | with_reducible assumption
    | with_reducible apply Evolved.next
    | exact Evolved.fault
    | with_reducible apply settle_evolves
    | with_reducible apply pushRejected_evolves
    | with_reducible apply tryOpen_evolves
    | with_reducible apply push_evolves
    | simp only [evolves_update]
    | split

theorem sealAt_evolves {s0 : State} {s : State} {n : Fin 16} {r : Fin 8} {d : Desc} (h : Evolves s0 s) : Evolves s0 (sealAt s n r d) := by
  unfold sealAt
  dsimp only
  repeat' first
    | with_reducible assumption
    | with_reducible apply State.modRing_evolves
    | with_reducible apply modStep_evolves
    | with_reducible apply completeSealsRing_evolves
    | simp only [evolves_update]
    | intro _
    | split

theorem execStepSeal_evolves {s0 : State} {fn : Fin 16} {ring : Fin 8} {d : Desc} {s : State} (h : Evolves s0 s) : Evolved s0 (execStepSeal fn ring d s) := by
  unfold execStepSeal
  dsimp only
  repeat' first
    | with_reducible assumption
    | with_reducible apply Evolved.next
    | exact Evolved.fault
    | with_reducible apply pushRejected_evolves
    | with_reducible apply State.modRing_evolves
    | with_reducible apply settle_evolves
    | with_reducible apply sealAt_evolves
    | simp only [evolves_update]
    | split

theorem execCopy_evolves {s0 : State} {fn : Fin 16} {ring : Fin 8} {d : Desc} {fault : UnitFault} {s : State} (h : Evolves s0 s) : Evolved s0 (execCopy fn ring d fault s) := by
  unfold execCopy
  repeat' first
    | with_reducible assumption
    | with_reducible apply Evolved.next
    | exact Evolved.fault
    | with_reducible apply issueWork_evolves
    | dsimp only [id]
    | intro _

theorem execGemm_evolves {s0 : State} {fn : Fin 16} {ring : Fin 8} {d : Desc} {s : State} (h : Evolves s0 s) : Evolved s0 (execGemm fn ring d s) := by
  unfold execGemm
  repeat' first
    | with_reducible assumption
    | with_reducible apply Evolved.next
    | exact Evolved.fault
    | with_reducible apply issueWork_evolves
    | with_reducible apply acceptTile_evolves
    | intro _

theorem execGemmPacked_evolves {s0 : State} {fn : Fin 16} {ring : Fin 8} {d : Desc} {s : State} (h : Evolves s0 s) : Evolved s0 (execGemmPacked fn ring d s) := by
  unfold execGemmPacked
  repeat' first
    | with_reducible assumption
    | with_reducible apply Evolved.next
    | exact Evolved.fault
    | with_reducible apply issueWork_evolves
    | with_reducible apply acceptTile_evolves
    | intro _

theorem execConv_evolves {s0 : State} {fn : Fin 16} {ring : Fin 8} {d : Desc} {s : State} (h : Evolves s0 s) : Evolved s0 (execConv fn ring d s) := by
  unfold execConv
  repeat' first
    | with_reducible assumption
    | with_reducible apply Evolved.next
    | exact Evolved.fault
    | with_reducible apply issueWork_evolves
    | with_reducible apply acceptTile_evolves
    | intro _

theorem execCascadeSlice_evolves {s0 : State} {fn : Fin 16} {ring : RingRead} {d : Desc} {s : State} (h : Evolves s0 s) : Evolved s0 (execCascadeSlice fn ring d s) := by
  unfold execCascadeSlice
  repeat' first
    | with_reducible assumption
    | with_reducible apply Evolved.next
    | exact Evolved.fault
    | with_reducible apply issueWork_evolves
    | dsimp only [id]
    | intro _

theorem execCascadeMultiply_evolves {s0 : State} {fn : Fin 16} {ring : Fin 8} {d : Desc} {s : State} (h : Evolves s0 s) : Evolved s0 (execCascadeMultiply fn ring d s) := by
  unfold execCascadeMultiply
  repeat' first
    | with_reducible assumption
    | with_reducible apply Evolved.next
    | exact Evolved.fault
    | with_reducible apply issueWork_evolves
    | with_reducible apply acceptTile_evolves
    | intro _

theorem execStrictGemm_evolves {s0 : State} {fn : Fin 16} {ring : Fin 8} {d : Desc} {fault : UnitFault} {s : State} (h : Evolves s0 s) : Evolved s0 (execStrictGemm fn ring d fault s) := by
  unfold execStrictGemm
  repeat' first
    | with_reducible assumption
    | with_reducible apply Evolved.next
    | exact Evolved.fault
    | with_reducible apply issueWork_evolves
    | dsimp only [id]
    | intro _

theorem execCstOpen_evolves {s0 : State} {fn : Fin 16} {ring : Fin 8} {d : Desc} {s : State} (h : Evolves s0 s) : Evolved s0 (execCstOpen fn ring d s) := by
  unfold execCstOpen
  repeat' first
    | with_reducible assumption
    | with_reducible apply Evolved.next
    | exact Evolved.fault
    | with_reducible apply issueWork_evolves
    | with_reducible apply acceptCstOpen_evolves
    | intro _

theorem execCstAdd_evolves {s0 : State} {fn : Fin 16} {ring : RingRead} {d : Desc} {s : State} (h : Evolves s0 s) : Evolved s0 (execCstAdd fn ring d s) := by
  unfold execCstAdd
  repeat' first
    | with_reducible assumption
    | with_reducible apply Evolved.next
    | exact Evolved.fault
    | with_reducible apply issueWork_evolves
    | dsimp only [id]
    | intro _

theorem execCstRead_evolves {s0 : State} {fn : Fin 16} {ring : Fin 8} {d : Desc} {s : State} (h : Evolves s0 s) : Evolved s0 (execCstRead fn ring d s) := by
  unfold execCstRead
  repeat' first
    | with_reducible assumption
    | with_reducible apply Evolved.next
    | exact Evolved.fault
    | with_reducible apply issueWork_evolves
    | dsimp only [id]
    | intro _

theorem execCstClose_evolves {s0 : State} {fn : Fin 16} {ring : Fin 8} {d : Desc} {s : State} (h : Evolves s0 s) : Evolved s0 (execCstClose fn ring d s) := by
  unfold execCstClose
  repeat' first
    | with_reducible assumption
    | with_reducible apply Evolved.next
    | exact Evolved.fault
    | with_reducible apply issueWork_evolves
    | with_reducible apply acceptCstClose_evolves
    | intro _

theorem execReduce_evolves {s0 : State} {fn : Fin 16} {ring : Fin 8} {d : Desc} {s : State} (h : Evolves s0 s) : Evolved s0 (execReduce fn ring d s) := by
  unfold execReduce
  repeat' first
    | with_reducible assumption
    | with_reducible apply Evolved.next
    | exact Evolved.fault
    | with_reducible apply issueWork_evolves
    | dsimp only [id]
    | intro _

theorem execAllreduce_evolves {s0 : State} {fn : Fin 16} {ring : Fin 8} {d : Desc} {s : State} (h : Evolves s0 s) : Evolved s0 (execAllreduce fn ring d s) := by
  unfold execAllreduce
  repeat' first
    | with_reducible assumption
    | with_reducible apply Evolved.next
    | exact Evolved.fault
    | with_reducible apply issueWork_evolves
    | dsimp only [id]
    | intro _

theorem execReduceScatter_evolves {s0 : State} {fn : Fin 16} {ring : Fin 8} {d : Desc} {s : State} (h : Evolves s0 s) : Evolved s0 (execReduceScatter fn ring d s) := by
  unfold execReduceScatter
  repeat' first
    | with_reducible assumption
    | with_reducible apply Evolved.next
    | exact Evolved.fault
    | with_reducible apply issueWork_evolves
    | dsimp only [id]
    | intro _

theorem execBroadcast_evolves {s0 : State} {fn : Fin 16} {ring : Fin 8} {d : Desc} {s : State} (h : Evolves s0 s) : Evolved s0 (execBroadcast fn ring d s) := by
  unfold execBroadcast
  repeat' first
    | with_reducible assumption
    | with_reducible apply Evolved.next
    | exact Evolved.fault
    | with_reducible apply issueWork_evolves
    | dsimp only [id]
    | intro _

theorem execAllgather_evolves {s0 : State} {fn : Fin 16} {ring : Fin 8} {d : Desc} {s : State} (h : Evolves s0 s) : Evolved s0 (execAllgather fn ring d s) := by
  unfold execAllgather
  repeat' first
    | with_reducible assumption
    | with_reducible apply Evolved.next
    | exact Evolved.fault
    | with_reducible apply issueWork_evolves
    | dsimp only [id]
    | intro _

theorem execBarrier_evolves {s0 : State} {fn : Fin 16} {ring : Fin 8} {d : Desc} {s : State} (h : Evolves s0 s) : Evolved s0 (execBarrier fn ring d s) := by
  unfold execBarrier
  repeat' first
    | with_reducible assumption
    | with_reducible apply Evolved.next
    | exact Evolved.fault
    | with_reducible apply issueWork_evolves
    | dsimp only [id]
    | intro _

theorem execStatsReduce_evolves {s0 : State} {fn : Fin 16} {ring : Fin 8} {d : Desc} {s : State} (h : Evolves s0 s) : Evolved s0 (execStatsReduce fn ring d s) := by
  unfold execStatsReduce
  repeat' first
    | with_reducible assumption
    | with_reducible apply Evolved.next
    | exact Evolved.fault
    | with_reducible apply issueWork_evolves
    | dsimp only [id]
    | intro _

theorem collectiveBegin_evolves {s0 : State} {s : State} {n : Fin 16} {r : Fin 8} {fault : UnitFault} (h : Evolves s0 s) : Evolves s0 (collectiveBegin s n r fault) := by
  unfold collectiveBegin
  repeat' first
    | with_reducible assumption
    | with_reducible apply recheck_evolves
    | with_reducible apply beginColl_evolves
    | with_reducible apply modFlight_evolves
    | simp only [evolves_update]
    | intro _
    | split

theorem execCollectiveBegin_evolves {s0 : State} {fn : Fin 16} {ring : RingRead} {s : State} (h : Evolves s0 s) : Evolved s0 (execCollectiveBegin fn ring s) := by
  unfold execCollectiveBegin
  repeat' first
    | with_reducible assumption
    | with_reducible apply Evolved.next
    | exact Evolved.fault
    | with_reducible apply collectiveBegin_evolves

theorem execLedgerRelease_evolves {s0 : State} {fn : Fin 16} {ring : Fin 8} {d : Desc} {s : State} (h : Evolves s0 s) : Evolved s0 (execLedgerRelease fn ring d s) := by
  unfold execLedgerRelease
  dsimp only
  repeat' first
    | with_reducible assumption
    | with_reducible apply Evolved.next
    | exact Evolved.fault
    | with_reducible apply issueNow_evolves
    | with_reducible apply applyRelease_evolves
    | with_reducible apply releaseHeld_evolves
    | with_reducible apply endFlight_evolves
    | intro _

theorem execMirrorSync_evolves {s0 : State} {fn : Fin 16} {ring : Fin 8} {d : Desc} {s : State} (h : Evolves s0 s) : Evolved s0 (execMirrorSync fn ring d s) := by
  unfold execMirrorSync
  repeat' first
    | with_reducible assumption
    | with_reducible apply Evolved.next
    | exact Evolved.fault
    | with_reducible apply issueGate_evolves

theorem execReplay_evolves {s0 : State} {fn : Fin 16} {ring : RingRead} {d : Desc} {s : State} (h : Evolves s0 s) : Evolved s0 (execReplay fn ring d s) := by
  unfold execReplay
  repeat' first
    | with_reducible assumption
    | with_reducible apply Evolved.next
    | exact Evolved.fault
    | with_reducible apply issueGate_evolves

theorem execShardRestore_evolves {s0 : State} {fn : Fin 16} {ring : Fin 8} {d : Desc} {s : State} (h : Evolves s0 s) : Evolved s0 (execShardRestore fn ring d s) := by
  unfold execShardRestore
  repeat' first
    | with_reducible assumption
    | with_reducible apply Evolved.next
    | exact Evolved.fault
    | with_reducible apply issueGate_evolves

theorem execEpochAdvance_evolves {s0 : State} {fn : Fin 16} {ring : Fin 8} {d : Desc} {s : State} (h : Evolves s0 s) : Evolved s0 (execEpochAdvance fn ring d s) := by
  unfold execEpochAdvance
  repeat' first
    | with_reducible assumption
    | with_reducible apply Evolved.next
    | exact Evolved.fault
    | with_reducible apply issueGate_evolves

theorem execPortJoin_evolves {s0 : State} {fn : Fin 16} {ring : Fin 8} {d : Desc} {s : State} (h : Evolves s0 s) : Evolved s0 (execPortJoin fn ring d s) := by
  unfold execPortJoin
  repeat' first
    | with_reducible assumption
    | with_reducible apply Evolved.next
    | exact Evolved.fault
    | with_reducible apply issueNow_evolves
    | with_reducible apply beginPortJoin_evolves
    | intro _

theorem execPortLeave_evolves {s0 : State} {fn : Fin 16} {ring : Fin 8} {d : Desc} {s : State} (h : Evolves s0 s) : Evolved s0 (execPortLeave fn ring d s) := by
  unfold execPortLeave
  repeat' first
    | with_reducible assumption
    | with_reducible apply Evolved.next
    | exact Evolved.fault
    | with_reducible apply issueNow_evolves
    | with_reducible apply beginPortLeave_evolves
    | intro _

theorem finishFront_evolves {s0 : State} {s : State} {n : Fin 16} {r : Fin 8} (h : Evolves s0 s) : Evolves s0 (finishFront s n r) := by
  unfold finishFront
  repeat' first
    | with_reducible assumption
    | with_reducible apply beginCopy_evolves
    | simp only [evolves_update]
    | intro _
    | split

theorem writeFailed_evolves {s0 : State} {s : State} {n : Fin 16} {r : Fin 8} (h : Evolves s0 s) : Evolves s0 (writeFailed s n r) := by
  unfold writeFailed
  dsimp only
  repeat' first
    | with_reducible assumption
    | with_reducible apply hostWrite_evolves
    | with_reducible apply State.modRing_evolves
    | with_reducible apply moderate_evolves
    | with_reducible apply State.post_evolves
    | simp only [evolves_update]
    | with_reducible apply Evolves.foldl
    | intro _

theorem descriptorRetire_evolves {s0 : State} {s : State} {n : Fin 16} {r : Fin 8} (h : Evolves s0 s) : Evolves s0 (descriptorRetire s n r) := by
  unfold descriptorRetire
  dsimp only
  repeat' first
    | with_reducible assumption
    | with_reducible apply settle_evolves
    | with_reducible apply writeFailed_evolves
    | with_reducible apply finishFront_evolves
    | with_reducible apply retireFront_evolves
    | simp only [evolves_update]
    | intro _
    | split

theorem execDescriptorRetire_evolves {s0 : State} {fn : Fin 16} {ring : Fin 8} {s : State} (h : Evolves s0 s) : Evolved s0 (execDescriptorRetire fn ring s) := by
  unfold execDescriptorRetire
  repeat' first
    | with_reducible assumption
    | with_reducible apply Evolved.next
    | exact Evolved.fault
    | with_reducible apply descriptorRetire_evolves

end Sys2Proof.Machine
end

