-- ==== Sys2Proof/Laws/EvolvesSluice.lean ====
section
/-! SUPPORT. The operations of Machine/Sluice.lean evolve the state (Laws/Evolves.lean). -/
namespace Sys2Proof.Machine

theorem failReceived_evolves {s0 : State} {s : State} {n : Fin 16} {vl : Nat} (h : Evolves s0 s) : Evolves s0 (failReceived s n vl) := by
  unfold failReceived
  repeat' first
    | with_reducible assumption
    | with_reducible apply failStepOf_evolves
    | intro _
    | split

theorem failParcel_evolves {s0 : State} {s : State} {q : Fin 24} {x : Parcel} (h : Evolves s0 s) : Evolves s0 (failParcel s q x) := by
  unfold failParcel
  dsimp only
  repeat' first
    | with_reducible assumption
    | with_reducible apply discard_evolves
    | with_reducible apply State.modPort_evolves
    | with_reducible apply portEvent_evolves
    | with_reducible apply recheck_evolves
    | with_reducible apply stopColl_evolves
    | with_reducible apply failReceived_evolves
    | with_reducible apply dropPartial_evolves
    | simp only [evolves_update]
    | intro _
    | split

theorem parcelReceived_evolves {s0 : State} {s : State} {q : Fin 24} {vl : Nat} {us : List (Nat × Byte)} (h : Evolves s0 s) : Evolves s0 (parcelReceived s q vl us) := by
  unfold parcelReceived
  dsimp only
  repeat' first
    | with_reducible assumption
    | with_reducible apply State.modPort_evolves
    | with_reducible apply failParcel_evolves
    | with_reducible apply State.countPort_evolves
    | with_reducible apply discard_evolves
    | with_reducible apply settle_evolves
    | with_reducible apply tryOpen_evolves
    | with_reducible apply receiveMirror_evolves
    | with_reducible apply recheck_evolves
    | with_reducible apply receiveColl_evolves
    | simp only [evolves_update]
    | intro _
    | split

theorem execParcelReceived_evolves {s0 : State} {port : Fin 24} {p : Arrival} {s : State} (h : Evolves s0 s) : Evolved s0 (execParcelReceived port p s) := by
  unfold execParcelReceived
  repeat' first
    | with_reducible assumption
    | with_reducible apply Evolved.next
    | exact Evolved.fault
    | with_reducible apply parcelReceived_evolves

theorem ackTo_evolves {s0 : State} {s : State} {q : Fin 24} {ack : Nat} (h : Evolves s0 s) : Evolves s0 (ackTo s q ack) := by
  unfold ackTo
  repeat' first
    | with_reducible assumption
    | with_reducible apply pump_evolves
    | with_reducible apply State.modPort_evolves
    | simp only [evolves_update]
    | intro _
    | split

theorem takeCredits_evolves {s0 : State} {s : State} {q : Fin 24} {a b : Nat × Nat} (h : Evolves s0 s) : Evolves s0 (takeCredits s q a b) := by
  unfold takeCredits
  repeat' first
    | with_reducible assumption
    | with_reducible apply pump_evolves
    | with_reducible apply State.modPort_evolves

theorem resend_evolves {s0 : State} {s : State} {q : Fin 24} (h : Evolves s0 s) : Evolves s0 (resend s q) := by
  unfold resend
  dsimp only
  repeat' first
    | with_reducible assumption
    | with_reducible apply goDown_evolves
    | with_reducible apply State.modPort_evolves
    | with_reducible apply State.countPort_evolves
    | simp only [evolves_update]
    | with_reducible apply Evolves.foldl
    | intro _
    | split

theorem takeNak_evolves {s0 : State} {s : State} {q : Fin 24} {ack : Nat} (h : Evolves s0 s) : Evolves s0 (takeNak s q ack) := by
  unfold takeNak
  dsimp only
  repeat' first
    | with_reducible assumption
    | with_reducible apply ackTo_evolves
    | with_reducible apply resend_evolves
    | with_reducible apply State.modPort_evolves
    | simp only [evolves_update]
    | intro _
    | split

theorem takeHeader_evolves {s0 : State} {s : State} {q : Fin 24} {f : Flit} (h : Evolves s0 s) : Evolves s0 (takeHeader s q f) := by
  unfold takeHeader
  dsimp only
  repeat' first
    | with_reducible assumption
    | with_reducible apply takeCredits_evolves
    | with_reducible apply takeNak_evolves
    | with_reducible apply ackTo_evolves
    | with_reducible apply State.modPort_evolves
    | simp only [evolves_update]
    | intro _
    | split

theorem setNak_evolves {s0 : State} {s : State} {q : Fin 24} (h : Evolves s0 s) : Evolves s0 (setNak s q) := by
  unfold setNak
  dsimp only
  repeat' first
    | with_reducible assumption
    | with_reducible apply State.countPort_evolves
    | with_reducible apply State.modPort_evolves
    | simp only [evolves_update]
    | intro _
    | split

theorem execNakReceived_evolves {s0 : State} {port : Fin 24} {ack : Nat} {s : State} (h : Evolves s0 s) : Evolved s0 (execNakReceived port ack s) := by
  unfold execNakReceived
  repeat' first
    | with_reducible assumption
    | with_reducible apply Evolved.next
    | exact Evolved.fault
    | with_reducible apply takeNak_evolves
    | split

theorem execAckTimeout_evolves {s0 : State} {port : Fin 24} {s : State} (h : Evolves s0 s) : Evolved s0 (execAckTimeout port s) := by
  unfold execAckTimeout
  repeat' first
    | with_reducible assumption
    | with_reducible apply Evolved.next
    | exact Evolved.fault
    | with_reducible apply resend_evolves
    | split

theorem settleLanes_evolves {s0 : State} {s : State} {q : Fin 24} {transmit : Bool} (h : Evolves s0 s) : Evolves s0 (settleLanes s q transmit) := by
  unfold settleLanes
  dsimp only
  repeat' first
    | with_reducible assumption
    | with_reducible apply goDown_evolves
    | with_reducible apply settleTx_evolves
    | with_reducible apply settleRx_evolves
    | intro _
    | split

theorem txFault_evolves {s0 : State} {s : State} {q : Fin 24} {l : Nat} {cls : LaneClass} {live : Bool} (h : Evolves s0 s) : Evolves s0 (txFault s q l cls live) := by
  unfold txFault
  repeat' first
    | with_reducible assumption
    | with_reducible apply settleLanes_evolves
    | with_reducible apply State.modPort_evolves
    | intro _
    | split

theorem rxFault_evolves {s0 : State} {s : State} {q : Fin 24} {u : Nat} {cls : LaneClass} {failed : Bool} (h : Evolves s0 s) : Evolves s0 (rxFault s q u cls failed) := by
  unfold rxFault
  dsimp only
  repeat' first
    | with_reducible assumption
    | with_reducible apply State.modPort_evolves
    | with_reducible apply settleLanes_evolves
    | simp only [evolves_update]
    | intro _
    | split

theorem execLaneFailed_evolves {s0 : State} {port : Fin 24} {lane : Fin 9} {cls : LaneClass} {s : State} (h : Evolves s0 s) : Evolved s0 (execLaneFailed port lane cls s) := by
  unfold execLaneFailed
  repeat' first
    | with_reducible assumption
    | with_reducible apply Evolved.next
    | exact Evolved.fault
    | with_reducible apply rxFault_evolves

theorem laneDegraded_evolves {s0 : State} {s : State} {q : Fin 24} {u : Nat} (h : Evolves s0 s) : Evolves s0 (laneDegraded s q u) := by
  unfold laneDegraded
  repeat' first
    | with_reducible assumption
    | with_reducible apply rxFault_evolves
    | intro _
    | split

theorem execLaneDegraded_evolves {s0 : State} {port : Fin 24} {lane : Fin 9} {s : State} (h : Evolves s0 s) : Evolved s0 (execLaneDegraded port lane s) := by
  unfold execLaneDegraded
  repeat' first
    | with_reducible assumption
    | with_reducible apply Evolved.next
    | exact Evolved.fault
    | with_reducible apply laneDegraded_evolves

theorem noteSwap_evolves {s0 : State} {s : State} {q : Fin 24} {old : Dir} {c : LaneCmd} (h : Evolves s0 s) : Evolves s0 (noteSwap s q old c) := by
  unfold noteSwap
  dsimp only
  repeat' first
    | with_reducible assumption
    | with_reducible apply rasLog_evolves
    | with_reducible apply portEvent_evolves
    | with_reducible apply State.countPort_evolves
    | intro _
    | split

theorem laneCmdEffective_evolves {s0 : State} {s : State} {q : Fin 24} {transmit : Bool} (h : Evolves s0 s) : Evolves s0 (laneCmdEffective s q transmit) := by
  unfold laneCmdEffective
  dsimp only
  repeat' first
    | with_reducible assumption
    | with_reducible apply State.modPort_evolves
    | with_reducible apply settleLanes_evolves
    | with_reducible apply noteSwap_evolves
    | simp only [evolves_update]
    | intro _
    | split

theorem execLaneCmdEffective_evolves {s0 : State} {port : Fin 24} {transmit : Bool} {s : State} (h : Evolves s0 s) : Evolved s0 (execLaneCmdEffective port transmit s) := by
  unfold execLaneCmdEffective
  repeat' first
    | with_reducible assumption
    | with_reducible apply Evolved.next
    | exact Evolved.fault
    | with_reducible apply laneCmdEffective_evolves

theorem takeIdentity_evolves {s0 : State} {s : State} {q : Fin 24} {b : StateBody} (h : Evolves s0 s) : Evolves s0 (takeIdentity s q b) := by
  unfold takeIdentity
  repeat' first
    | with_reducible assumption
    | with_reducible apply State.modPort_evolves

theorem takeVerified_evolves {s0 : State} {s : State} {q : Fin 24} {vs : List Nat} (h : Evolves s0 s) : Evolves s0 (takeVerified s q vs) := by
  unfold takeVerified
  repeat' first
    | with_reducible assumption
    | with_reducible apply State.modPort_evolves

theorem takePfail_evolves {s0 : State} {s : State} {q : Fin 24} {x : Nat × Nat} (h : Evolves s0 s) : Evolves s0 (takePfail s q x) := by
  unfold takePfail
  dsimp only
  repeat' first
    | with_reducible assumption
    | with_reducible apply State.modPort_evolves
    | with_reducible apply failStep_evolves
    | with_reducible apply resendMirror_evolves
    | simp only [evolves_update]
    | intro _
    | split

theorem takeLaneCmd_evolves {s0 : State} {s : State} {q : Fin 24} {c : LaneCmd} (h : Evolves s0 s) : Evolves s0 (takeLaneCmd s q c) := by
  unfold takeLaneCmd
  dsimp only
  repeat' first
    | with_reducible assumption
    | with_reducible apply State.modPort_evolves
    | simp only [evolves_update]
    | intro _
    | split

theorem takeFault_evolves {s0 : State} {s : State} {q : Fin 24} {b : StateBody} (h : Evolves s0 s) : Evolves s0 (takeFault s q b) := by
  unfold takeFault
  repeat' first
    | with_reducible assumption
    | with_reducible apply txFault_evolves
    | with_reducible apply State.modPort_evolves
    | simp only [evolves_update]
    | intro _
    | split

theorem takeLeave_evolves {s0 : State} {s : State} {q : Fin 24} {leave : Bool} (h : Evolves s0 s) : Evolves s0 (takeLeave s q leave) := by
  unfold takeLeave
  repeat' first
    | with_reducible assumption
    | with_reducible apply leavePort_evolves
    | with_reducible apply portEvent_evolves
    | intro _
    | split

theorem takeState_evolves {s0 : State} {s : State} {q : Fin 24} {b : StateBody} (h : Evolves s0 s) : Evolves s0 (takeState s q b) := by
  unfold takeState
  dsimp only
  repeat' first
    | with_reducible assumption
    | with_reducible apply takeIdentity_evolves
    | with_reducible apply takePfail_evolves
    | with_reducible apply takeVerified_evolves
    | with_reducible apply takeLaneCmd_evolves
    | with_reducible apply tryJoin_evolves
    | with_reducible apply takeLeave_evolves
    | with_reducible apply takeFault_evolves
    | simp only [evolves_update]
    | intro _
    | split

theorem takeData_evolves {s0 : State} {s : State} {q : Fin 24} {f : Flit} (h : Evolves s0 s) : Evolves s0 (takeData s q f) := by
  unfold takeData
  repeat' first
    | with_reducible assumption
    | with_reducible apply State.modPort_evolves
    | with_reducible apply setNak_evolves
    | simp only
    | intro _
    | split

theorem noteWeak_evolves {s0 : State} {s : State} {q : Fin 24} {lane : Fin 9} (h : Evolves s0 s) : Evolves s0 (noteWeak s q lane) := by
  unfold noteWeak
  dsimp only
  repeat' first
    | with_reducible assumption
    | with_reducible apply State.modPort_evolves
    | with_reducible apply laneDegraded_evolves
    | simp only [evolves_update]
    | intro _
    | split

theorem noteCodeword_evolves {s0 : State} {s : State} {q : Fin 24} {lane : Fin 9} {k : Nat} (h : Evolves s0 s) : Evolves s0 (noteCodeword s q lane k) := by
  unfold noteCodeword
  dsimp only
  repeat' first
    | with_reducible assumption
    | with_reducible apply State.countPort_evolves
    | with_reducible apply noteWeak_evolves
    | intro _
    | split

theorem lockTag_evolves {s0 : State} {s : State} {q : Fin 24} {tag : Fin 16} (h : Evolves s0 s) : Evolves s0 (lockTag s q tag) := by
  unfold lockTag
  repeat' first
    | with_reducible assumption
    | with_reducible apply State.modPort_evolves

theorem flitArrives_evolves {s0 : State} {s : State} {q : Fin 24} {cw : Codeword} (h : Evolves s0 s) : Evolves s0 (flitArrives s q cw) := by
  unfold flitArrives
  dsimp only
  repeat' first
    | with_reducible assumption
    | with_reducible apply noteCodeword_evolves
    | with_reducible apply setNak_evolves
    | with_reducible apply takeHeader_evolves
    | with_reducible apply lockTag_evolves
    | with_reducible apply takeData_evolves
    | with_reducible apply takeState_evolves
    | with_reducible apply flitState_evolves
    | intro _
    | split

theorem execFlitReceived_evolves {s0 : State} {port : Fin 24} {f : Codeword} {s : State} (h : Evolves s0 s) : Evolved s0 (execFlitReceived port f s) := by
  unfold execFlitReceived
  repeat' first
    | with_reducible assumption
    | with_reducible apply Evolved.next
    | exact Evolved.fault
    | with_reducible apply flitArrives_evolves

theorem execStateFlitReceived_evolves {s0 : State} {port : Fin 24} {f : Codeword} {s : State} (h : Evolves s0 s) : Evolved s0 (execStateFlitReceived port f s) := by
  unfold execStateFlitReceived
  repeat' first
    | with_reducible assumption
    | with_reducible apply Evolved.next
    | exact Evolved.fault
    | with_reducible apply flitArrives_evolves

theorem execTrainingWindow_evolves {s0 : State} {port : Fin 24} {s : State} (h : Evolves s0 s) : Evolved s0 (execTrainingWindow port s) := by
  unfold execTrainingWindow
  repeat' first
    | with_reducible assumption
    | with_reducible apply Evolved.next
    | exact Evolved.fault
    | with_reducible apply State.modPort_evolves
    | simp only [evolves_update]
    | split

theorem execPartnerDetected_evolves {s0 : State} {port : Fin 24} {s : State} (h : Evolves s0 s) : Evolved s0 (execPartnerDetected port s) := by
  unfold execPartnerDetected
  repeat' first
    | with_reducible assumption
    | with_reducible apply Evolved.next
    | exact Evolved.fault
    | with_reducible apply State.modPort_evolves
    | simp only [evolves_update]
    | split

theorem trainingComplete_evolves {s0 : State} {s : State} {q : Fin 24} {f : Flit} (h : Evolves s0 s) : Evolves s0 (trainingComplete s q f) := by
  unfold trainingComplete
  dsimp only
  repeat' first
    | with_reducible assumption
    | with_reducible apply State.modPort_evolves
    | with_reducible apply askJoin_evolves
    | with_reducible apply takeIdentity_evolves
    | with_reducible apply flitState_evolves
    | simp only [evolves_update]
    | intro _
    | split

theorem execTrainingComplete_evolves {s0 : State} {port : Fin 24} {f : Flit} {s : State} (h : Evolves s0 s) : Evolved s0 (execTrainingComplete port f s) := by
  unfold execTrainingComplete
  repeat' first
    | with_reducible assumption
    | with_reducible apply Evolved.next
    | exact Evolved.fault
    | with_reducible apply trainingComplete_evolves

theorem execTrainingTimeout_evolves {s0 : State} {port : Fin 24} {s : State} (h : Evolves s0 s) : Evolved s0 (execTrainingTimeout port s) := by
  unfold execTrainingTimeout
  repeat' first
    | with_reducible assumption
    | with_reducible apply Evolved.next
    | exact Evolved.fault
    | with_reducible apply State.modPort_evolves
    | simp only [evolves_update]
    | split

theorem execQuarantineEnd_evolves {s0 : State} {port : Fin 24} {s : State} (h : Evolves s0 s) : Evolved s0 (execQuarantineEnd port s) := by
  unfold execQuarantineEnd
  repeat' first
    | with_reducible assumption
    | with_reducible apply Evolved.next
    | exact Evolved.fault
    | with_reducible apply State.modPort_evolves
    | simp only
    | split

theorem execBeaconTick_evolves {s0 : State} {s : State} (h : Evolves s0 s) : Evolved s0 (execBeaconTick s) := by
  unfold execBeaconTick
  repeat' first
    | with_reducible assumption
    | with_reducible apply Evolved.next
    | exact Evolved.fault
    | simp only [evolves_update]
    | split

theorem peerEvent_evolves {s0 : State} {s : State} {q : Fin 24} {code : Nat} (h : Evolves s0 s) : Evolves s0 (peerEvent s q code) := by
  unfold peerEvent
  dsimp only
  repeat' first
    | with_reducible assumption
    | with_reducible apply event_evolves
    | simp only [evolves_update]
    | with_reducible apply Evolves.foldl
    | intro _
    | split

theorem beaconSample_evolves {s0 : State} {s : State} {q : Fin 24} (h : Evolves s0 s) : Evolves s0 (beaconSample s q) := by
  unfold beaconSample
  dsimp only
  repeat' first
    | with_reducible assumption
    | with_reducible apply State.modPort_evolves
    | with_reducible apply State.countPort_evolves
    | with_reducible apply peerEvent_evolves
    | simp only [evolves_update]
    | intro _
    | split

theorem execBeaconSample_evolves {s0 : State} {port : Fin 24} {s : State} (h : Evolves s0 s) : Evolved s0 (execBeaconSample port s) := by
  unfold execBeaconSample
  repeat' first
    | with_reducible assumption
    | with_reducible apply Evolved.next
    | exact Evolved.fault
    | with_reducible apply beaconSample_evolves

theorem txWavelength_evolves {s0 : State} {s : State} {q : Fin 24} {w : Nat} (h : Evolves s0 s) : Evolves s0 (txWavelength s q w) := by
  unfold txWavelength
  repeat' first
    | with_reducible assumption
    | with_reducible apply txFault_evolves
    | with_reducible apply State.modPort_evolves
    | simp only [evolves_update]
    | intro _
    | split

theorem takeEngine_evolves {s0 : State} {s : State} {a : EngineStatus} (h : Evolves s0 s) : Evolves s0 (takeEngine s a) := by
  unfold takeEngine
  dsimp only
  repeat' first
    | with_reducible assumption
    | with_reducible apply State.modPort_evolves
    | with_reducible apply goDown_evolves
    | with_reducible apply rxFault_evolves
    | with_reducible apply txWavelength_evolves
    | simp only [evolves_update]
    | with_reducible apply Evolves.foldl
    | intro _
    | split

theorem execOptPoll_evolves {s0 : State} {answers : List EngineStatus} {s : State} (h : Evolves s0 s) : Evolved s0 (execOptPoll answers s) := by
  unfold execOptPoll
  repeat' first
    | with_reducible assumption
    | with_reducible apply Evolved.next
    | exact Evolved.fault
    | with_reducible apply takeEngine_evolves
    | with_reducible apply Evolves.foldl
    | split

theorem optIntAssert_evolves {s0 : State} {s : State} {due : Bool} {answers : List EngineStatus} (h : Evolves s0 s) : Evolves s0 (optIntAssert s due answers) := by
  unfold optIntAssert
  dsimp only
  repeat' first
    | with_reducible assumption
    | with_reducible apply takeEngine_evolves
    | simp only [evolves_update]
    | with_reducible apply Evolves.foldl
    | intro _
    | split

theorem execOptIntAssert_evolves {s0 : State} {sweepDue : Bool} {answers : List EngineStatus} {s : State} (h : Evolves s0 s) : Evolved s0 (execOptIntAssert sweepDue answers s) := by
  unfold execOptIntAssert
  repeat' first
    | with_reducible assumption
    | with_reducible apply Evolved.next
    | exact Evolved.fault
    | with_reducible apply optIntAssert_evolves

theorem execOptStuck_evolves {s0 : State} {s : State} (h : Evolves s0 s) : Evolved s0 (execOptStuck s) := by
  unfold execOptStuck
  repeat' first
    | with_reducible assumption
    | with_reducible apply Evolved.next
    | exact Evolved.fault
    | simp only [evolves_update]
    | split

theorem execOptIntDeassert_evolves {s0 : State} {s : State} (h : Evolves s0 s) : Evolved s0 (execOptIntDeassert s) := by
  unfold execOptIntDeassert
  repeat' first
    | with_reducible assumption
    | with_reducible apply Evolved.next
    | exact Evolved.fault
    | simp only [evolves_update]

theorem mirrorDetached_evolves {s0 : State} {s : State} {n : Fin 16} (h : Evolves s0 s) : Evolves s0 (mirrorDetached s n) := by
  unfold mirrorDetached
  dsimp only
  repeat' first
    | with_reducible assumption
    | with_reducible apply detach_evolves
    | intro _
    | split

theorem execMirrorDetached_evolves {s0 : State} {fn : Fin 16} {s : State} (h : Evolves s0 s) : Evolved s0 (execMirrorDetached fn s) := by
  unfold execMirrorDetached
  repeat' first
    | with_reducible assumption
    | with_reducible apply Evolved.next
    | exact Evolved.fault
    | with_reducible apply mirrorDetached_evolves

theorem mirrorSyncTimeout_evolves {s0 : State} {s : State} {n : Fin 16} (h : Evolves s0 s) : Evolves s0 (mirrorSyncTimeout s n) := by
  unfold mirrorSyncTimeout
  repeat' first
    | with_reducible assumption
    | with_reducible apply settle_evolves
    | with_reducible apply tryOpen_evolves
    | with_reducible apply endJob_evolves
    | with_reducible apply detach_evolves
    | intro _
    | split

theorem execMirrorSyncTimeout_evolves {s0 : State} {fn : Fin 16} {s : State} (h : Evolves s0 s) : Evolved s0 (execMirrorSyncTimeout fn s) := by
  unfold execMirrorSyncTimeout
  repeat' first
    | with_reducible assumption
    | with_reducible apply Evolved.next
    | exact Evolved.fault
    | with_reducible apply mirrorSyncTimeout_evolves

theorem shardRestoreTimeout_evolves {s0 : State} {s : State} {n : Fin 16} (h : Evolves s0 s) : Evolves s0 (shardRestoreTimeout s n) := by
  unfold shardRestoreTimeout
  repeat' first
    | with_reducible assumption
    | with_reducible apply settle_evolves
    | with_reducible apply tryOpen_evolves
    | with_reducible apply shardLost_evolves
    | intro _
    | split

theorem execShardRestoreTimeout_evolves {s0 : State} {fn : Fin 16} {s : State} (h : Evolves s0 s) : Evolved s0 (execShardRestoreTimeout fn s) := by
  unfold execShardRestoreTimeout
  repeat' first
    | with_reducible assumption
    | with_reducible apply Evolved.next
    | exact Evolved.fault
    | with_reducible apply shardRestoreTimeout_evolves

end Sys2Proof.Machine
end

