-- ==== Sys2Proof/Laws/EvolvesFirmware.lean ====
section
/-! SUPPORT. The operations of Machine/Firmware.lean evolve the state (Laws/Evolves.lean). -/
namespace Sys2Proof.Machine

theorem bootRom_evolves {s0 : State} {s : State} (h : Evolves s0 s) : Evolves s0 (bootRom s) := by
  unfold bootRom
  dsimp only
  repeat' first
    | with_reducible assumption
    | simp only [evolves_update]
    | intro _
    | split
    | with_reducible refine Evolves.updateLcs ?_ rfl rfl rfl

theorem freshNonce_evolves {s0 : State} {s : State} (h : Evolves s0 s) : Evolves s0 (freshNonce s) := by
  unfold freshNonce
  dsimp only [State.draw]
  repeat' first
    | with_reducible assumption
    | simp only [evolves_update]
    | intro _
    | split
    | with_reducible refine Evolves.updateLcs ?_ rfl rfl rfl

theorem wipeRas_evolves {s0 : State} {s : State} {n : Option (Fin 16)} {ms : List (Nat × Nat)} (h : Evolves s0 s) : Evolves s0 (wipeRas s n ms) := by
  unfold wipeRas
  repeat' first
    | with_reducible assumption
    | with_reducible apply rasLog_evolves
    | with_reducible apply Evolves.foldl
    | intro _

theorem wipeBasins_evolves {s0 s : State} {rs : List (Nat × Nat)} (h : Evolves s0 s) : Evolves s0 (wipeBasins s rs) :=
  Evolves.dropMem h (Sparse.filter_wf _) (Sparse.filter_wf _)

theorem clearSlots_evolves {s0 : State} {s : State} {n : Fin 16} (h : Evolves s0 s) : Evolves s0 (clearSlots s n) := by
  unfold clearSlots
  dsimp only
  repeat' first
    | with_reducible assumption
    | with_reducible apply State.modSlots_evolves
    | simp only [evolves_update]
    | intro _
    | split

theorem releaseSlot_evolves {s0 : State} {s : State} (h : Evolves s0 s) : Evolves s0 (releaseSlot s) := by
  unfold releaseSlot
  repeat' first
    | with_reducible assumption
    | with_reducible apply State.modSlots_evolves
    | simp only
    | intro _
    | split

theorem mbxEnd_evolves {s0 : State} {s : State} {st : MbxSt} {result : Nat} (h : Evolves s0 s) : Evolves s0 (mbxEnd s st result) := by
  unfold mbxEnd
  dsimp only
  repeat' first
    | with_reducible assumption
    | with_reducible apply releaseSlot_evolves
    | simp only [evolves_update]

theorem boot_evolves {s0 : State} {s : State} (h : Evolves s0 s) : Evolves s0 (boot s) := by
  unfold boot
  repeat' first
    | with_reducible assumption
    | with_reducible apply bootRom_evolves
    | split
    | with_reducible refine Evolves.updateLcs ?_ rfl rfl rfl

theorem restart_evolves {s0 : State} {s : State} (h : Evolves s0 s) : Evolves s0 (restart s) := by
  unfold restart
  repeat' first
    | with_reducible assumption
    | with_reducible apply boot_evolves
    | with_reducible apply mbxEnd_evolves
    | intro _
    | split

end Sys2Proof.Machine
end

