-- ==== Sys2Proof/Laws/EvolvesShutter.lean ====
section
/-! SUPPORT. The operations of Machine/Shutter.lean evolve the state (Laws/Evolves.lean). -/
namespace Sys2Proof.Machine

theorem makeSpare_evolves {s0 : State} {s : State} {n : Fin 16} {g : GateReq} (h : Evolves s0 s) : Evolves s0 (makeSpare s n g) := by
  unfold makeSpare
  dsimp only
  repeat' first
    | with_reducible assumption
    | with_reducible apply closureSubstitute_evolves
    | with_reducible apply fenceUnit_evolves
    | intro _
    | split

theorem makeSpares_evolves {s0 : State} {s : State} {n : Fin 16} (h : Evolves s0 s) : Evolves s0 (makeSpares s n) := by
  unfold makeSpares
  repeat' first
    | with_reducible assumption
    | with_reducible apply makeSpare_evolves
    | with_reducible apply State.modPart_evolves
    | simp only [evolves_update]
    | with_reducible apply Evolves.foldl
    | intro _

theorem fenceClosed_evolves {s0 : State} {s : State} {n : Fin 16} (h : Evolves s0 s) : Evolves s0 (fenceClosed s n) := by
  unfold fenceClosed
  repeat' first
    | with_reducible assumption
    | with_reducible apply State.modPart_evolves

theorem shutterQuiesced_evolves {s0 : State} {s : State} {n : Fin 16} (h : Evolves s0 s) : Evolves s0 (shutterQuiesced s n) := by
  unfold shutterQuiesced
  dsimp only
  repeat' first
    | with_reducible assumption
    | with_reducible apply functionReset_evolves
    | with_reducible apply State.modPart_evolves
    | with_reducible apply makeSpares_evolves
    | with_reducible apply settleGates_evolves
    | with_reducible apply fenceClosed_evolves
    | simp only [evolves_update]
    | intro _
    | split

theorem execShutterQuiesced_evolves {s0 : State} {fn : Fin 16} {s : State} (h : Evolves s0 s) : Evolved s0 (execShutterQuiesced fn s) := by
  unfold execShutterQuiesced
  repeat' first
    | with_reducible assumption
    | with_reducible apply Evolved.next
    | exact Evolved.fault
    | with_reducible apply shutterQuiesced_evolves

theorem wipeComplete_evolves {s0 : State} {s : State} {n : Fin 16} {ms : List (Nat × Nat)} (h : Evolves s0 s) : Evolves s0 (wipeComplete s n ms) := by
  unfold wipeComplete
  dsimp only
  repeat' first
    | with_reducible assumption
    | with_reducible apply makeSpares_evolves
    | with_reducible apply clearSlots_evolves
    | with_reducible apply assignPorts_evolves
    | with_reducible apply wipeBasins_evolves
    | with_reducible apply State.modFn_evolves
    | with_reducible apply State.modPart_evolves
    | with_reducible apply wipeRas_evolves
    | with_reducible apply settleGates_evolves
    | with_reducible apply fenceClosed_evolves
    | simp only [evolves_update]
    | intro _
    | split

theorem tokenDone_evolves {s0 : State} {s : State} (h : Evolves s0 s) : Evolves s0 (tokenDone s) := by
  unfold tokenDone
  dsimp only
  repeat' first
    | with_reducible assumption
    | with_reducible apply restart_evolves
    | with_reducible apply mbxEnd_evolves
    | simp only [evolves_update]
    | intro _
    | split
    | with_reducible refine Evolves.updateLcs ?_ rfl rfl rfl

theorem execWipeComplete_evolves {s0 : State} {fn : Fin 16} {mismatch : List (Nat × Nat)} {s : State} (h : Evolves s0 s) : Evolved s0 (execWipeComplete fn mismatch s) := by
  unfold execWipeComplete
  dsimp only
  repeat' first
    | with_reducible assumption
    | with_reducible apply Evolved.next
    | exact Evolved.fault
    | with_reducible apply tokenDone_evolves
    | with_reducible apply wipeComplete_evolves
    | simp only [evolves_update]
    | split
    | intro _
    | with_reducible refine Evolves.updateLcs ?_ rfl rfl rfl

theorem shutterOpen_evolves {s0 : State} {s : State} {n : Fin 16} (h : Evolves s0 s) : Evolves s0 (shutterOpen s n) := by
  unfold shutterOpen
  dsimp only
  repeat' first
    | with_reducible assumption
    | with_reducible apply makeSpares_evolves
    | with_reducible apply settleGates_evolves
    | with_reducible apply fenceClosed_evolves
    | with_reducible apply State.modPart_evolves
    | simp only [evolves_update]
    | intro _
    | split

theorem execShutterOpen_evolves {s0 : State} {fn : Fin 16} {s : State} (h : Evolves s0 s) : Evolved s0 (execShutterOpen fn s) := by
  unfold execShutterOpen
  repeat' first
    | with_reducible assumption
    | with_reducible apply Evolved.next
    | exact Evolved.fault
    | with_reducible apply tokenDone_evolves
    | with_reducible apply shutterOpen_evolves

theorem resetConfig_evolves {s0 : State} {s : State} {n : Fin 16} (h : Evolves s0 s) : Evolves s0 (resetConfig s n) := by
  unfold resetConfig
  repeat' first
    | with_reducible assumption
    | with_reducible apply State.modFn_evolves

theorem clearVf_evolves {s0 : State} {s : State} (h : Evolves s0 s) : Evolves s0 (clearVf s) := by
  unfold clearVf
  repeat' first
    | with_reducible assumption
    | with_reducible apply functionReset_evolves
    | simp only [evolves_update]
    | with_reducible apply Evolves.foldl
    | intro _
    | split

theorem functionLevelReset_evolves {s0 s : State} {n : Fin 16} (h : Evolves s0 s) : Evolves s0 (functionLevelReset s n) := by
  have h1 : Evolves s0 (functionReset (resetConfig s n) n) := functionReset_evolves (resetConfig_evolves h)
  unfold functionLevelReset
  dsimp only
  split
  · exact h
  · split
    · exact clearVf_evolves (h1.trans (Evolves.config rfl rfl rfl rfl rfl rfl id (fun a b => ⟨a, b⟩) rfl))
    · exact h1

theorem execFunctionLevelReset_evolves {s0 : State} {fn : Fin 16} {s : State} (h : Evolves s0 s) : Evolved s0 (execFunctionLevelReset fn s) := by
  unfold execFunctionLevelReset
  repeat' first
    | with_reducible assumption
    | with_reducible apply Evolved.next
    | exact Evolved.fault
    | with_reducible apply settleGates_evolves
    | with_reducible apply functionLevelReset_evolves

theorem execFnReset_evolves {s0 : State} {fn : Fin 16} {value : Word} {s : State} (h : Evolves s0 s) : Evolved s0 (execFnReset fn value s) := by
  unfold execFnReset
  repeat' first
    | with_reducible assumption
    | with_reducible apply Evolved.next
    | exact Evolved.fault
    | with_reducible apply settleGates_evolves
    | with_reducible apply functionReset_evolves
    | split

theorem execVfEnableClear_evolves {s0 : State} {s : State} (h : Evolves s0 s) : Evolved s0 (execVfEnableClear s) := by
  unfold execVfEnableClear
  repeat' first
    | with_reducible assumption
    | with_reducible apply Evolved.next
    | exact Evolved.fault
    | with_reducible apply settleGates_evolves
    | with_reducible apply clearVf_evolves
    | split

theorem execVfEnableSet_evolves {s0 : State} {s : State} (h : Evolves s0 s) : Evolved s0 (execVfEnableSet s) := by
  unfold execVfEnableSet
  repeat' first
    | with_reducible assumption
    | with_reducible apply Evolved.next
    | exact Evolved.fault
    | simp only [evolves_update]
    | split

theorem execD0ToD3hot_evolves {s0 : State} {fn : Fin 16} {s : State} (h : Evolves s0 s) : Evolved s0 (execD0ToD3hot fn s) := by
  unfold execD0ToD3hot
  repeat' first
    | with_reducible assumption
    | with_reducible apply Evolved.next
    | exact Evolved.fault
    | with_reducible apply State.modFn_evolves
    | simp only [evolves_update]
    | split

theorem execD3hotToD0_evolves {s0 : State} {fn : Fin 16} {s : State} (h : Evolves s0 s) : Evolved s0 (execD3hotToD0 fn s) := by
  unfold execD3hotToD0
  repeat' first
    | with_reducible assumption
    | with_reducible apply Evolved.next
    | exact Evolved.fault
    | with_reducible apply settleGates_evolves
    | with_reducible apply functionReset_evolves
    | with_reducible apply resetConfig_evolves
    | split

theorem spoilOutside_evolves {s0 : State} {s : State} {n : Fin 16} (h : Evolves s0 s) : Evolves s0 (spoilOutside s n) := by
  unfold spoilOutside
  dsimp only
  repeat' first
    | with_reducible assumption
    | with_reducible apply scramble_evolves
    | with_reducible apply Evolves.foldl
    | intro _

theorem linkLost_evolves {s0 : State} {s : State} (h : Evolves s0 s) : Evolves s0 (linkLost s) := by
  unfold linkLost
  dsimp only
  repeat' first
    | with_reducible assumption
    | with_reducible apply spoilOutside_evolves
    | with_reducible apply functionReset_evolves
    | with_reducible apply resetConfig_evolves
    | simp only [evolves_update]
    | with_reducible apply Evolves.foldl
    | intro _
    | split

theorem execHostLinkDown_evolves {s0 : State} {s : State} (h : Evolves s0 s) : Evolved s0 (execHostLinkDown s) := by
  unfold execHostLinkDown
  repeat' first
    | with_reducible assumption
    | with_reducible apply Evolved.next
    | exact Evolved.fault
    | with_reducible apply settleGates_evolves
    | with_reducible apply linkLost_evolves

theorem execHostLinkUp_evolves {s0 : State} {s : State} (h : Evolves s0 s) : Evolved s0 (execHostLinkUp s) := by
  unfold execHostLinkUp
  repeat' first
    | with_reducible assumption
    | with_reducible apply Evolved.next
    | exact Evolved.fault
    | simp only [evolves_update]
    | split

theorem endMailbox_evolves {s0 : State} {s : State} (h : Evolves s0 s) : Evolves s0 (endMailbox s) := by
  unfold endMailbox
  repeat' first
    | with_reducible assumption
    | simp only
    | intro _
    | split
    | with_reducible refine Evolves.updateLcs ?_ rfl rfl rfl

theorem wipeBuffers_evolves {s0 : State} {s : State} (h : Evolves s0 s) : Evolves s0 (wipeBuffers s) := by
  unfold wipeBuffers
  dsimp only
  repeat' first
    | with_reducible assumption
    | with_reducible apply mbxEnd_evolves
    | simp only [evolves_update]
    | intro _
    | split

theorem coreReset_evolves {s0 s : State} (h : Evolves s0 s) : Evolves s0 (coreReset s) := by
  refine h.trans ⟨fun g => ?_, rfl, rfl, Nat.le_refl _, rfl⟩
  obtain ⟨a, b, c, d, e⟩ := g
  simp only [Memory.wf, Bool.and_eq_true] at a
  refine ⟨?_, b, Nat.zero_le _, legalMap_filter _ d, legalMap_filter _ d⟩
  simp only [Memory.wf, Bool.and_eq_true]
  exact ⟨⟨⟨rfl, a.1.1.2⟩, a.1.2⟩, rfl⟩

theorem recordCause_evolves {s0 : State} {s : State} {code : Nat} (h : Evolves s0 s) : Evolves s0 (recordCause s code) := by
  unfold recordCause
  dsimp only [State.draw]
  repeat' first
    | with_reducible assumption
    | simp only [evolves_update]
    | intro _
    | split
    | with_reducible refine Evolves.updateLcs ?_ rfl rfl rfl

theorem railsOff_evolves {s0 : State} {s : State} {code : Nat} (h : Evolves s0 s) : Evolves s0 (railsOff s code) := by
  unfold railsOff
  dsimp only
  repeat' first
    | with_reducible assumption
    | with_reducible apply coreReset_evolves
    | with_reducible apply recordCause_evolves
    | with_reducible apply tokenDone_evolves
    | simp only [evolves_update]

theorem inputFault_evolves {s0 : State} {s : State} (h : Evolves s0 s) : Evolves s0 (inputFault s) := by
  unfold inputFault
  dsimp only
  repeat' first
    | with_reducible assumption
    | with_reducible apply wipeBuffers_evolves
    | with_reducible apply railsOff_evolves
    | simp only [evolves_update]
    | intro _
    | split

theorem porstAssert_evolves {s0 s : State} (h : Evolves s0 s) : Evolves s0 (porstAssert s) := by
  have h1 : Evolves s0 (coreReset (if s.sys.rails then recordCause s 1 else s)) := by
    apply coreReset_evolves
    split
    · exact recordCause_evolves h
    · exact h
  refine h1.trans ⟨fun g => ?_, rfl, rfl, Nat.le_refl _, rfl⟩
  exact ⟨g.mem, Nat.zero_le _, Nat.zero_le _, rfl, rfl⟩

theorem execPorstAssert_evolves {s0 : State} {s : State} (h : Evolves s0 s) : Evolved s0 (execPorstAssert s) := by
  unfold execPorstAssert
  repeat' first
    | with_reducible assumption
    | with_reducible apply Evolved.next
    | exact Evolved.fault
    | with_reducible apply porstAssert_evolves
    | split

theorem execVddio18Fall_evolves {s0 : State} {s : State} (h : Evolves s0 s) : Evolved s0 (execVddio18Fall s) := by
  unfold execVddio18Fall
  repeat' first
    | with_reducible assumption
    | with_reducible apply Evolved.next
    | exact Evolved.fault
    | with_reducible apply porstAssert_evolves
    | split

theorem bootWipe_evolves {s0 : State} {s : State} {env : BootEnv} {top : Nat} (h : Evolves s0 s) : Evolves s0 (bootWipe s env top) := by
  unfold bootWipe
  dsimp only
  repeat' first
    | with_reducible assumption
    | with_reducible apply wipeRas_evolves
    | simp only [evolves_update]
    | intro _
    | split
    | with_reducible refine Evolves.updateLcs ?_ rfl rfl rfl

theorem bootEngines_evolves {s0 : State} {s : State} {env : BootEnv} (h : Evolves s0 s) : Evolves s0 (bootEngines s env) := by
  unfold bootEngines
  repeat' first
    | with_reducible assumption
    | with_reducible apply State.modPort_evolves
    | simp only [evolves_update]
    | with_reducible apply Evolves.foldl
    | intro _
    | split

theorem bootBasins_evolves {s0 : State} {s : State} {env : BootEnv} (h : Evolves s0 s) : Evolves s0 (bootBasins s env) := by
  unfold bootBasins
  repeat' first
    | with_reducible assumption
    | simp only [evolves_update]

theorem coreReady_evolves {s0 : State} {s : State} (h : Evolves s0 s) : Evolves s0 (coreReady s) := by
  unfold coreReady
  repeat' first
    | with_reducible assumption
    | simp only [evolves_update]

theorem coreBoot_evolves {s0 : State} {s : State} {env : BootEnv} {top : Nat} (h : Evolves s0 s) : Evolves s0 (coreBoot s env top) := by
  unfold coreBoot
  dsimp only
  repeat' first
    | with_reducible assumption
    | with_reducible apply bootBasins_evolves
    | with_reducible apply bootEngines_evolves
    | with_reducible apply bootWipe_evolves
    | with_reducible apply coreReady_evolves
    | simp only [evolves_update]
    | intro _
    | split

theorem ramp_evolves {s0 : State} {s : State} {env : BootEnv} (h : Evolves s0 s) : Evolves s0 (ramp s env) := by
  unfold ramp
  dsimp only
  repeat' first
    | with_reducible assumption
    | with_reducible apply inputFault_evolves
    | with_reducible apply coreBoot_evolves
    | simp only [evolves_update]
    | intro _
    | split

theorem porstRelease_evolves {s0 : State} {s : State} {env : BootEnv} (h : Evolves s0 s) : Evolves s0 (porstRelease s env) := by
  unfold porstRelease
  dsimp only
  repeat' first
    | with_reducible assumption
    | with_reducible apply freshNonce_evolves
    | with_reducible apply boot_evolves
    | with_reducible apply ramp_evolves
    | simp only [evolves_update]
    | intro _
    | split
    | with_reducible refine Evolves.updateLcs ?_ rfl rfl rfl

theorem execPowerSample_evolves {s0 : State} {m : PowerMeas} {s : State} (h : Evolves s0 s) : Evolved s0 (execPowerSample m s) := by
  unfold execPowerSample
  dsimp only
  repeat' first
    | with_reducible assumption
    | with_reducible apply Evolved.next
    | exact Evolved.fault
    | with_reducible apply powerSample_evolves
    | with_reducible apply ramp_evolves
    | simp only [evolves_update]
    | split

theorem execPorstRelease_evolves {s0 : State} {env : BootEnv} {s : State} (h : Evolves s0 s) : Evolved s0 (execPorstRelease env s) := by
  unfold execPorstRelease
  repeat' first
    | with_reducible assumption
    | with_reducible apply Evolved.next
    | exact Evolved.fault
    | with_reducible apply porstRelease_evolves
    | split

theorem perstAssert_evolves {s0 : State} {s : State} (h : Evolves s0 s) : Evolves s0 (perstAssert s) := by
  unfold perstAssert
  dsimp only
  repeat' first
    | with_reducible assumption
    | with_reducible apply endMailbox_evolves
    | with_reducible apply coreReset_evolves
    | with_reducible apply recordCause_evolves
    | simp only [evolves_update]
    | intro _
    | split

theorem execPerstAssert_evolves {s0 : State} {s : State} (h : Evolves s0 s) : Evolved s0 (execPerstAssert s) := by
  unfold execPerstAssert
  repeat' first
    | with_reducible assumption
    | with_reducible apply Evolved.next
    | exact Evolved.fault
    | with_reducible apply perstAssert_evolves

theorem perstDeassert_evolves {s0 : State} {s : State} {env : BootEnv} (h : Evolves s0 s) : Evolves s0 (perstDeassert s env) := by
  unfold perstDeassert
  dsimp only
  repeat' first
    | with_reducible assumption
    | with_reducible apply coreReady_evolves
    | with_reducible apply coreBoot_evolves
    | simp only [evolves_update]
    | intro _
    | split

theorem execPerstDeassert_evolves {s0 : State} {env : BootEnv} {s : State} (h : Evolves s0 s) : Evolved s0 (execPerstDeassert env s) := by
  unfold execPerstDeassert
  repeat' first
    | with_reducible assumption
    | with_reducible apply Evolved.next
    | exact Evolved.fault
    | with_reducible apply perstDeassert_evolves

theorem execThermtrip_evolves {s0 : State} {s : State} (h : Evolves s0 s) : Evolved s0 (execThermtrip s) := by
  unfold execThermtrip
  dsimp only
  repeat' first
    | with_reducible assumption
    | with_reducible apply Evolved.next
    | exact Evolved.fault
    | with_reducible apply railsOff_evolves
    | simp only [evolves_update]
    | split

theorem execVcoreUndervoltage_evolves {s0 : State} {s : State} (h : Evolves s0 s) : Evolved s0 (execVcoreUndervoltage s) := by
  unfold execVcoreUndervoltage
  repeat' first
    | with_reducible assumption
    | with_reducible apply Evolved.next
    | exact Evolved.fault
    | with_reducible apply inputFault_evolves
    | split

theorem execInputFault_evolves {s0 : State} {s : State} (h : Evolves s0 s) : Evolved s0 (execInputFault s) := by
  unfold execInputFault
  repeat' first
    | with_reducible assumption
    | with_reducible apply Evolved.next
    | exact Evolved.fault
    | with_reducible apply inputFault_evolves

end Sys2Proof.Machine
end

