-- ==== Sys2Proof/Laws/EvolvesBoundary.lean ====
section
/-! SUPPORT. The operations of Machine/Boundary.lean evolve the state (Laws/Evolves.lean). -/
namespace Sys2Proof.Machine

theorem failTransfer_evolves {s0 : State} {s : State} {n : Fin 16} {r : Fin 8} {f : Flight} {addr : Nat} (h : Evolves s0 s) : Evolves s0 (failTransfer s n r f addr) := by
  unfold failTransfer
  dsimp only
  repeat' first
    | with_reducible assumption
    | with_reducible apply endFlight_evolves
    | with_reducible apply dmaFault_evolves
    | with_reducible apply scramble_evolves
    | with_reducible apply maybeClear_evolves
    | with_reducible apply noReadFlight_evolves
    | simp only [evolves_update]
    | intro _
    | split

theorem ringFault_evolves {s0 : State} {s : State} {n : Fin 16} {r : Fin 8} {why : Stop} {iova write : Nat} (h : Evolves s0 s) : Evolves s0 (ringFault s n r why iova write) := by
  unfold ringFault
  repeat' first
    | with_reducible assumption
    | with_reducible apply event_evolves
    | with_reducible apply State.modRing_evolves

theorem fetchFails_evolves {s0 : State} {s : State} {n : Fin 16} {r : Fin 8} (h : Evolves s0 s) : Evolves s0 (fetchFails s n r) := by
  unfold fetchFails
  dsimp only
  repeat' first
    | with_reducible assumption
    | with_reducible apply ringFault_evolves
    | intro _
    | split

theorem completionFails_evolves {s0 : State} {s : State} {n : Fin 16} {r : Fin 8} (h : Evolves s0 s) : Evolves s0 (completionFails s n r) := by
  unfold completionFails
  dsimp only
  repeat' first
    | with_reducible assumption
    | with_reducible apply ringFault_evolves
    | with_reducible apply hostWrite_evolves
    | with_reducible apply State.modRing_evolves
    | with_reducible apply settle_evolves
    | simp only [evolves_update]
    | intro _
    | split

theorem dataFails_evolves {s0 : State} {s : State} {n : Fin 16} {r : Fin 8} {seq addr : Nat} (h : Evolves s0 s) : Evolves s0 (dataFails s n r seq addr) := by
  unfold dataFails
  repeat' first
    | with_reducible assumption
    | with_reducible apply settle_evolves
    | with_reducible apply failTransfer_evolves
    | simp only [evolves_update]
    | intro _
    | split

theorem countDropped_evolves {s0 : State} {s : State} {n : Fin 16} (h : Evolves s0 s) : Evolves s0 (countDropped s n) := by
  unfold countDropped
  repeat' first
    | with_reducible assumption
    | with_reducible apply State.modFn_evolves

theorem eventFails_evolves {s0 : State} {s : State} {n : Fin 16} (h : Evolves s0 s) : Evolves s0 (eventFails s n) := by
  unfold eventFails
  repeat' first
    | with_reducible assumption
    | with_reducible apply countDropped_evolves
    | with_reducible apply hostWrite_evolves
    | with_reducible apply State.modFn_evolves
    | simp only
    | intro _
    | split

theorem messageFails_evolves {s0 : State} {s : State} {n : Fin 16} (h : Evolves s0 s) : Evolves s0 (messageFails s n) := by
  unfold messageFails
  repeat' first
    | with_reducible assumption
    | with_reducible apply countDropped_evolves
    | intro _
    | split

theorem localStoreFails_evolves {s0 : State} {s : State} {n : Fin 16} (h : Evolves s0 s) : Evolves s0 (localStoreFails s n) := by
  unfold localStoreFails
  dsimp only
  repeat' first
    | with_reducible assumption
    | with_reducible apply modStep_evolves
    | with_reducible apply State.modPart_evolves
    | with_reducible apply settle_evolves
    | with_reducible apply tryOpen_evolves
    | with_reducible apply failStep_evolves
    | with_reducible apply lstoreFault_evolves
    | simp only [evolves_update]
    | intro _
    | split

theorem hostedStoreFails_evolves {s0 : State} {s : State} {n : Fin 16} (h : Evolves s0 s) : Evolves s0 (hostedStoreFails s n) := by
  unfold hostedStoreFails
  repeat' first
    | with_reducible assumption
    | with_reducible apply rasLog_evolves
    | with_reducible apply modHosted_evolves
    | simp only [evolves_update]
    | intro _
    | split

theorem execHostRequestFailure_evolves {s0 : State} {k : HostFailure} {s : State} (h : Evolves s0 s) : Evolved s0 (execHostRequestFailure k s) := by
  unfold execHostRequestFailure
  repeat' first
    | with_reducible assumption
    | with_reducible apply Evolved.next
    | exact Evolved.fault
    | with_reducible apply fetchFails_evolves
    | with_reducible apply completionFails_evolves
    | with_reducible apply dataFails_evolves
    | with_reducible apply hostedStoreFails_evolves
    | with_reducible apply localStoreFails_evolves
    | with_reducible apply messageFails_evolves
    | with_reducible apply event_evolves
    | with_reducible apply eventFails_evolves
    | simp only [evolves_update]
    | split

theorem configRequest_evolves {s0 : State} {s : State} {serve : State → State} (hs : ∀ t, Evolves s0 t → Evolves s0 (serve t)) (h : Evolves s0 s) :
    Evolves s0 (configRequest s serve) := by
  unfold configRequest
  dsimp only [State.draw]
  repeat' first
    | with_reducible assumption
    | with_reducible apply hs
    | with_reducible apply coreReady_evolves
    | simp only [evolves_update]
    | intro _
    | split

theorem configRead_evolves {s0 : State} {s : State} {n : Fin 16} {reg : ConfigReg} (h : Evolves s0 s) : Evolves s0 (configRead s n reg) := by
  unfold configRead
  refine configRequest_evolves (fun t ht => ?_) h
  repeat' first
    | with_reducible assumption
    | simp only [evolves_update]
    | split

theorem configWrite_evolves {s0 : State} {s : State} {n : Fin 16} {reg : ConfigReg} {v : BitVec 64} (h : Evolves s0 s) : Evolves s0 (configWrite s n reg v) := by
  unfold configWrite
  refine configRequest_evolves (fun t ht => ?_) h
  repeat' first
    | with_reducible assumption
    | with_reducible apply State.modFn_evolves
    | split

theorem execHostConfigRequest_evolves {s0 : State} {s : State} (h : Evolves s0 s) : Evolved s0 (execHostConfigRequest s) :=
  Evolved.next (configRequest_evolves (fun _ ht => ht) h)

theorem windowWrite_evolves {s0 s : State} {a : Nat} {bs : List Byte} (h : Evolves s0 s) : Evolves s0 (windowWrite s a bs) := by
  induction bs generalizing s a with
  | nil => exact h
  | cons b bs ih => exact ih (h.trans (Evolves.memory rfl id (Sparse.put_wf _ _) id id rfl rfl rfl))

theorem transomTransaction_evolves {s0 : State} {s : State} {t : Transaction} (h : Evolves s0 s) : Evolves s0 (transomTransaction s t) := by
  unfold transomTransaction
  dsimp only
  repeat' first
    | with_reducible assumption
    | with_reducible apply windowWrite_evolves
    | simp only [evolves_update]
    | intro _
    | split

theorem execTransomTransaction_evolves {s0 : State} {t : Transaction} {s : State} (h : Evolves s0 s) : Evolved s0 (execTransomTransaction t s) := by
  unfold execTransomTransaction
  repeat' first
    | with_reducible assumption
    | with_reducible apply Evolved.next
    | exact Evolved.fault
    | with_reducible apply transomTransaction_evolves

theorem moduleTrains_evolves {s0 : State} {s : State} {m : Fin 16} (h : Evolves s0 s) : Evolves s0 (moduleTrains s m) := by
  unfold moduleTrains
  repeat' first
    | with_reducible assumption
    | simp only [evolves_update]
    | intro _
    | split

theorem execTransomRetrain_evolves {s0 : State} {module : Fin 16} {answered : Bool} {s : State} (h : Evolves s0 s) : Evolved s0 (execTransomRetrain module answered s) := by
  unfold execTransomRetrain
  repeat' first
    | with_reducible assumption
    | with_reducible apply Evolved.next
    | exact Evolved.fault
    | with_reducible apply moduleTrains_evolves
    | split

theorem execTransomModuleTrained_evolves {s0 : State} {module : Fin 16} {s : State} (h : Evolves s0 s) : Evolved s0 (execTransomModuleTrained module s) := by
  unfold execTransomModuleTrained
  repeat' first
    | with_reducible assumption
    | with_reducible apply Evolved.next
    | exact Evolved.fault
    | with_reducible apply moduleTrains_evolves

theorem noteStall_evolves {s0 : State} {s : State} {x : Crossing} (h : Evolves s0 s) : Evolves s0 (noteStall s x) := by
  unfold noteStall
  repeat' first
    | with_reducible assumption
    | simp only [evolves_update]
    | intro _
    | split

theorem stallEvent_evolves {s0 : State} {s : State} {x : Crossing} (h : Evolves s0 s) : Evolves s0 (stallEvent s x) := by
  unfold stallEvent
  dsimp only
  repeat' first
    | with_reducible assumption
    | with_reducible apply event_evolves

theorem failTransom_evolves {s0 : State} {s : State} (h : Evolves s0 s) : Evolves s0 (failTransom s) := by
  unfold failTransom
  repeat' first
    | with_reducible assumption
    | with_reducible apply settle_evolves
    | with_reducible apply failTransfer_evolves
    | simp only [evolves_update]
    | with_reducible apply Evolves.foldl
    | intro _
    | split

theorem stallResult_evolves {s0 s : State} {x : Crossing} (h : Evolves s0 s) : Evolves s0 (stallResult s x) := by
  cases x <;> unfold stallResult <;> dsimp only
  · exact goDown_evolves h
  · exact goDown_evolves h
  · exact failTransom_evolves (evolves_update.2 h)
  · exact settleGates_evolves (linkLost_evolves h)
  · exact evolves_update.2 h
  · exact h
  · exact h

theorem cdcStall_evolves {s0 : State} {s : State} {x : Crossing} (h : Evolves s0 s) : Evolves s0 (cdcStall s x) := by
  unfold cdcStall
  dsimp only
  repeat' first
    | with_reducible assumption
    | with_reducible apply noteStall_evolves
    | with_reducible apply stallEvent_evolves
    | with_reducible apply stallResult_evolves
    | simp only [evolves_update]
    | intro _
    | split

theorem execCdcStall_evolves {s0 : State} {x : Crossing} {s : State} (h : Evolves s0 s) : Evolved s0 (execCdcStall x s) := by
  unfold execCdcStall
  repeat' first
    | with_reducible assumption
    | with_reducible apply Evolved.next
    | exact Evolved.fault
    | with_reducible apply cdcStall_evolves

theorem execCrossingRelease_evolves {s0 : State} {x : Crossing} {s : State} (h : Evolves s0 s) : Evolved s0 (execCrossingRelease x s) := by
  unfold execCrossingRelease
  repeat' first
    | with_reducible assumption
    | with_reducible apply Evolved.next
    | exact Evolved.fault
    | simp only [evolves_update]

theorem crossingDrained_evolves {s0 : State} {s : State} {x : Crossing} (h : Evolves s0 s) : Evolves s0 (crossingDrained s x) := by
  unfold crossingDrained
  repeat' first
    | with_reducible assumption
    | simp only [evolves_update]
    | intro _
    | split

theorem execCrossingDrained_evolves {s0 : State} {x : Crossing} {s : State} (h : Evolves s0 s) : Evolved s0 (execCrossingDrained x s) := by
  unfold execCrossingDrained
  repeat' first
    | with_reducible assumption
    | with_reducible apply Evolved.next
    | exact Evolved.fault
    | with_reducible apply crossingDrained_evolves

theorem haltInChange_evolves {s0 : State} {s : State} {level : Bool} {coalesced : Nat} (h : Evolves s0 s) : Evolves s0 (haltInChange s level coalesced) := by
  unfold haltInChange
  dsimp only
  repeat' first
    | with_reducible assumption
    | with_reducible apply settleGates_evolves
    | simp only [evolves_update]
    | intro _
    | split

theorem execHaltInChange_evolves {s0 : State} {level : Bool} {coalesced : Nat} {s : State} (h : Evolves s0 s) : Evolved s0 (execHaltInChange level coalesced s) := by
  unfold execHaltInChange
  repeat' first
    | with_reducible assumption
    | with_reducible apply Evolved.next
    | exact Evolved.fault
    | with_reducible apply haltInChange_evolves

theorem execTapReset_evolves {s0 : State} {s : State} (h : Evolves s0 s) : Evolved s0 (execTapReset s) := by
  unfold execTapReset
  repeat' first
    | with_reducible assumption
    | with_reducible apply Evolved.next
    | exact Evolved.fault
    | simp only [evolves_update]

end Sys2Proof.Machine
end

