-- ==== Sys2Proof/Laws/EvolvesHostRegs.lean ====
section
/-! SUPPORT. The operations of Machine/HostRegs.lean evolve the state (Laws/Evolves.lean). -/
namespace Sys2Proof.Machine

theorem bar2Error_evolves {s0 : State} {s : State} {n : Fin 16} {code off value : Nat} (h : Evolves s0 s) : Evolves s0 (bar2Error s n code off value) := by
  unfold bar2Error
  repeat' first
    | with_reducible assumption
    | with_reducible apply State.modFn_evolves

theorem writeCtl_evolves {s0 : State} {s : State} {n : Fin 16} {r : Fin 8} {off : Nat} {v : Word} (h : Evolves s0 s) : Evolves s0 (writeCtl s n r off v) := by
  unfold writeCtl
  dsimp only
  repeat' first
    | with_reducible assumption
    | with_reducible apply bar2Error_evolves
    | with_reducible apply State.setRing_evolves
    | simp only [evolves_update]
    | intro _
    | split

theorem writeCmd_evolves {s0 : State} {s : State} {n : Fin 16} {r : Fin 8} {off : Nat} {v : Word} (h : Evolves s0 s) : Evolves s0 (writeCmd s n r off v) := by
  unfold writeCmd
  repeat' first
    | with_reducible assumption
    | with_reducible apply bar2Error_evolves
    | with_reducible apply settle_evolves
    | with_reducible apply State.modRing_evolves
    | simp only [evolves_update]
    | intro _
    | split

theorem writeRing_evolves {s0 : State} {s : State} {n : Fin 16} {r : Fin 8} {o off : Nat} {v : Word} (h : Evolves s0 s) : Evolves s0 (writeRing s n r o off v) := by
  unfold writeRing
  dsimp only
  repeat' first
    | with_reducible assumption
    | with_reducible apply bar2Error_evolves
    | with_reducible apply State.setRing_evolves
    | with_reducible apply writeCtl_evolves
    | with_reducible apply writeCmd_evolves
    | simp only [evolves_update]
    | intro _
    | split

theorem writeDoorbell_evolves {s0 : State} {s : State} {n : Fin 16} {r : Fin 8} {off : Nat} {v : Word} (h : Evolves s0 s) : Evolves s0 (writeDoorbell s n r off v) := by
  unfold writeDoorbell
  repeat' first
    | with_reducible assumption
    | with_reducible apply State.count_evolves
    | with_reducible apply bar2Error_evolves
    | with_reducible apply State.modRing_evolves
    | simp only [evolves_update]
    | intro _
    | split

theorem writeEvtCtl_evolves {s0 : State} {s : State} {n : Fin 16} {v : Word} (h : Evolves s0 s) : Evolves s0 (writeEvtCtl s n v) := by
  unfold writeEvtCtl
  dsimp only
  repeat' first
    | with_reducible assumption
    | with_reducible apply bar2Error_evolves
    | with_reducible apply State.modFn_evolves
    | simp only [evolves_update]
    | intro _
    | split

theorem writeEvtHead_evolves {s0 : State} {s : State} {n : Fin 16} {v : Word} (h : Evolves s0 s) : Evolves s0 (writeEvtHead s n v) := by
  unfold writeEvtHead
  dsimp only
  repeat' first
    | with_reducible assumption
    | with_reducible apply bar2Error_evolves
    | with_reducible apply State.modFn_evolves
    | with_reducible apply eventIrq_evolves
    | simp only [evolves_update]
    | intro _
    | split

theorem writeEvt_evolves {s0 : State} {s : State} {n : Fin 16} {o : Nat} {v : Word} (h : Evolves s0 s) : Evolves s0 (writeEvt s n o v) := by
  unfold writeEvt
  dsimp only
  repeat' first
    | with_reducible assumption
    | with_reducible apply bar2Error_evolves
    | with_reducible apply State.modFn_evolves
    | with_reducible apply writeEvtCtl_evolves
    | with_reducible apply writeEvtHead_evolves
    | simp only [evolves_update]
    | intro _
    | split

theorem writeMsix_evolves {s0 : State} {s : State} {n : Fin 16} {i : Nat} {v : Word} (h : Evolves s0 s) : Evolves s0 (writeMsix s n i v) := by
  unfold writeMsix
  dsimp only
  repeat' first
    | with_reducible assumption
    | with_reducible apply State.setFn_evolves
    | with_reducible apply sendVector_evolves
    | with_reducible apply State.modFn_evolves
    | simp only [evolves_update]
    | intro _
    | split

theorem write32_evolves {s0 : State} {s : State} {n : Fin 16} {off : Nat} {v : Word} (h : Evolves s0 s) : Evolves s0 (write32 s n off v) := by
  unfold write32
  repeat' first
    | with_reducible assumption
    | with_reducible apply bar2Error_evolves
    | with_reducible apply writeDoorbell_evolves
    | with_reducible apply settleGates_evolves
    | with_reducible apply functionReset_evolves
    | with_reducible apply writeRing_evolves
    | with_reducible apply writeEvt_evolves
    | with_reducible apply writeMsix_evolves
    | simp only [evolves_update]
    | intro _
    | split

theorem bar2Write_evolves {s0 : State} {s : State} {n : Fin 16} {off size : Nat} {value : BitVec 64} (h : Evolves s0 s) : Evolves s0 (bar2Write s n off size value) := by
  unfold bar2Write
  dsimp only
  repeat' first
    | with_reducible assumption
    | with_reducible apply write32_evolves
    | with_reducible apply bar2Error_evolves
    | intro _
    | split

theorem bar2Clear_evolves {s0 : State} {s : State} {n : Fin 16} {off : Nat} (h : Evolves s0 s) : Evolves s0 (bar2Clear s n off) := by
  unfold bar2Clear
  repeat' first
    | with_reducible assumption
    | with_reducible apply State.modFn_evolves
    | simp only
    | intro _
    | split

theorem bar2Read_evolves {s0 : State} {s : State} {n : Fin 16} {off size : Nat} (h : Evolves s0 s) : Evolves s0 (bar2Read s n off size) := by
  unfold bar2Read
  dsimp only
  repeat' first
    | with_reducible assumption
    | with_reducible apply readData_evolves
    | with_reducible apply bar2Clear_evolves
    | simp only [evolves_update]
    | intro _
    | split

theorem execDoorbell_evolves {s0 : State} {fn : Fin 16} {ring : Fin 8} {pageOff size : Nat} {value : Word} {s : State} (h : Evolves s0 s) : Evolved s0 (execDoorbell fn ring pageOff size value s) := by
  unfold execDoorbell
  repeat' first
    | with_reducible assumption
    | with_reducible apply Evolved.next
    | exact Evolved.fault
    | with_reducible apply bar2Write_evolves

theorem execRingEnable_evolves {s0 : State} {fn : Fin 16} {ring : Fin 8} {value : Word} {s : State} (h : Evolves s0 s) : Evolved s0 (execRingEnable fn ring value s) := by
  unfold execRingEnable
  repeat' first
    | with_reducible assumption
    | with_reducible apply Evolved.next
    | exact Evolved.fault
    | with_reducible apply bar2Write_evolves

theorem execResume_evolves {s0 : State} {fn : Fin 16} {ring : Fin 8} {value : Word} {s : State} (h : Evolves s0 s) : Evolved s0 (execResume fn ring value s) := by
  unfold execResume
  repeat' first
    | with_reducible assumption
    | with_reducible apply Evolved.next
    | exact Evolved.fault
    | with_reducible apply bar2Write_evolves

theorem execEvtRingEnable_evolves {s0 : State} {fn : Fin 16} {value : Word} {s : State} (h : Evolves s0 s) : Evolved s0 (execEvtRingEnable fn value s) := by
  unfold execEvtRingEnable
  repeat' first
    | with_reducible assumption
    | with_reducible apply Evolved.next
    | exact Evolved.fault
    | with_reducible apply bar2Write_evolves

theorem execEvtHeadWrite_evolves {s0 : State} {fn : Fin 16} {value : Word} {s : State} (h : Evolves s0 s) : Evolved s0 (execEvtHeadWrite fn value s) := by
  unfold execEvtHeadWrite
  repeat' first
    | with_reducible assumption
    | with_reducible apply Evolved.next
    | exact Evolved.fault
    | with_reducible apply bar2Write_evolves

theorem execMsixUnmask_evolves {s0 : State} {fn : Fin 16} {vector : Fin 128} {s : State} (h : Evolves s0 s) : Evolved s0 (execMsixUnmask fn vector s) := by
  unfold execMsixUnmask
  repeat' first
    | with_reducible assumption
    | with_reducible apply Evolved.next
    | exact Evolved.fault
    | with_reducible apply bar2Write_evolves

theorem irqModerationTimer_evolves {s0 : State} {s : State} {n : Fin 16} {r : Fin 8} (h : Evolves s0 s) : Evolves s0 (irqModerationTimer s n r) := by
  unfold irqModerationTimer
  dsimp only
  repeat' first
    | with_reducible assumption
    | with_reducible apply sendVector_evolves
    | with_reducible apply State.modRing_evolves
    | simp only [evolves_update]
    | intro _
    | split

theorem execIrqModerationTimer_evolves {s0 : State} {fn : Fin 16} {ring : Fin 8} {s : State} (h : Evolves s0 s) : Evolved s0 (execIrqModerationTimer fn ring s) := by
  unfold execIrqModerationTimer
  repeat' first
    | with_reducible assumption
    | with_reducible apply Evolved.next
    | exact Evolved.fault
    | with_reducible apply irqModerationTimer_evolves

end Sys2Proof.Machine
end

