-- ==== Sys2Proof/Laws/EvolvesMailbox.lean ====
section
/-! SUPPORT. The operations of Machine/Mailbox.lean evolve the state (Laws/Evolves.lean). -/
namespace Sys2Proof.Machine

theorem served_evolves {s0 : State} {s : State} {src : Src} {k : State → State} (h : Evolves s0 s) (hk : ∀ t, Evolves s0 t → Evolves s0 (k t)) : Evolves s0 (served s src k) := by
  unfold served
  dsimp only
  repeat' first
    | with_reducible assumption
    | simp only [evolves_update]
    | with_reducible apply hk
    | intro _
    | split

theorem mbxError_evolves {s0 : State} {s : State} {src : Src} {code off : Nat} (h : Evolves s0 s) : Evolves s0 (mbxError s src code off) := by
  unfold mbxError
  repeat' first
    | with_reducible assumption
    | simp only [evolves_update]

theorem mbxGive_evolves {s0 : State} {s : State} {ws : List Word} (h : Evolves s0 s) : Evolves s0 (mbxGive s ws) := by
  unfold mbxGive
  repeat' first
    | with_reducible assumption
    | simp only [evolves_update]

theorem mbxTake_evolves {s0 : State} {s : State} {k : Nat} (h : Evolves s0 s) : Evolves s0 (mbxTake s k) := by
  unfold mbxTake
  repeat' first
    | with_reducible assumption
    | simp only [evolves_update]

theorem openWords_evolves {s0 s : State} {k : Nat} (h : Evolves s0 s) : Evolves s0 (openWords k s).2 := by
  induction k generalizing s with
  | zero => exact h
  | succ k ih => exact ih (State.draw_evolves h)

theorem setBank_fuses (l : Lcs) (b : Bool) (ws : List Word) :
    (setBank l b ws).serial = l.serial ∧ (setBank l b ws).svnMin = l.svnMin ∧ (setBank l b ws).state = l.state := by
  cases b <;> exact ⟨rfl, rfl, rfl⟩

theorem runSnapInfo_evolves {s0 : State} {s : State} (h : Evolves s0 s) : Evolves s0 (runSnapInfo s) := by
  unfold runSnapInfo
  dsimp only
  repeat' first
    | with_reducible assumption
    | with_reducible apply mbxGive_evolves
    | with_reducible apply mbxEnd_evolves
    | intro _
    | split

theorem runSnapRead_evolves {s0 : State} {s : State} (h : Evolves s0 s) : Evolves s0 (runSnapRead s) := by
  unfold runSnapRead
  dsimp only
  repeat' first
    | with_reducible assumption
    | with_reducible apply mbxGive_evolves
    | with_reducible apply State.modSlots_evolves
    | with_reducible apply mbxEnd_evolves
    | simp only [evolves_update]
    | intro _
    | split

theorem runSnapRequest_evolves {s0 : State} {s : State} (h : Evolves s0 s) : Evolves s0 (runSnapRequest s) := by
  unfold runSnapRequest
  dsimp only
  repeat' first
    | with_reducible assumption
    | with_reducible apply mbxEnd_evolves
    | with_reducible apply gateIfIdle_evolves
    | with_reducible apply State.modPart_evolves
    | simp only [evolves_update]
    | intro _
    | split

theorem runAgeLog_evolves {s0 : State} {s : State} (h : Evolves s0 s) : Evolves s0 (runAgeLog s) := by
  unfold runAgeLog
  repeat' first
    | with_reducible assumption
    | with_reducible apply mbxGive_evolves

theorem runFaultRecord_evolves {s0 : State} {s : State} (h : Evolves s0 s) : Evolves s0 (runFaultRecord s) := by
  unfold runFaultRecord
  dsimp only
  repeat' first
    | with_reducible assumption
    | with_reducible apply openWords_evolves
    | with_reducible apply mbxGive_evolves

theorem runFwUpdate_evolves {s0 s : State} (h : Evolves s0 s) : Evolves s0 (runFwUpdate s) := by
  obtain ⟨h1, h2, h3⟩ := setBank_fuses s.lcs (!s.lcs.active) []
  unfold runFwUpdate
  dsimp only
  split
  · exact mbxEnd_evolves h
  · exact mbxTake_evolves (h.updateLcs h1 h2 h3)

theorem finishFwUpdate_evolves {s0 s : State} (h : Evolves s0 s) : Evolves s0 (finishFwUpdate s) := by
  obtain ⟨h1, h2, h3⟩ := setBank_fuses s.lcs (!s.lcs.active) s.mbx.buf
  unfold finishFwUpdate
  split
  · exact mbxEnd_evolves (h.updateLcs h1 h2 h3)
  · exact mbxEnd_evolves h

theorem runFwActivate_evolves {s0 s : State} (h : Evolves s0 s) : Evolves s0 (runFwActivate s) := by
  have raise : ∀ b k, Evolves s0 { s with lcs := noteOther { s.lcs with active := b, svnMin := max s.lcs.svnMin k } } := fun b k =>
    h.trans ⟨fun x => sound_congr x rfl rfl rfl rfl rfl rfl, rfl, rfl, Nat.le_max_left _ _, rfl⟩
  unfold runFwActivate
  dsimp only
  split
  · exact mbxEnd_evolves h
  · split
    · exact mbxEnd_evolves h
    · split
      · exact restart_evolves (mbxEnd_evolves (raise _ _))
      · exact mbxEnd_evolves (raise _ _)

theorem regKind_lnkCtl : ∀ q : Fin 24, regKind (0x30000 + 0x800 * q.val) = .staged (.sluice q.val) (fieldsLnk 0) := by decide

/-- Clearing ENABLE keeps a sluice's control register legal. -/
theorem legalReg_disable (q : Fin 24) (w : Word) (h : legalReg (0x30000 + 0x800 * q.val) w = true) :
    legalReg (0x30000 + 0x800 * q.val) (w &&& 0xFFFFFFFE) = true := by
  have h3 : (w &&& 0xFFFFFFFE).toNat >>> 3 % 2 ^ 2 = w.toNat >>> 3 % 2 ^ 2 := by
    rw [BitVec.toNat_and, Nat.shiftRight_and_distrib, show (0xFFFFFFFE : Word).toNat >>> 3 = 2 ^ 29 - 1 from rfl,
      Nat.and_two_pow_sub_one_eq_mod]
    omega
  have h5 : (w &&& 0xFFFFFFFE).toNat >>> 5 % 2 ^ 27 = w.toNat >>> 5 % 2 ^ 27 := by
    rw [BitVec.toNat_and, Nat.shiftRight_and_distrib, show (0xFFFFFFFE : Word).toNat >>> 5 = 2 ^ 27 - 1 from rfl,
      Nat.and_two_pow_sub_one_eq_mod]
    omega
  unfold legalReg at *
  rw [regKind_lnkCtl q] at *
  simp only [fieldsLnk, List.all_cons, List.all_nil, fPlain, fResv, legalField, Field.get, h3, h5] at *
  exact h

theorem darken_evolves {s0 s : State} {q : Fin 24} (h : Evolves s0 s) : Evolves s0 (darken s q) := by
  have off : ∀ m, legalMap m = true → legalMap (regPut m (0x30000 + 0x800 * q.val) (regGet m (0x30000 + 0x800 * q.val) &&& 0xFFFFFFFE)) = true :=
    fun m hm => legalMap_put hm (legalReg_disable q _ (legalReg_get hm _))
  exact (portEnable_evolves h).trans (Evolves.config rfl rfl rfl rfl rfl rfl id (fun a b => ⟨off _ a, off _ b⟩) rfl)

/-- From `s` to `t` the machine has done what every operation may do, or the life cycle has made one transition of R463. -/
structure Advances (s t : State) : Prop where
  sound : Sound s → Sound t
  queue : t.pending = s.pending
  serial : t.lcs.serial = s.lcs.serial
  svn : s.lcs.svnMin ≤ t.lcs.svnMin
  life : t.lcs.state = s.lcs.state ∨ (s.lcs.state, t.lcs.state) ∈ lifeCyclePairs

theorem Evolves.advances {s t : State} (h : Evolves s t) : Advances s t := ⟨h.sound, h.queue, h.serial, h.svn, .inl h.life⟩

theorem Advances.evolve {a b c : State} (h : Advances a b) (g : Evolves b c) : Advances a c :=
  ⟨g.sound ∘ h.sound, g.queue.trans h.queue, g.serial.trans h.serial, Nat.le_trans h.svn g.svn, g.life ▸ h.life⟩

theorem Evolves.advance {a b c : State} (h : Evolves a b) (g : Advances b c) : Advances a c :=
  ⟨g.sound ∘ h.sound, g.queue.trans h.queue, g.serial.trans h.serial, Nat.le_trans h.svn g.svn, h.life ▸ g.life⟩

/-- Every next state that a command may answer has advanced. -/
def Advanced (s0 : State) (r : Result) : Prop := ∀ t, r = .next t → Advances s0 t

theorem Advanced.next {s0 t : State} (h : Advances s0 t) : Advanced s0 (.next t) := by
  intro u hu; cases hu; exact h

theorem Evolved.advanced {s0 : State} {r : Result} (h : Evolved s0 r) : Advanced s0 r := fun t ht => (h t ht).advances

theorem tokenFuses_fuses (l : Lcs) (bs : List Byte) : (tokenFuses l bs).serial = l.serial ∧ (tokenFuses l bs).svnMin = l.svnMin ∧
    (tokenFuses l bs).state = tokenByte bs 2 := by
  unfold tokenFuses
  dsimp only
  split <;> split <;> exact ⟨rfl, rfl, rfl⟩

/-- A token that is accepted names a transition of R463 from the present state. -/
theorem tokenVerdict_ok {l : Lcs} {bs : List Byte} (h : tokenVerdict l bs = 0) : (l.state, tokenByte bs 2) ∈ lifeCyclePairs := by
  unfold tokenVerdict at h
  dsimp only at h
  split at h
  · cases h
  · rename_i hf
    split at h
    · cases h
    · rename_i t ht
      have hp := List.find?_some ht
      have hm := List.mem_of_find?_eq_some ht
      simp only [Bool.and_eq_true, beq_iff_eq] at hp
      rw [Decidable.not_not] at hf
      rw [← hf, ← hp.1, ← hp.2]
      simp only [transitions, List.mem_cons, List.not_mem_nil, or_false] at hm
      rcases hm with rfl | rfl | rfl | rfl | rfl | rfl <;> decide

theorem acceptToken_advances {s : State} {bs : List Byte} (h : (s.lcs.state, tokenByte bs 2) ∈ lifeCyclePairs) : Advances s (acceptToken s bs) := by
  obtain ⟨h1, h2, h3⟩ := tokenFuses_fuses s.lcs bs
  unfold acceptToken
  have h0 : Advances s { s with
      lcs := { tokenFuses s.lcs bs with tokenBusy := true, tokenMiss := [] },
      mbx := { s.mbx with st := .busy, words := 0, buf := [] } } :=
    ⟨fun x => sound_congr x rfl rfl rfl rfl rfl rfl, rfl, h1, Nat.le_of_eq h2.symm, .inr (by dsimp only; rw [h3]; exact h)⟩
  refine Advances.evolve h0 (tokenDone_evolves (settleGates_evolves (Evolves.foldl ?_ fun _ _ => darken_evolves)))
  split
  · exact Evolves.foldl (Evolves.refl _) fun _ _ => functionReset_evolves
  · exact Evolves.refl _

theorem finishToken_advances {s : State} : Advances s (finishToken s) := by
  have h : Evolves s (freshNonce s) := freshNonce_evolves (Evolves.refl s)
  unfold finishToken
  dsimp only
  split
  · rename_i hv
    exact h.advance (acceptToken_advances (h.life ▸ tokenVerdict_ok (l := s.lcs) hv))
  · exact (mbxEnd_evolves h).advances

theorem startCommand_evolves {s0 : State} {s : State} (h : Evolves s0 s) : Evolves s0 (startCommand s) := by
  unfold startCommand
  repeat' first
    | with_reducible assumption
    | with_reducible apply mbxEnd_evolves
    | with_reducible apply runSnapInfo_evolves
    | with_reducible apply runSnapRead_evolves
    | with_reducible apply runSnapRequest_evolves
    | with_reducible apply runAgeLog_evolves
    | with_reducible apply runFaultRecord_evolves
    | with_reducible apply runFwUpdate_evolves
    | with_reducible apply runFwActivate_evolves
    | with_reducible apply mbxTake_evolves
    | simp only [evolves_update]
    | intro _
    | split

theorem abortCommand_evolves {s0 : State} {s : State} (h : Evolves s0 s) : Evolves s0 (abortCommand s) := by
  unfold abortCommand
  dsimp only
  repeat' first
    | with_reducible assumption
    | with_reducible apply State.modPart_evolves
    | with_reducible apply mbxEnd_evolves
    | simp only [evolves_update]
    | intro _
    | split

theorem writeCommand_evolves {s0 : State} {s : State} {src : Src} {v : Word} (h : Evolves s0 s) : Evolves s0 (writeCommand s src v) := by
  unfold writeCommand
  dsimp only
  repeat' first
    | with_reducible assumption
    | with_reducible apply mbxError_evolves
    | with_reducible apply abortCommand_evolves
    | with_reducible apply startCommand_evolves
    | simp only [evolves_update]
    | intro _
    | split

theorem execMbxNop_evolves {s0 : State} {src : Src} {cmd : Word} {s : State} (h : Evolves s0 s) : Evolved s0 (execMbxNop src cmd s) := by
  unfold execMbxNop
  repeat' first
    | with_reducible assumption
    | with_reducible apply Evolved.next
    | exact Evolved.fault
    | with_reducible apply served_evolves
    | with_reducible apply writeCommand_evolves
    | intro _

theorem execMbxAbort_evolves {s0 : State} {src : Src} {cmd : Word} {s : State} (h : Evolves s0 s) : Evolved s0 (execMbxAbort src cmd s) := by
  unfold execMbxAbort
  repeat' first
    | with_reducible assumption
    | with_reducible apply Evolved.next
    | exact Evolved.fault
    | with_reducible apply served_evolves
    | with_reducible apply writeCommand_evolves
    | intro _

theorem execSnapInfo_evolves {s0 : State} {src : Src} {cmd : Word} {s : State} (h : Evolves s0 s) : Evolved s0 (execSnapInfo src cmd s) := by
  unfold execSnapInfo
  repeat' first
    | with_reducible assumption
    | with_reducible apply Evolved.next
    | exact Evolved.fault
    | with_reducible apply served_evolves
    | with_reducible apply writeCommand_evolves
    | intro _

theorem execSnapRead_evolves {s0 : State} {src : Src} {cmd : Word} {s : State} (h : Evolves s0 s) : Evolved s0 (execSnapRead src cmd s) := by
  unfold execSnapRead
  repeat' first
    | with_reducible assumption
    | with_reducible apply Evolved.next
    | exact Evolved.fault
    | with_reducible apply served_evolves
    | with_reducible apply writeCommand_evolves
    | intro _

theorem execSnapRequest_evolves {s0 : State} {src : Src} {cmd : Word} {s : State} (h : Evolves s0 s) : Evolved s0 (execSnapRequest src cmd s) := by
  unfold execSnapRequest
  repeat' first
    | with_reducible assumption
    | with_reducible apply Evolved.next
    | exact Evolved.fault
    | with_reducible apply served_evolves
    | with_reducible apply writeCommand_evolves
    | intro _

theorem execAgeLog_evolves {s0 : State} {src : Src} {cmd : Word} {s : State} (h : Evolves s0 s) : Evolved s0 (execAgeLog src cmd s) := by
  unfold execAgeLog
  repeat' first
    | with_reducible assumption
    | with_reducible apply Evolved.next
    | exact Evolved.fault
    | with_reducible apply served_evolves
    | with_reducible apply writeCommand_evolves
    | intro _

theorem execFaultRecord_evolves {s0 : State} {src : Src} {cmd : Word} {s : State} (h : Evolves s0 s) : Evolved s0 (execFaultRecord src cmd s) := by
  unfold execFaultRecord
  repeat' first
    | with_reducible assumption
    | with_reducible apply Evolved.next
    | exact Evolved.fault
    | with_reducible apply served_evolves
    | with_reducible apply writeCommand_evolves
    | intro _

theorem execFwUpdate_evolves {s0 : State} {src : Src} {cmd : Word} {s : State} (h : Evolves s0 s) : Evolved s0 (execFwUpdate src cmd s) := by
  unfold execFwUpdate
  repeat' first
    | with_reducible assumption
    | with_reducible apply Evolved.next
    | exact Evolved.fault
    | with_reducible apply served_evolves
    | with_reducible apply writeCommand_evolves
    | intro _

theorem execFwActivate_evolves {s0 : State} {src : Src} {cmd : Word} {s : State} (h : Evolves s0 s) : Evolved s0 (execFwActivate src cmd s) := by
  unfold execFwActivate
  repeat' first
    | with_reducible assumption
    | with_reducible apply Evolved.next
    | exact Evolved.fault
    | with_reducible apply served_evolves
    | with_reducible apply writeCommand_evolves
    | intro _

theorem execLcsToken_evolves {s0 : State} {src : Src} {cmd : Word} {s : State} (h : Evolves s0 s) : Evolved s0 (execLcsToken src cmd s) := by
  unfold execLcsToken
  repeat' first
    | with_reducible assumption
    | with_reducible apply Evolved.next
    | exact Evolved.fault
    | with_reducible apply served_evolves
    | with_reducible apply writeCommand_evolves
    | intro _

theorem appendWord_advances {s : State} {v : Word} : Advances s (appendWord s v) := by
  unfold appendWord
  extract_lets total _ s1
  have h : Evolves s s1 := evolves_update.2 (Evolves.refl s)
  split
  · exact h.advances
  · split
    · exact h.advance finishToken_advances
    · exact (finishFwUpdate_evolves h).advances

theorem writeData_advances {s : State} {src : Src} {v : Word} : Advances s (writeData s src v) := by
  unfold writeData
  split
  · exact (mbxError_evolves (Evolves.refl s)).advances
  · split
    · exact appendWord_advances
    · exact (mbxError_evolves (Evolves.refl s)).advances

theorem readData_evolves {s0 : State} {s : State} (h : Evolves s0 s) : Evolves s0 (readData s) := by
  unfold readData
  dsimp only
  repeat' first
    | with_reducible assumption
    | with_reducible apply mbxEnd_evolves
    | simp only [evolves_update]
    | intro _
    | split

theorem served_advances {s : State} {src : Src} {k : State → State} (hk : Advances s (k s)) : Advances s (served s src k) := by
  unfold served
  cases src <;> dsimp only <;> split
  · exact hk
  · exact (Evolves.refl s).advances
  · exact (evolves_update.2 (Evolves.refl s)).advances
  · exact hk.evolve (evolves_update.2 (Evolves.refl _))

theorem execMbxDataWrite_advances {src : Src} {value : Word} {s : State} : Advanced s (execMbxDataWrite src value s) :=
  Advanced.next (served_advances writeData_advances)

theorem execMbxDataRead_evolves {s0 : State} {src : Src} {s : State} (h : Evolves s0 s) : Evolved s0 (execMbxDataRead src s) := by
  unfold execMbxDataRead
  repeat' first
    | with_reducible assumption
    | with_reducible apply Evolved.next
    | exact Evolved.fault
    | with_reducible apply served_evolves
    | with_reducible apply readData_evolves

end Sys2Proof.Machine
end

