-- ==== Sys2Proof/Laws/EvolvesRegAccess.lean ====
section
/-! SUPPORT. The operations of Machine/RegAccess.lean evolve the state (Laws/Evolves.lean). -/
namespace Sys2Proof.Machine

theorem popRas_evolves {s0 s : State} {v : Word} (h : Evolves s0 s) : Evolves s0 (popRas s v) := by
  unfold popRas
  split
  · refine h.trans ⟨fun ⟨a, b, c, d, e⟩ => ⟨a, ?_, c, d, e⟩, rfl, rfl, Nat.le_refl _, rfl⟩
    exact Nat.le_trans (by rw [List.length_tail]; exact Nat.sub_le _ _) b
  · exact h

theorem writeRas_evolves {s0 : State} {s : State} {off size : Nat} {v : Word} (h : Evolves s0 s) : Evolves s0 (writeRas s off size v) := by
  unfold writeRas
  repeat' first
    | with_reducible assumption
    | with_reducible apply popRas_evolves
    | simp only [evolves_update]
    | intro _
    | split

theorem writeMbx_advances {s : State} {src : Src} {off size : Nat} {v : Word} : Advances s (writeMbx s src off size v) := by
  have e := fun c => (mbxError_evolves (src := src) (code := c) (off := off) (Evolves.refl s)).advances
  unfold writeMbx
  repeat' split
  · exact e _
  · exact (writeCommand_evolves (Evolves.refl s)).advances
  · exact (evolves_update.2 (Evolves.refl s)).advances
  · exact writeData_advances
  · exact (evolves_update.2 (Evolves.refl s)).advances
  · exact e _
  · exact (Evolves.refl s).advances
  · exact e _

theorem evtErr_evolves {s0 : State} {s : State} {code off : Nat} (h : Evolves s0 s) : Evolves s0 (evtErr s code off) := by
  unfold evtErr
  repeat' first
    | with_reducible assumption
    | simp only [evolves_update]

theorem writeEvtBlock_evolves {s0 : State} {s : State} {off size : Nat} {v : Word} (h : Evolves s0 s) : Evolves s0 (writeEvtBlock s off size v) := by
  unfold writeEvtBlock
  repeat' first
    | with_reducible assumption
    | with_reducible apply evtErr_evolves
    | simp only [evolves_update]
    | intro _
    | split

theorem bar0Write_advances {s : State} {src : Src} {off size : Nat} {value : BitVec 64} : Advances s (bar0Write s src off size value) := by
  unfold bar0Write
  extract_lets v k
  split
  · exact (writeRas_evolves (Evolves.refl s)).advances
  · exact writeMbx_advances
  · exact writeMbx_advances
  · exact (writeEvtBlock_evolves (Evolves.refl s)).advances
  · repeat' split
    · exact (commit_evolves (Evolves.refl s)).advances
    · exact (stage_evolves (Evolves.refl s)).advances
    · exact (Evolves.refl s).advances

theorem bar0Access_advances {s : State} {src : Src} {off size : Nat} {value : BitVec 64} : Advances s (bar0Access s src off size value) := by
  unfold bar0Access
  repeat' split
  · exact bar0Write_advances
  · exact bar0Write_advances
  · exact (mbxError_evolves (Evolves.refl s)).advances

theorem bar0Effect_evolves {s0 : State} {s : State} {off : Nat} (h : Evolves s0 s) : Evolves s0 (bar0Effect s off) := by
  unfold bar0Effect
  repeat' first
    | with_reducible assumption
    | with_reducible apply State.modPart_evolves
    | simp only [evolves_update]
    | intro _
    | split

theorem passTime_evolves {s0 : State} {s : State} {off : Nat} (h : Evolves s0 s) : Evolves s0 (passTime s off) := by
  unfold passTime
  dsimp only [State.draw]
  repeat' first
    | with_reducible assumption
    | with_reducible apply State.modPort_evolves
    | simp only [evolves_update]
    | intro _
    | split

theorem bar0Read_evolves {s0 : State} {s : State} {off size : Nat} (h : Evolves s0 s) : Evolves s0 (bar0Read s off size) := by
  unfold bar0Read
  dsimp only
  repeat' first
    | with_reducible assumption
    | with_reducible apply readData_evolves
    | with_reducible apply passTime_evolves
    | with_reducible apply bar0Effect_evolves
    | simp only [evolves_update]
    | intro _
    | split

theorem bar0ReadBy_evolves {s0 : State} {s : State} {src : Src} {off size : Nat} (h : Evolves s0 s) : Evolves s0 (bar0ReadBy s src off size) := by
  unfold bar0ReadBy
  dsimp only
  repeat' first
    | with_reducible assumption
    | with_reducible apply bar0Read_evolves
    | with_reducible apply mbxError_evolves
    | with_reducible apply readData_evolves
    | simp only [evolves_update]
    | intro _
    | split

theorem execCommit_evolves {s0 : State} {value : Word} {s : State} (h : Evolves s0 s) : Evolved s0 (execCommit value s) := by
  unfold execCommit
  repeat' first
    | with_reducible assumption
    | with_reducible apply Evolved.next
    | exact Evolved.fault
    | with_reducible apply served_evolves
    | with_reducible apply commit_evolves
    | intro _

theorem execStagedRegisterWrite_advances {off size : Nat} {value : BitVec 64} {s : State} : Advanced s (execStagedRegisterWrite off size value s) :=
  Advanced.next (served_advances bar0Write_advances)

theorem execRegisterWrite_advances {src : Src} {space : Space} {off size : Nat} {value : BitVec 64} {s : State} :
    Advanced s (execRegisterWrite src space off size value s) := by
  apply Advanced.next
  split
  · exact served_advances bar0Access_advances
  · exact (bar2Write_evolves (Evolves.refl s)).advances
  · exact (configWrite_evolves (Evolves.refl s)).advances
  · exact (Evolves.refl s).advances

theorem execRasLogPop_evolves {s0 : State} {value : Word} {s : State} (h : Evolves s0 s) : Evolved s0 (execRasLogPop value s) := by
  unfold execRasLogPop
  repeat' first
    | with_reducible assumption
    | with_reducible apply Evolved.next
    | exact Evolved.fault
    | with_reducible apply served_evolves
    | with_reducible apply popRas_evolves
    | intro _

theorem execRegisterRead_evolves {s0 : State} {src : Src} {space : Space} {off size : Nat} {s : State} (h : Evolves s0 s) : Evolved s0 (execRegisterRead src space off size s) := by
  unfold execRegisterRead
  repeat' first
    | with_reducible assumption
    | with_reducible apply Evolved.next
    | exact Evolved.fault
    | with_reducible apply served_evolves
    | with_reducible apply bar0ReadBy_evolves
    | with_reducible apply bar2Read_evolves
    | with_reducible apply configRead_evolves
    | simp only [evolves_update]
    | split
    | intro _

end Sys2Proof.Machine
end

