-- ==== Sys2Proof/Laws/State.lean ====
section
/-! SUPPORT. Reading an array of units after a write to it, and what a write to one array leaves alone. -/
namespace Sys2Proof.Machine

/-! ### setPart -/

@[simp] theorem State.setPart_pending (s : State) (n : Fin 16) (p : Part) : (s.setPart n p).pending = s.pending := rfl
@[simp] theorem State.setPart_sram (s : State) (n : Fin 16) (p : Part) : (s.setPart n p).sram = s.sram := rfl
@[simp] theorem State.setPart_badSram (s : State) (n : Fin 16) (p : Part) : (s.setPart n p).badSram = s.badSram := rfl
@[simp] theorem State.setPart_transom (s : State) (n : Fin 16) (p : Part) : (s.setPart n p).transom = s.transom := rfl
@[simp] theorem State.setPart_host (s : State) (n : Fin 16) (p : Part) : (s.setPart n p).host = s.host := rfl
@[simp] theorem State.setPart_cistern (s : State) (n : Fin 16) (p : Part) : (s.setPart n p).cistern = s.cistern := rfl
@[simp] theorem State.setPart_weights (s : State) (n : Fin 16) (p : Part) : (s.setPart n p).weights = s.weights := rfl
@[simp] theorem State.setPart_laneq (s : State) (n : Fin 16) (p : Part) : (s.setPart n p).laneq = s.laneq := rfl
@[simp] theorem State.setPart_chunk (s : State) (n : Fin 16) (p : Part) : (s.setPart n p).chunk = s.chunk := rfl
@[simp] theorem State.setPart_chunkNan (s : State) (n : Fin 16) (p : Part) : (s.setPart n p).chunkNan = s.chunkNan := rfl
@[simp] theorem State.setPart_sump (s : State) (n : Fin 16) (p : Part) : (s.setPart n p).sump = s.sump := rfl
@[simp] theorem State.setPart_sumpNan (s : State) (n : Fin 16) (p : Part) : (s.setPart n p).sumpNan = s.sumpNan := rfl
@[simp] theorem State.setPart_drains (s : State) (n : Fin 16) (p : Part) : (s.setPart n p).drains = s.drains := rfl
@[simp] theorem State.setPart_fns (s : State) (n : Fin 16) (p : Part) : (s.setPart n p).fns = s.fns := rfl
@[simp] theorem State.setPart_ports (s : State) (n : Fin 16) (p : Part) : (s.setPart n p).ports = s.ports := rfl
@[simp] theorem State.setPart_cfg (s : State) (n : Fin 16) (p : Part) : (s.setPart n p).cfg = s.cfg := rfl
@[simp] theorem State.setPart_spares (s : State) (n : Fin 16) (p : Part) : (s.setPart n p).spares = s.spares := rfl
@[simp] theorem State.setPart_power (s : State) (n : Fin 16) (p : Part) : (s.setPart n p).power = s.power := rfl
@[simp] theorem State.setPart_mbx (s : State) (n : Fin 16) (p : Part) : (s.setPart n p).mbx = s.mbx := rfl
@[simp] theorem State.setPart_lcs (s : State) (n : Fin 16) (p : Part) : (s.setPart n p).lcs = s.lcs := rfl
@[simp] theorem State.setPart_slots (s : State) (n : Fin 16) (p : Part) : (s.setPart n p).slots = s.slots := rfl
@[simp] theorem State.setPart_ras (s : State) (n : Fin 16) (p : Part) : (s.setPart n p).ras = s.ras := rfl
@[simp] theorem State.setPart_rasOverflow (s : State) (n : Fin 16) (p : Part) : (s.setPart n p).rasOverflow = s.rasOverflow := rfl
@[simp] theorem State.setPart_evtStatus (s : State) (n : Fin 16) (p : Part) : (s.setPart n p).evtStatus = s.evtStatus := rfl
@[simp] theorem State.setPart_evtFaultEn (s : State) (n : Fin 16) (p : Part) : (s.setPart n p).evtFaultEn = s.evtFaultEn := rfl
@[simp] theorem State.setPart_evtError (s : State) (n : Fin 16) (p : Part) : (s.setPart n p).evtError = s.evtError := rfl
@[simp] theorem State.setPart_sys (s : State) (n : Fin 16) (p : Part) : (s.setPart n p).sys = s.sys := rfl
@[simp] theorem State.setPart_out (s : State) (n : Fin 16) (p : Part) : (s.setPart n p).out = s.out := rfl
@[simp] theorem State.setPart_draws (s : State) (n : Fin 16) (p : Part) : (s.setPart n p).draws = s.draws := rfl
@[simp] theorem State.setPart_fn (s : State) (n : Fin 16) (p : Part) (m : Fin 16) : (s.setPart n p).fn m = s.fn m := rfl
@[simp] theorem State.setPart_ring (s : State) (n : Fin 16) (p : Part) (m : Fin 16) (k : Fin 8) : (s.setPart n p).ring m k = s.ring m k := rfl
@[simp] theorem State.setPart_port (s : State) (n : Fin 16) (p : Part) (m : Fin 24) : (s.setPart n p).port m = s.port m := rfl

/-! ### modPart -/

@[simp] theorem State.modPart_pending (s : State) (n : Fin 16) (f : Part → Part) : (s.modPart n f).pending = s.pending := rfl
@[simp] theorem State.modPart_sram (s : State) (n : Fin 16) (f : Part → Part) : (s.modPart n f).sram = s.sram := rfl
@[simp] theorem State.modPart_badSram (s : State) (n : Fin 16) (f : Part → Part) : (s.modPart n f).badSram = s.badSram := rfl
@[simp] theorem State.modPart_transom (s : State) (n : Fin 16) (f : Part → Part) : (s.modPart n f).transom = s.transom := rfl
@[simp] theorem State.modPart_host (s : State) (n : Fin 16) (f : Part → Part) : (s.modPart n f).host = s.host := rfl
@[simp] theorem State.modPart_cistern (s : State) (n : Fin 16) (f : Part → Part) : (s.modPart n f).cistern = s.cistern := rfl
@[simp] theorem State.modPart_weights (s : State) (n : Fin 16) (f : Part → Part) : (s.modPart n f).weights = s.weights := rfl
@[simp] theorem State.modPart_laneq (s : State) (n : Fin 16) (f : Part → Part) : (s.modPart n f).laneq = s.laneq := rfl
@[simp] theorem State.modPart_chunk (s : State) (n : Fin 16) (f : Part → Part) : (s.modPart n f).chunk = s.chunk := rfl
@[simp] theorem State.modPart_chunkNan (s : State) (n : Fin 16) (f : Part → Part) : (s.modPart n f).chunkNan = s.chunkNan := rfl
@[simp] theorem State.modPart_sump (s : State) (n : Fin 16) (f : Part → Part) : (s.modPart n f).sump = s.sump := rfl
@[simp] theorem State.modPart_sumpNan (s : State) (n : Fin 16) (f : Part → Part) : (s.modPart n f).sumpNan = s.sumpNan := rfl
@[simp] theorem State.modPart_drains (s : State) (n : Fin 16) (f : Part → Part) : (s.modPart n f).drains = s.drains := rfl
@[simp] theorem State.modPart_fns (s : State) (n : Fin 16) (f : Part → Part) : (s.modPart n f).fns = s.fns := rfl
@[simp] theorem State.modPart_ports (s : State) (n : Fin 16) (f : Part → Part) : (s.modPart n f).ports = s.ports := rfl
@[simp] theorem State.modPart_cfg (s : State) (n : Fin 16) (f : Part → Part) : (s.modPart n f).cfg = s.cfg := rfl
@[simp] theorem State.modPart_spares (s : State) (n : Fin 16) (f : Part → Part) : (s.modPart n f).spares = s.spares := rfl
@[simp] theorem State.modPart_power (s : State) (n : Fin 16) (f : Part → Part) : (s.modPart n f).power = s.power := rfl
@[simp] theorem State.modPart_mbx (s : State) (n : Fin 16) (f : Part → Part) : (s.modPart n f).mbx = s.mbx := rfl
@[simp] theorem State.modPart_lcs (s : State) (n : Fin 16) (f : Part → Part) : (s.modPart n f).lcs = s.lcs := rfl
@[simp] theorem State.modPart_slots (s : State) (n : Fin 16) (f : Part → Part) : (s.modPart n f).slots = s.slots := rfl
@[simp] theorem State.modPart_ras (s : State) (n : Fin 16) (f : Part → Part) : (s.modPart n f).ras = s.ras := rfl
@[simp] theorem State.modPart_rasOverflow (s : State) (n : Fin 16) (f : Part → Part) : (s.modPart n f).rasOverflow = s.rasOverflow := rfl
@[simp] theorem State.modPart_evtStatus (s : State) (n : Fin 16) (f : Part → Part) : (s.modPart n f).evtStatus = s.evtStatus := rfl
@[simp] theorem State.modPart_evtFaultEn (s : State) (n : Fin 16) (f : Part → Part) : (s.modPart n f).evtFaultEn = s.evtFaultEn := rfl
@[simp] theorem State.modPart_evtError (s : State) (n : Fin 16) (f : Part → Part) : (s.modPart n f).evtError = s.evtError := rfl
@[simp] theorem State.modPart_sys (s : State) (n : Fin 16) (f : Part → Part) : (s.modPart n f).sys = s.sys := rfl
@[simp] theorem State.modPart_out (s : State) (n : Fin 16) (f : Part → Part) : (s.modPart n f).out = s.out := rfl
@[simp] theorem State.modPart_draws (s : State) (n : Fin 16) (f : Part → Part) : (s.modPart n f).draws = s.draws := rfl
@[simp] theorem State.modPart_fn (s : State) (n : Fin 16) (f : Part → Part) (m : Fin 16) : (s.modPart n f).fn m = s.fn m := rfl
@[simp] theorem State.modPart_ring (s : State) (n : Fin 16) (f : Part → Part) (m : Fin 16) (k : Fin 8) : (s.modPart n f).ring m k = s.ring m k := rfl
@[simp] theorem State.modPart_port (s : State) (n : Fin 16) (f : Part → Part) (m : Fin 24) : (s.modPart n f).port m = s.port m := rfl

/-! ### setFn -/

@[simp] theorem State.setFn_pending (s : State) (n : Fin 16) (f : Fn) : (s.setFn n f).pending = s.pending := rfl
@[simp] theorem State.setFn_sram (s : State) (n : Fin 16) (f : Fn) : (s.setFn n f).sram = s.sram := rfl
@[simp] theorem State.setFn_badSram (s : State) (n : Fin 16) (f : Fn) : (s.setFn n f).badSram = s.badSram := rfl
@[simp] theorem State.setFn_transom (s : State) (n : Fin 16) (f : Fn) : (s.setFn n f).transom = s.transom := rfl
@[simp] theorem State.setFn_host (s : State) (n : Fin 16) (f : Fn) : (s.setFn n f).host = s.host := rfl
@[simp] theorem State.setFn_cistern (s : State) (n : Fin 16) (f : Fn) : (s.setFn n f).cistern = s.cistern := rfl
@[simp] theorem State.setFn_weights (s : State) (n : Fin 16) (f : Fn) : (s.setFn n f).weights = s.weights := rfl
@[simp] theorem State.setFn_laneq (s : State) (n : Fin 16) (f : Fn) : (s.setFn n f).laneq = s.laneq := rfl
@[simp] theorem State.setFn_chunk (s : State) (n : Fin 16) (f : Fn) : (s.setFn n f).chunk = s.chunk := rfl
@[simp] theorem State.setFn_chunkNan (s : State) (n : Fin 16) (f : Fn) : (s.setFn n f).chunkNan = s.chunkNan := rfl
@[simp] theorem State.setFn_sump (s : State) (n : Fin 16) (f : Fn) : (s.setFn n f).sump = s.sump := rfl
@[simp] theorem State.setFn_sumpNan (s : State) (n : Fin 16) (f : Fn) : (s.setFn n f).sumpNan = s.sumpNan := rfl
@[simp] theorem State.setFn_drains (s : State) (n : Fin 16) (f : Fn) : (s.setFn n f).drains = s.drains := rfl
@[simp] theorem State.setFn_parts (s : State) (n : Fin 16) (f : Fn) : (s.setFn n f).parts = s.parts := rfl
@[simp] theorem State.setFn_ports (s : State) (n : Fin 16) (f : Fn) : (s.setFn n f).ports = s.ports := rfl
@[simp] theorem State.setFn_cfg (s : State) (n : Fin 16) (f : Fn) : (s.setFn n f).cfg = s.cfg := rfl
@[simp] theorem State.setFn_spares (s : State) (n : Fin 16) (f : Fn) : (s.setFn n f).spares = s.spares := rfl
@[simp] theorem State.setFn_power (s : State) (n : Fin 16) (f : Fn) : (s.setFn n f).power = s.power := rfl
@[simp] theorem State.setFn_mbx (s : State) (n : Fin 16) (f : Fn) : (s.setFn n f).mbx = s.mbx := rfl
@[simp] theorem State.setFn_lcs (s : State) (n : Fin 16) (f : Fn) : (s.setFn n f).lcs = s.lcs := rfl
@[simp] theorem State.setFn_slots (s : State) (n : Fin 16) (f : Fn) : (s.setFn n f).slots = s.slots := rfl
@[simp] theorem State.setFn_ras (s : State) (n : Fin 16) (f : Fn) : (s.setFn n f).ras = s.ras := rfl
@[simp] theorem State.setFn_rasOverflow (s : State) (n : Fin 16) (f : Fn) : (s.setFn n f).rasOverflow = s.rasOverflow := rfl
@[simp] theorem State.setFn_evtStatus (s : State) (n : Fin 16) (f : Fn) : (s.setFn n f).evtStatus = s.evtStatus := rfl
@[simp] theorem State.setFn_evtFaultEn (s : State) (n : Fin 16) (f : Fn) : (s.setFn n f).evtFaultEn = s.evtFaultEn := rfl
@[simp] theorem State.setFn_evtError (s : State) (n : Fin 16) (f : Fn) : (s.setFn n f).evtError = s.evtError := rfl
@[simp] theorem State.setFn_sys (s : State) (n : Fin 16) (f : Fn) : (s.setFn n f).sys = s.sys := rfl
@[simp] theorem State.setFn_out (s : State) (n : Fin 16) (f : Fn) : (s.setFn n f).out = s.out := rfl
@[simp] theorem State.setFn_draws (s : State) (n : Fin 16) (f : Fn) : (s.setFn n f).draws = s.draws := rfl
@[simp] theorem State.setFn_part (s : State) (n : Fin 16) (f : Fn) (m : Fin 16) : (s.setFn n f).part m = s.part m := rfl
@[simp] theorem State.setFn_port (s : State) (n : Fin 16) (f : Fn) (m : Fin 24) : (s.setFn n f).port m = s.port m := rfl

/-! ### modFn -/

@[simp] theorem State.modFn_pending (s : State) (n : Fin 16) (g : Fn → Fn) : (s.modFn n g).pending = s.pending := rfl
@[simp] theorem State.modFn_sram (s : State) (n : Fin 16) (g : Fn → Fn) : (s.modFn n g).sram = s.sram := rfl
@[simp] theorem State.modFn_badSram (s : State) (n : Fin 16) (g : Fn → Fn) : (s.modFn n g).badSram = s.badSram := rfl
@[simp] theorem State.modFn_transom (s : State) (n : Fin 16) (g : Fn → Fn) : (s.modFn n g).transom = s.transom := rfl
@[simp] theorem State.modFn_host (s : State) (n : Fin 16) (g : Fn → Fn) : (s.modFn n g).host = s.host := rfl
@[simp] theorem State.modFn_cistern (s : State) (n : Fin 16) (g : Fn → Fn) : (s.modFn n g).cistern = s.cistern := rfl
@[simp] theorem State.modFn_weights (s : State) (n : Fin 16) (g : Fn → Fn) : (s.modFn n g).weights = s.weights := rfl
@[simp] theorem State.modFn_laneq (s : State) (n : Fin 16) (g : Fn → Fn) : (s.modFn n g).laneq = s.laneq := rfl
@[simp] theorem State.modFn_chunk (s : State) (n : Fin 16) (g : Fn → Fn) : (s.modFn n g).chunk = s.chunk := rfl
@[simp] theorem State.modFn_chunkNan (s : State) (n : Fin 16) (g : Fn → Fn) : (s.modFn n g).chunkNan = s.chunkNan := rfl
@[simp] theorem State.modFn_sump (s : State) (n : Fin 16) (g : Fn → Fn) : (s.modFn n g).sump = s.sump := rfl
@[simp] theorem State.modFn_sumpNan (s : State) (n : Fin 16) (g : Fn → Fn) : (s.modFn n g).sumpNan = s.sumpNan := rfl
@[simp] theorem State.modFn_drains (s : State) (n : Fin 16) (g : Fn → Fn) : (s.modFn n g).drains = s.drains := rfl
@[simp] theorem State.modFn_parts (s : State) (n : Fin 16) (g : Fn → Fn) : (s.modFn n g).parts = s.parts := rfl
@[simp] theorem State.modFn_ports (s : State) (n : Fin 16) (g : Fn → Fn) : (s.modFn n g).ports = s.ports := rfl
@[simp] theorem State.modFn_cfg (s : State) (n : Fin 16) (g : Fn → Fn) : (s.modFn n g).cfg = s.cfg := rfl
@[simp] theorem State.modFn_spares (s : State) (n : Fin 16) (g : Fn → Fn) : (s.modFn n g).spares = s.spares := rfl
@[simp] theorem State.modFn_power (s : State) (n : Fin 16) (g : Fn → Fn) : (s.modFn n g).power = s.power := rfl
@[simp] theorem State.modFn_mbx (s : State) (n : Fin 16) (g : Fn → Fn) : (s.modFn n g).mbx = s.mbx := rfl
@[simp] theorem State.modFn_lcs (s : State) (n : Fin 16) (g : Fn → Fn) : (s.modFn n g).lcs = s.lcs := rfl
@[simp] theorem State.modFn_slots (s : State) (n : Fin 16) (g : Fn → Fn) : (s.modFn n g).slots = s.slots := rfl
@[simp] theorem State.modFn_ras (s : State) (n : Fin 16) (g : Fn → Fn) : (s.modFn n g).ras = s.ras := rfl
@[simp] theorem State.modFn_rasOverflow (s : State) (n : Fin 16) (g : Fn → Fn) : (s.modFn n g).rasOverflow = s.rasOverflow := rfl
@[simp] theorem State.modFn_evtStatus (s : State) (n : Fin 16) (g : Fn → Fn) : (s.modFn n g).evtStatus = s.evtStatus := rfl
@[simp] theorem State.modFn_evtFaultEn (s : State) (n : Fin 16) (g : Fn → Fn) : (s.modFn n g).evtFaultEn = s.evtFaultEn := rfl
@[simp] theorem State.modFn_evtError (s : State) (n : Fin 16) (g : Fn → Fn) : (s.modFn n g).evtError = s.evtError := rfl
@[simp] theorem State.modFn_sys (s : State) (n : Fin 16) (g : Fn → Fn) : (s.modFn n g).sys = s.sys := rfl
@[simp] theorem State.modFn_out (s : State) (n : Fin 16) (g : Fn → Fn) : (s.modFn n g).out = s.out := rfl
@[simp] theorem State.modFn_draws (s : State) (n : Fin 16) (g : Fn → Fn) : (s.modFn n g).draws = s.draws := rfl
@[simp] theorem State.modFn_part (s : State) (n : Fin 16) (g : Fn → Fn) (m : Fin 16) : (s.modFn n g).part m = s.part m := rfl
@[simp] theorem State.modFn_port (s : State) (n : Fin 16) (g : Fn → Fn) (m : Fin 24) : (s.modFn n g).port m = s.port m := rfl

/-! ### setRing -/

@[simp] theorem State.setRing_pending (s : State) (n : Fin 16) (r : Fin 8) (x : Ring) : (s.setRing n r x).pending = s.pending := rfl
@[simp] theorem State.setRing_sram (s : State) (n : Fin 16) (r : Fin 8) (x : Ring) : (s.setRing n r x).sram = s.sram := rfl
@[simp] theorem State.setRing_badSram (s : State) (n : Fin 16) (r : Fin 8) (x : Ring) : (s.setRing n r x).badSram = s.badSram := rfl
@[simp] theorem State.setRing_transom (s : State) (n : Fin 16) (r : Fin 8) (x : Ring) : (s.setRing n r x).transom = s.transom := rfl
@[simp] theorem State.setRing_host (s : State) (n : Fin 16) (r : Fin 8) (x : Ring) : (s.setRing n r x).host = s.host := rfl
@[simp] theorem State.setRing_cistern (s : State) (n : Fin 16) (r : Fin 8) (x : Ring) : (s.setRing n r x).cistern = s.cistern := rfl
@[simp] theorem State.setRing_weights (s : State) (n : Fin 16) (r : Fin 8) (x : Ring) : (s.setRing n r x).weights = s.weights := rfl
@[simp] theorem State.setRing_laneq (s : State) (n : Fin 16) (r : Fin 8) (x : Ring) : (s.setRing n r x).laneq = s.laneq := rfl
@[simp] theorem State.setRing_chunk (s : State) (n : Fin 16) (r : Fin 8) (x : Ring) : (s.setRing n r x).chunk = s.chunk := rfl
@[simp] theorem State.setRing_chunkNan (s : State) (n : Fin 16) (r : Fin 8) (x : Ring) : (s.setRing n r x).chunkNan = s.chunkNan := rfl
@[simp] theorem State.setRing_sump (s : State) (n : Fin 16) (r : Fin 8) (x : Ring) : (s.setRing n r x).sump = s.sump := rfl
@[simp] theorem State.setRing_sumpNan (s : State) (n : Fin 16) (r : Fin 8) (x : Ring) : (s.setRing n r x).sumpNan = s.sumpNan := rfl
@[simp] theorem State.setRing_drains (s : State) (n : Fin 16) (r : Fin 8) (x : Ring) : (s.setRing n r x).drains = s.drains := rfl
@[simp] theorem State.setRing_parts (s : State) (n : Fin 16) (r : Fin 8) (x : Ring) : (s.setRing n r x).parts = s.parts := rfl
@[simp] theorem State.setRing_ports (s : State) (n : Fin 16) (r : Fin 8) (x : Ring) : (s.setRing n r x).ports = s.ports := rfl
@[simp] theorem State.setRing_cfg (s : State) (n : Fin 16) (r : Fin 8) (x : Ring) : (s.setRing n r x).cfg = s.cfg := rfl
@[simp] theorem State.setRing_spares (s : State) (n : Fin 16) (r : Fin 8) (x : Ring) : (s.setRing n r x).spares = s.spares := rfl
@[simp] theorem State.setRing_power (s : State) (n : Fin 16) (r : Fin 8) (x : Ring) : (s.setRing n r x).power = s.power := rfl
@[simp] theorem State.setRing_mbx (s : State) (n : Fin 16) (r : Fin 8) (x : Ring) : (s.setRing n r x).mbx = s.mbx := rfl
@[simp] theorem State.setRing_lcs (s : State) (n : Fin 16) (r : Fin 8) (x : Ring) : (s.setRing n r x).lcs = s.lcs := rfl
@[simp] theorem State.setRing_slots (s : State) (n : Fin 16) (r : Fin 8) (x : Ring) : (s.setRing n r x).slots = s.slots := rfl
@[simp] theorem State.setRing_ras (s : State) (n : Fin 16) (r : Fin 8) (x : Ring) : (s.setRing n r x).ras = s.ras := rfl
@[simp] theorem State.setRing_rasOverflow (s : State) (n : Fin 16) (r : Fin 8) (x : Ring) : (s.setRing n r x).rasOverflow = s.rasOverflow := rfl
@[simp] theorem State.setRing_evtStatus (s : State) (n : Fin 16) (r : Fin 8) (x : Ring) : (s.setRing n r x).evtStatus = s.evtStatus := rfl
@[simp] theorem State.setRing_evtFaultEn (s : State) (n : Fin 16) (r : Fin 8) (x : Ring) : (s.setRing n r x).evtFaultEn = s.evtFaultEn := rfl
@[simp] theorem State.setRing_evtError (s : State) (n : Fin 16) (r : Fin 8) (x : Ring) : (s.setRing n r x).evtError = s.evtError := rfl
@[simp] theorem State.setRing_sys (s : State) (n : Fin 16) (r : Fin 8) (x : Ring) : (s.setRing n r x).sys = s.sys := rfl
@[simp] theorem State.setRing_out (s : State) (n : Fin 16) (r : Fin 8) (x : Ring) : (s.setRing n r x).out = s.out := rfl
@[simp] theorem State.setRing_draws (s : State) (n : Fin 16) (r : Fin 8) (x : Ring) : (s.setRing n r x).draws = s.draws := rfl
@[simp] theorem State.setRing_part (s : State) (n : Fin 16) (r : Fin 8) (x : Ring) (m : Fin 16) : (s.setRing n r x).part m = s.part m := rfl
@[simp] theorem State.setRing_port (s : State) (n : Fin 16) (r : Fin 8) (x : Ring) (m : Fin 24) : (s.setRing n r x).port m = s.port m := rfl

/-! ### modRing -/

@[simp] theorem State.modRing_pending (s : State) (n : Fin 16) (r : Fin 8) (g : Ring → Ring) : (s.modRing n r g).pending = s.pending := rfl
@[simp] theorem State.modRing_sram (s : State) (n : Fin 16) (r : Fin 8) (g : Ring → Ring) : (s.modRing n r g).sram = s.sram := rfl
@[simp] theorem State.modRing_badSram (s : State) (n : Fin 16) (r : Fin 8) (g : Ring → Ring) : (s.modRing n r g).badSram = s.badSram := rfl
@[simp] theorem State.modRing_transom (s : State) (n : Fin 16) (r : Fin 8) (g : Ring → Ring) : (s.modRing n r g).transom = s.transom := rfl
@[simp] theorem State.modRing_host (s : State) (n : Fin 16) (r : Fin 8) (g : Ring → Ring) : (s.modRing n r g).host = s.host := rfl
@[simp] theorem State.modRing_cistern (s : State) (n : Fin 16) (r : Fin 8) (g : Ring → Ring) : (s.modRing n r g).cistern = s.cistern := rfl
@[simp] theorem State.modRing_weights (s : State) (n : Fin 16) (r : Fin 8) (g : Ring → Ring) : (s.modRing n r g).weights = s.weights := rfl
@[simp] theorem State.modRing_laneq (s : State) (n : Fin 16) (r : Fin 8) (g : Ring → Ring) : (s.modRing n r g).laneq = s.laneq := rfl
@[simp] theorem State.modRing_chunk (s : State) (n : Fin 16) (r : Fin 8) (g : Ring → Ring) : (s.modRing n r g).chunk = s.chunk := rfl
@[simp] theorem State.modRing_chunkNan (s : State) (n : Fin 16) (r : Fin 8) (g : Ring → Ring) : (s.modRing n r g).chunkNan = s.chunkNan := rfl
@[simp] theorem State.modRing_sump (s : State) (n : Fin 16) (r : Fin 8) (g : Ring → Ring) : (s.modRing n r g).sump = s.sump := rfl
@[simp] theorem State.modRing_sumpNan (s : State) (n : Fin 16) (r : Fin 8) (g : Ring → Ring) : (s.modRing n r g).sumpNan = s.sumpNan := rfl
@[simp] theorem State.modRing_drains (s : State) (n : Fin 16) (r : Fin 8) (g : Ring → Ring) : (s.modRing n r g).drains = s.drains := rfl
@[simp] theorem State.modRing_parts (s : State) (n : Fin 16) (r : Fin 8) (g : Ring → Ring) : (s.modRing n r g).parts = s.parts := rfl
@[simp] theorem State.modRing_ports (s : State) (n : Fin 16) (r : Fin 8) (g : Ring → Ring) : (s.modRing n r g).ports = s.ports := rfl
@[simp] theorem State.modRing_cfg (s : State) (n : Fin 16) (r : Fin 8) (g : Ring → Ring) : (s.modRing n r g).cfg = s.cfg := rfl
@[simp] theorem State.modRing_spares (s : State) (n : Fin 16) (r : Fin 8) (g : Ring → Ring) : (s.modRing n r g).spares = s.spares := rfl
@[simp] theorem State.modRing_power (s : State) (n : Fin 16) (r : Fin 8) (g : Ring → Ring) : (s.modRing n r g).power = s.power := rfl
@[simp] theorem State.modRing_mbx (s : State) (n : Fin 16) (r : Fin 8) (g : Ring → Ring) : (s.modRing n r g).mbx = s.mbx := rfl
@[simp] theorem State.modRing_lcs (s : State) (n : Fin 16) (r : Fin 8) (g : Ring → Ring) : (s.modRing n r g).lcs = s.lcs := rfl
@[simp] theorem State.modRing_slots (s : State) (n : Fin 16) (r : Fin 8) (g : Ring → Ring) : (s.modRing n r g).slots = s.slots := rfl
@[simp] theorem State.modRing_ras (s : State) (n : Fin 16) (r : Fin 8) (g : Ring → Ring) : (s.modRing n r g).ras = s.ras := rfl
@[simp] theorem State.modRing_rasOverflow (s : State) (n : Fin 16) (r : Fin 8) (g : Ring → Ring) : (s.modRing n r g).rasOverflow = s.rasOverflow := rfl
@[simp] theorem State.modRing_evtStatus (s : State) (n : Fin 16) (r : Fin 8) (g : Ring → Ring) : (s.modRing n r g).evtStatus = s.evtStatus := rfl
@[simp] theorem State.modRing_evtFaultEn (s : State) (n : Fin 16) (r : Fin 8) (g : Ring → Ring) : (s.modRing n r g).evtFaultEn = s.evtFaultEn := rfl
@[simp] theorem State.modRing_evtError (s : State) (n : Fin 16) (r : Fin 8) (g : Ring → Ring) : (s.modRing n r g).evtError = s.evtError := rfl
@[simp] theorem State.modRing_sys (s : State) (n : Fin 16) (r : Fin 8) (g : Ring → Ring) : (s.modRing n r g).sys = s.sys := rfl
@[simp] theorem State.modRing_out (s : State) (n : Fin 16) (r : Fin 8) (g : Ring → Ring) : (s.modRing n r g).out = s.out := rfl
@[simp] theorem State.modRing_draws (s : State) (n : Fin 16) (r : Fin 8) (g : Ring → Ring) : (s.modRing n r g).draws = s.draws := rfl
@[simp] theorem State.modRing_part (s : State) (n : Fin 16) (r : Fin 8) (g : Ring → Ring) (m : Fin 16) : (s.modRing n r g).part m = s.part m := rfl
@[simp] theorem State.modRing_port (s : State) (n : Fin 16) (r : Fin 8) (g : Ring → Ring) (m : Fin 24) : (s.modRing n r g).port m = s.port m := rfl

/-! ### setPort -/

@[simp] theorem State.setPort_pending (s : State) (n : Fin 24) (p : Port) : (s.setPort n p).pending = s.pending := rfl
@[simp] theorem State.setPort_sram (s : State) (n : Fin 24) (p : Port) : (s.setPort n p).sram = s.sram := rfl
@[simp] theorem State.setPort_badSram (s : State) (n : Fin 24) (p : Port) : (s.setPort n p).badSram = s.badSram := rfl
@[simp] theorem State.setPort_transom (s : State) (n : Fin 24) (p : Port) : (s.setPort n p).transom = s.transom := rfl
@[simp] theorem State.setPort_host (s : State) (n : Fin 24) (p : Port) : (s.setPort n p).host = s.host := rfl
@[simp] theorem State.setPort_cistern (s : State) (n : Fin 24) (p : Port) : (s.setPort n p).cistern = s.cistern := rfl
@[simp] theorem State.setPort_weights (s : State) (n : Fin 24) (p : Port) : (s.setPort n p).weights = s.weights := rfl
@[simp] theorem State.setPort_laneq (s : State) (n : Fin 24) (p : Port) : (s.setPort n p).laneq = s.laneq := rfl
@[simp] theorem State.setPort_chunk (s : State) (n : Fin 24) (p : Port) : (s.setPort n p).chunk = s.chunk := rfl
@[simp] theorem State.setPort_chunkNan (s : State) (n : Fin 24) (p : Port) : (s.setPort n p).chunkNan = s.chunkNan := rfl
@[simp] theorem State.setPort_sump (s : State) (n : Fin 24) (p : Port) : (s.setPort n p).sump = s.sump := rfl
@[simp] theorem State.setPort_sumpNan (s : State) (n : Fin 24) (p : Port) : (s.setPort n p).sumpNan = s.sumpNan := rfl
@[simp] theorem State.setPort_drains (s : State) (n : Fin 24) (p : Port) : (s.setPort n p).drains = s.drains := rfl
@[simp] theorem State.setPort_parts (s : State) (n : Fin 24) (p : Port) : (s.setPort n p).parts = s.parts := rfl
@[simp] theorem State.setPort_fns (s : State) (n : Fin 24) (p : Port) : (s.setPort n p).fns = s.fns := rfl
@[simp] theorem State.setPort_cfg (s : State) (n : Fin 24) (p : Port) : (s.setPort n p).cfg = s.cfg := rfl
@[simp] theorem State.setPort_spares (s : State) (n : Fin 24) (p : Port) : (s.setPort n p).spares = s.spares := rfl
@[simp] theorem State.setPort_power (s : State) (n : Fin 24) (p : Port) : (s.setPort n p).power = s.power := rfl
@[simp] theorem State.setPort_mbx (s : State) (n : Fin 24) (p : Port) : (s.setPort n p).mbx = s.mbx := rfl
@[simp] theorem State.setPort_lcs (s : State) (n : Fin 24) (p : Port) : (s.setPort n p).lcs = s.lcs := rfl
@[simp] theorem State.setPort_slots (s : State) (n : Fin 24) (p : Port) : (s.setPort n p).slots = s.slots := rfl
@[simp] theorem State.setPort_ras (s : State) (n : Fin 24) (p : Port) : (s.setPort n p).ras = s.ras := rfl
@[simp] theorem State.setPort_rasOverflow (s : State) (n : Fin 24) (p : Port) : (s.setPort n p).rasOverflow = s.rasOverflow := rfl
@[simp] theorem State.setPort_evtStatus (s : State) (n : Fin 24) (p : Port) : (s.setPort n p).evtStatus = s.evtStatus := rfl
@[simp] theorem State.setPort_evtFaultEn (s : State) (n : Fin 24) (p : Port) : (s.setPort n p).evtFaultEn = s.evtFaultEn := rfl
@[simp] theorem State.setPort_evtError (s : State) (n : Fin 24) (p : Port) : (s.setPort n p).evtError = s.evtError := rfl
@[simp] theorem State.setPort_sys (s : State) (n : Fin 24) (p : Port) : (s.setPort n p).sys = s.sys := rfl
@[simp] theorem State.setPort_out (s : State) (n : Fin 24) (p : Port) : (s.setPort n p).out = s.out := rfl
@[simp] theorem State.setPort_draws (s : State) (n : Fin 24) (p : Port) : (s.setPort n p).draws = s.draws := rfl
@[simp] theorem State.setPort_part (s : State) (n : Fin 24) (p : Port) (m : Fin 16) : (s.setPort n p).part m = s.part m := rfl
@[simp] theorem State.setPort_fn (s : State) (n : Fin 24) (p : Port) (m : Fin 16) : (s.setPort n p).fn m = s.fn m := rfl
@[simp] theorem State.setPort_ring (s : State) (n : Fin 24) (p : Port) (m : Fin 16) (k : Fin 8) : (s.setPort n p).ring m k = s.ring m k := rfl

/-! ### modPort -/

@[simp] theorem State.modPort_pending (s : State) (n : Fin 24) (f : Port → Port) : (s.modPort n f).pending = s.pending := rfl
@[simp] theorem State.modPort_sram (s : State) (n : Fin 24) (f : Port → Port) : (s.modPort n f).sram = s.sram := rfl
@[simp] theorem State.modPort_badSram (s : State) (n : Fin 24) (f : Port → Port) : (s.modPort n f).badSram = s.badSram := rfl
@[simp] theorem State.modPort_transom (s : State) (n : Fin 24) (f : Port → Port) : (s.modPort n f).transom = s.transom := rfl
@[simp] theorem State.modPort_host (s : State) (n : Fin 24) (f : Port → Port) : (s.modPort n f).host = s.host := rfl
@[simp] theorem State.modPort_cistern (s : State) (n : Fin 24) (f : Port → Port) : (s.modPort n f).cistern = s.cistern := rfl
@[simp] theorem State.modPort_weights (s : State) (n : Fin 24) (f : Port → Port) : (s.modPort n f).weights = s.weights := rfl
@[simp] theorem State.modPort_laneq (s : State) (n : Fin 24) (f : Port → Port) : (s.modPort n f).laneq = s.laneq := rfl
@[simp] theorem State.modPort_chunk (s : State) (n : Fin 24) (f : Port → Port) : (s.modPort n f).chunk = s.chunk := rfl
@[simp] theorem State.modPort_chunkNan (s : State) (n : Fin 24) (f : Port → Port) : (s.modPort n f).chunkNan = s.chunkNan := rfl
@[simp] theorem State.modPort_sump (s : State) (n : Fin 24) (f : Port → Port) : (s.modPort n f).sump = s.sump := rfl
@[simp] theorem State.modPort_sumpNan (s : State) (n : Fin 24) (f : Port → Port) : (s.modPort n f).sumpNan = s.sumpNan := rfl
@[simp] theorem State.modPort_drains (s : State) (n : Fin 24) (f : Port → Port) : (s.modPort n f).drains = s.drains := rfl
@[simp] theorem State.modPort_parts (s : State) (n : Fin 24) (f : Port → Port) : (s.modPort n f).parts = s.parts := rfl
@[simp] theorem State.modPort_fns (s : State) (n : Fin 24) (f : Port → Port) : (s.modPort n f).fns = s.fns := rfl
@[simp] theorem State.modPort_cfg (s : State) (n : Fin 24) (f : Port → Port) : (s.modPort n f).cfg = s.cfg := rfl
@[simp] theorem State.modPort_spares (s : State) (n : Fin 24) (f : Port → Port) : (s.modPort n f).spares = s.spares := rfl
@[simp] theorem State.modPort_power (s : State) (n : Fin 24) (f : Port → Port) : (s.modPort n f).power = s.power := rfl
@[simp] theorem State.modPort_mbx (s : State) (n : Fin 24) (f : Port → Port) : (s.modPort n f).mbx = s.mbx := rfl
@[simp] theorem State.modPort_lcs (s : State) (n : Fin 24) (f : Port → Port) : (s.modPort n f).lcs = s.lcs := rfl
@[simp] theorem State.modPort_slots (s : State) (n : Fin 24) (f : Port → Port) : (s.modPort n f).slots = s.slots := rfl
@[simp] theorem State.modPort_ras (s : State) (n : Fin 24) (f : Port → Port) : (s.modPort n f).ras = s.ras := rfl
@[simp] theorem State.modPort_rasOverflow (s : State) (n : Fin 24) (f : Port → Port) : (s.modPort n f).rasOverflow = s.rasOverflow := rfl
@[simp] theorem State.modPort_evtStatus (s : State) (n : Fin 24) (f : Port → Port) : (s.modPort n f).evtStatus = s.evtStatus := rfl
@[simp] theorem State.modPort_evtFaultEn (s : State) (n : Fin 24) (f : Port → Port) : (s.modPort n f).evtFaultEn = s.evtFaultEn := rfl
@[simp] theorem State.modPort_evtError (s : State) (n : Fin 24) (f : Port → Port) : (s.modPort n f).evtError = s.evtError := rfl
@[simp] theorem State.modPort_sys (s : State) (n : Fin 24) (f : Port → Port) : (s.modPort n f).sys = s.sys := rfl
@[simp] theorem State.modPort_out (s : State) (n : Fin 24) (f : Port → Port) : (s.modPort n f).out = s.out := rfl
@[simp] theorem State.modPort_draws (s : State) (n : Fin 24) (f : Port → Port) : (s.modPort n f).draws = s.draws := rfl
@[simp] theorem State.modPort_part (s : State) (n : Fin 24) (f : Port → Port) (m : Fin 16) : (s.modPort n f).part m = s.part m := rfl
@[simp] theorem State.modPort_fn (s : State) (n : Fin 24) (f : Port → Port) (m : Fin 16) : (s.modPort n f).fn m = s.fn m := rfl
@[simp] theorem State.modPort_ring (s : State) (n : Fin 24) (f : Port → Port) (m : Fin 16) (k : Fin 8) : (s.modPort n f).ring m k = s.ring m k := rfl

/-! ### count -/

@[simp] theorem State.count_pending (s : State) (n : Fin 16) (i k : Nat) : (s.count n i k).pending = s.pending := rfl
@[simp] theorem State.count_sram (s : State) (n : Fin 16) (i k : Nat) : (s.count n i k).sram = s.sram := rfl
@[simp] theorem State.count_badSram (s : State) (n : Fin 16) (i k : Nat) : (s.count n i k).badSram = s.badSram := rfl
@[simp] theorem State.count_transom (s : State) (n : Fin 16) (i k : Nat) : (s.count n i k).transom = s.transom := rfl
@[simp] theorem State.count_host (s : State) (n : Fin 16) (i k : Nat) : (s.count n i k).host = s.host := rfl
@[simp] theorem State.count_cistern (s : State) (n : Fin 16) (i k : Nat) : (s.count n i k).cistern = s.cistern := rfl
@[simp] theorem State.count_weights (s : State) (n : Fin 16) (i k : Nat) : (s.count n i k).weights = s.weights := rfl
@[simp] theorem State.count_laneq (s : State) (n : Fin 16) (i k : Nat) : (s.count n i k).laneq = s.laneq := rfl
@[simp] theorem State.count_chunk (s : State) (n : Fin 16) (i k : Nat) : (s.count n i k).chunk = s.chunk := rfl
@[simp] theorem State.count_chunkNan (s : State) (n : Fin 16) (i k : Nat) : (s.count n i k).chunkNan = s.chunkNan := rfl
@[simp] theorem State.count_sump (s : State) (n : Fin 16) (i k : Nat) : (s.count n i k).sump = s.sump := rfl
@[simp] theorem State.count_sumpNan (s : State) (n : Fin 16) (i k : Nat) : (s.count n i k).sumpNan = s.sumpNan := rfl
@[simp] theorem State.count_drains (s : State) (n : Fin 16) (i k : Nat) : (s.count n i k).drains = s.drains := rfl
@[simp] theorem State.count_fns (s : State) (n : Fin 16) (i k : Nat) : (s.count n i k).fns = s.fns := rfl
@[simp] theorem State.count_ports (s : State) (n : Fin 16) (i k : Nat) : (s.count n i k).ports = s.ports := rfl
@[simp] theorem State.count_cfg (s : State) (n : Fin 16) (i k : Nat) : (s.count n i k).cfg = s.cfg := rfl
@[simp] theorem State.count_spares (s : State) (n : Fin 16) (i k : Nat) : (s.count n i k).spares = s.spares := rfl
@[simp] theorem State.count_power (s : State) (n : Fin 16) (i k : Nat) : (s.count n i k).power = s.power := rfl
@[simp] theorem State.count_mbx (s : State) (n : Fin 16) (i k : Nat) : (s.count n i k).mbx = s.mbx := rfl
@[simp] theorem State.count_lcs (s : State) (n : Fin 16) (i k : Nat) : (s.count n i k).lcs = s.lcs := rfl
@[simp] theorem State.count_slots (s : State) (n : Fin 16) (i k : Nat) : (s.count n i k).slots = s.slots := rfl
@[simp] theorem State.count_ras (s : State) (n : Fin 16) (i k : Nat) : (s.count n i k).ras = s.ras := rfl
@[simp] theorem State.count_rasOverflow (s : State) (n : Fin 16) (i k : Nat) : (s.count n i k).rasOverflow = s.rasOverflow := rfl
@[simp] theorem State.count_evtStatus (s : State) (n : Fin 16) (i k : Nat) : (s.count n i k).evtStatus = s.evtStatus := rfl
@[simp] theorem State.count_evtFaultEn (s : State) (n : Fin 16) (i k : Nat) : (s.count n i k).evtFaultEn = s.evtFaultEn := rfl
@[simp] theorem State.count_evtError (s : State) (n : Fin 16) (i k : Nat) : (s.count n i k).evtError = s.evtError := rfl
@[simp] theorem State.count_sys (s : State) (n : Fin 16) (i k : Nat) : (s.count n i k).sys = s.sys := rfl
@[simp] theorem State.count_out (s : State) (n : Fin 16) (i k : Nat) : (s.count n i k).out = s.out := rfl
@[simp] theorem State.count_draws (s : State) (n : Fin 16) (i k : Nat) : (s.count n i k).draws = s.draws := rfl
@[simp] theorem State.count_fn (s : State) (n : Fin 16) (i k : Nat) (m : Fin 16) : (s.count n i k).fn m = s.fn m := rfl
@[simp] theorem State.count_ring (s : State) (n : Fin 16) (i k : Nat) (m : Fin 16) (r : Fin 8) : (s.count n i k).ring m r = s.ring m r := rfl
@[simp] theorem State.count_port (s : State) (n : Fin 16) (i k : Nat) (m : Fin 24) : (s.count n i k).port m = s.port m := rfl

/-! ### countPort -/

@[simp] theorem State.countPort_pending (s : State) (n : Fin 24) (i k : Nat) : (s.countPort n i k).pending = s.pending := rfl
@[simp] theorem State.countPort_sram (s : State) (n : Fin 24) (i k : Nat) : (s.countPort n i k).sram = s.sram := rfl
@[simp] theorem State.countPort_badSram (s : State) (n : Fin 24) (i k : Nat) : (s.countPort n i k).badSram = s.badSram := rfl
@[simp] theorem State.countPort_transom (s : State) (n : Fin 24) (i k : Nat) : (s.countPort n i k).transom = s.transom := rfl
@[simp] theorem State.countPort_host (s : State) (n : Fin 24) (i k : Nat) : (s.countPort n i k).host = s.host := rfl
@[simp] theorem State.countPort_cistern (s : State) (n : Fin 24) (i k : Nat) : (s.countPort n i k).cistern = s.cistern := rfl
@[simp] theorem State.countPort_weights (s : State) (n : Fin 24) (i k : Nat) : (s.countPort n i k).weights = s.weights := rfl
@[simp] theorem State.countPort_laneq (s : State) (n : Fin 24) (i k : Nat) : (s.countPort n i k).laneq = s.laneq := rfl
@[simp] theorem State.countPort_chunk (s : State) (n : Fin 24) (i k : Nat) : (s.countPort n i k).chunk = s.chunk := rfl
@[simp] theorem State.countPort_chunkNan (s : State) (n : Fin 24) (i k : Nat) : (s.countPort n i k).chunkNan = s.chunkNan := rfl
@[simp] theorem State.countPort_sump (s : State) (n : Fin 24) (i k : Nat) : (s.countPort n i k).sump = s.sump := rfl
@[simp] theorem State.countPort_sumpNan (s : State) (n : Fin 24) (i k : Nat) : (s.countPort n i k).sumpNan = s.sumpNan := rfl
@[simp] theorem State.countPort_drains (s : State) (n : Fin 24) (i k : Nat) : (s.countPort n i k).drains = s.drains := rfl
@[simp] theorem State.countPort_parts (s : State) (n : Fin 24) (i k : Nat) : (s.countPort n i k).parts = s.parts := rfl
@[simp] theorem State.countPort_fns (s : State) (n : Fin 24) (i k : Nat) : (s.countPort n i k).fns = s.fns := rfl
@[simp] theorem State.countPort_cfg (s : State) (n : Fin 24) (i k : Nat) : (s.countPort n i k).cfg = s.cfg := rfl
@[simp] theorem State.countPort_spares (s : State) (n : Fin 24) (i k : Nat) : (s.countPort n i k).spares = s.spares := rfl
@[simp] theorem State.countPort_power (s : State) (n : Fin 24) (i k : Nat) : (s.countPort n i k).power = s.power := rfl
@[simp] theorem State.countPort_mbx (s : State) (n : Fin 24) (i k : Nat) : (s.countPort n i k).mbx = s.mbx := rfl
@[simp] theorem State.countPort_lcs (s : State) (n : Fin 24) (i k : Nat) : (s.countPort n i k).lcs = s.lcs := rfl
@[simp] theorem State.countPort_slots (s : State) (n : Fin 24) (i k : Nat) : (s.countPort n i k).slots = s.slots := rfl
@[simp] theorem State.countPort_ras (s : State) (n : Fin 24) (i k : Nat) : (s.countPort n i k).ras = s.ras := rfl
@[simp] theorem State.countPort_rasOverflow (s : State) (n : Fin 24) (i k : Nat) : (s.countPort n i k).rasOverflow = s.rasOverflow := rfl
@[simp] theorem State.countPort_evtStatus (s : State) (n : Fin 24) (i k : Nat) : (s.countPort n i k).evtStatus = s.evtStatus := rfl
@[simp] theorem State.countPort_evtFaultEn (s : State) (n : Fin 24) (i k : Nat) : (s.countPort n i k).evtFaultEn = s.evtFaultEn := rfl
@[simp] theorem State.countPort_evtError (s : State) (n : Fin 24) (i k : Nat) : (s.countPort n i k).evtError = s.evtError := rfl
@[simp] theorem State.countPort_sys (s : State) (n : Fin 24) (i k : Nat) : (s.countPort n i k).sys = s.sys := rfl
@[simp] theorem State.countPort_out (s : State) (n : Fin 24) (i k : Nat) : (s.countPort n i k).out = s.out := rfl
@[simp] theorem State.countPort_draws (s : State) (n : Fin 24) (i k : Nat) : (s.countPort n i k).draws = s.draws := rfl
@[simp] theorem State.countPort_part (s : State) (n : Fin 24) (i k : Nat) (m : Fin 16) : (s.countPort n i k).part m = s.part m := rfl
@[simp] theorem State.countPort_fn (s : State) (n : Fin 24) (i k : Nat) (m : Fin 16) : (s.countPort n i k).fn m = s.fn m := rfl
@[simp] theorem State.countPort_ring (s : State) (n : Fin 24) (i k : Nat) (m : Fin 16) (r : Fin 8) : (s.countPort n i k).ring m r = s.ring m r := rfl

/-! ### A read after a write -/

@[simp] theorem State.part_setPart_same (s : State) (n : Fin 16) (p : Part) : (s.setPart n p).part n = p := by
  simp [State.part, State.setPart]

theorem State.part_setPart_other (s : State) {n m : Fin 16} (p : Part) (h : m ≠ n) : (s.setPart n p).part m = s.part m := by
  simp only [State.part, State.setPart, Fin.getElem_fin]
  exact Vector.getElem_set_ne _ _ fun e => h (Fin.ext e.symm)

@[simp] theorem State.part_modPart_same (s : State) (n : Fin 16) (f : Part → Part) : (s.modPart n f).part n = f (s.part n) := by
  simp [State.modPart]

theorem State.part_modPart_other (s : State) {n m : Fin 16} (f : Part → Part) (h : m ≠ n) : (s.modPart n f).part m = s.part m :=
  State.part_setPart_other s _ h

@[simp] theorem State.fn_setFn_same (s : State) (n : Fin 16) (f : Fn) : (s.setFn n f).fn n = f := by
  simp [State.fn, State.setFn]

theorem State.fn_setFn_other (s : State) {n m : Fin 16} (f : Fn) (h : m ≠ n) : (s.setFn n f).fn m = s.fn m := by
  simp only [State.fn, State.setFn, Fin.getElem_fin]
  exact Vector.getElem_set_ne _ _ fun e => h (Fin.ext e.symm)

@[simp] theorem State.fn_modFn_same (s : State) (n : Fin 16) (g : Fn → Fn) : (s.modFn n g).fn n = g (s.fn n) := by
  simp [State.modFn]

theorem State.fn_modFn_other (s : State) {n m : Fin 16} (g : Fn → Fn) (h : m ≠ n) : (s.modFn n g).fn m = s.fn m :=
  State.fn_setFn_other s _ h

@[simp] theorem State.ring_setRing_same (s : State) (n : Fin 16) (r : Fin 8) (x : Ring) : (s.setRing n r x).ring n r = x := by
  simp [State.ring, State.setRing]

theorem State.ring_setRing_other (s : State) (n : Fin 16) {r k : Fin 8} (x : Ring) (h : k ≠ r) : (s.setRing n r x).ring n k = s.ring n k := by
  simp only [State.ring, State.setRing, State.fn_modFn_same, Fin.getElem_fin]
  exact Vector.getElem_set_ne _ _ fun e => h (Fin.ext e.symm)

theorem State.ring_setRing_otherFn (s : State) {n m : Fin 16} (r k : Fin 8) (x : Ring) (h : m ≠ n) : (s.setRing n r x).ring m k = s.ring m k := by
  rw [State.ring, State.setRing, State.fn_modFn_other s _ h, State.ring]

@[simp] theorem State.ring_modRing_same (s : State) (n : Fin 16) (r : Fin 8) (g : Ring → Ring) : (s.modRing n r g).ring n r = g (s.ring n r) := by
  simp [State.modRing]

theorem State.ring_modRing_other (s : State) (n : Fin 16) {r k : Fin 8} (g : Ring → Ring) (h : k ≠ r) :
    (s.modRing n r g).ring n k = s.ring n k := State.ring_setRing_other s n _ h

theorem State.ring_modRing_otherFn (s : State) {n m : Fin 16} (r k : Fin 8) (g : Ring → Ring) (h : m ≠ n) :
    (s.modRing n r g).ring m k = s.ring m k := State.ring_setRing_otherFn s r k _ h

@[simp] theorem State.port_setPort_same (s : State) (n : Fin 24) (p : Port) : (s.setPort n p).port n = p := by
  simp [State.port, State.setPort]

theorem State.port_setPort_other (s : State) {n m : Fin 24} (p : Port) (h : m ≠ n) : (s.setPort n p).port m = s.port m := by
  simp only [State.port, State.setPort, Fin.getElem_fin]
  exact Vector.getElem_set_ne _ _ fun e => h (Fin.ext e.symm)

@[simp] theorem State.port_modPort_same (s : State) (n : Fin 24) (f : Port → Port) : (s.modPort n f).port n = (f (s.port n)).tell n.val := by
  simp [State.modPort]

theorem State.port_modPort_other (s : State) {n m : Fin 24} (f : Port → Port) (h : m ≠ n) : (s.modPort n f).port m = s.port m :=
  State.port_setPort_other s _ h

end Sys2Proof.Machine
end

