-- ==== Sys2Proof/Laws/Only.lean ====
section
/-! SUPPORT. The updates of one unit leave every other unit alone: what the frames of the statements rest on. -/
namespace Sys2Proof
open Machine

theorem setPort_only (s : State) (q : Fin 24) (p : Port) : onlyPort q s (s.setPort q p) :=
  ⟨rfl, fun _ h => State.port_setPort_other s p h⟩
theorem modPort_only (s : State) (q : Fin 24) (f : Port → Port) : onlyPort q s (s.modPort q f) := setPort_only s q _
theorem countPort_only (s : State) (q : Fin 24) (i k : Nat) : onlyPort q s (s.countPort q i k) := setPort_only s q _
theorem onlyPort.trans {q : Fin 24} {s t u : State} (h : onlyPort q s t) (k : onlyPort q t u) : onlyPort q s u :=
  ⟨by rw [k.1, h.1], fun m e => (k.2 m e).trans (h.2 m e)⟩
theorem onlyPort.refl (q : Fin 24) (s : State) : onlyPort q s s := ⟨rfl, fun _ _ => rfl⟩

theorem setPart_only (s : State) (n : Fin 16) (p : Part) : onlyPart n s (s.setPart n p) :=
  ⟨rfl, fun _ h => State.part_setPart_other s p h⟩
theorem modPart_only (s : State) (n : Fin 16) (f : Part → Part) : onlyPart n s (s.modPart n f) := setPart_only s n _
theorem count_only (s : State) (n : Fin 16) (i k : Nat) : onlyPart n s (s.count n i k) := setPart_only s n _
theorem onlyPart.trans {n : Fin 16} {s t u : State} (h : onlyPart n s t) (k : onlyPart n t u) : onlyPart n s u :=
  ⟨by rw [k.1, h.1], fun m e => (k.2 m e).trans (h.2 m e)⟩
theorem onlyPart.refl (n : Fin 16) (s : State) : onlyPart n s s := ⟨rfl, fun _ _ => rfl⟩

theorem setFn_only (s : State) (n : Fin 16) (f : Fn) : onlyFn n s (s.setFn n f) := ⟨rfl, fun _ h => State.fn_setFn_other s f h⟩
theorem modFn_only (s : State) (n : Fin 16) (g : Fn → Fn) : onlyFn n s (s.modFn n g) := setFn_only s n _
theorem onlyFn.trans {n : Fin 16} {s t u : State} (h : onlyFn n s t) (k : onlyFn n t u) : onlyFn n s u :=
  ⟨by rw [k.1, h.1], fun m e => (k.2 m e).trans (h.2 m e)⟩

theorem setRing_only (s : State) (n : Fin 16) (r : Fin 8) (x : Ring) : onlyRing n r s (s.setRing n r x) :=
  ⟨modFn_only s n _, by simp [State.setRing], fun _ h => State.ring_setRing_other s n x h⟩
theorem modRing_only (s : State) (n : Fin 16) (r : Fin 8) (g : Ring → Ring) : onlyRing n r s (s.modRing n r g) := setRing_only s n r _
theorem onlyRing.trans {n : Fin 16} {r : Fin 8} {s t u : State} (h : onlyRing n r s t) (k : onlyRing n r t u) : onlyRing n r s u :=
  ⟨h.1.trans k.1, by rw [k.2.1, h.2.1], fun m e => (k.2.2 m e).trans (h.2.2 m e)⟩

end Sys2Proof
end

