-- ==== Sys2Proof/Laws/Line.lean ====
section
/-! SUPPORT. What a port tells its partner (Machine/Line.lean) changes nothing but what its transmitter counts and sends, and carries no DATA flit; the credits that it gives back are counted once, whether they have been sent or wait for a flit. -/
namespace Sys2Proof
open Machine

theorem sameButLine.refl (p : Port) : sameButLine p p := rfl
theorem sameButLine.trans {p q r : Port} (h : sameButLine p q) (k : sameButLine q r) : sameButLine p r := by
  unfold sameButLine at *
  rw [k, h]

/-- A port that is not up tells nothing. -/
theorem tell_down {p : Port} (h : linkUp p = false) (i : Nat) : p.tell i = p := by simp [Port.tell, h]

theorem send_same (k : FlitKind) (p : Port) : sameButLine p (p.send k) := rfl

theorem states_same (i : Nat) (l : List Nat) (p : Port) : sameButLine p (l.foldl (fun p _ => p.send (.state (p.stateBody i))) p) := by
  induction l generalizing p with
  | nil => exact sameButLine.refl p
  | cons x l ih => exact sameButLine.trans (send_same _ p) (ih _)

theorem put_same (i : Nat) (k : FlitKind) (p : Port) : sameButLine p (p.put i k) := by
  unfold Port.put
  refine sameButLine.trans (q := _) ?_ (send_same _ _)
  split
  · exact states_same i _ p
  · exact sameButLine.refl p

theorem announce_same (i : Nat) (p : Port) : sameButLine p (p.announce i) := by
  unfold Port.announce
  split
  · exact sameButLine.refl p
  · exact sameButLine.trans (q := { p with news := p.newsNow }) rfl (put_same _ _ _)

theorem flush_same (i k : Nat) (p : Port) : sameButLine p (p.flush i k) := by
  induction k generalizing p with
  | zero => exact sameButLine.refl p
  | succ k ih =>
    unfold Port.flush
    split
    · exact sameButLine.trans (put_same i .idle p) (ih _)
    · exact sameButLine.refl p

/-- Telling the partner changes only what the transmitter counts and sends. -/
theorem tell_same (i : Nat) (p : Port) : sameButLine p (p.tell i) := by
  unfold Port.tell
  split
  · exact sameButLine.trans (announce_same i p) (flush_same i 4 _)
  · exact sameButLine.refl p

/-! ### DATA flits -/

theorem dataSent_append (a b : List Sent) : dataSent (a ++ b) = dataSent a ++ dataSent b := by simp [dataSent]

/-- A flit that is no DATA flit. -/
def carriesNone (k : FlitKind) : Prop := ∀ q st bs, k ≠ .data q st bs

theorem send_data (p : Port) (q st : Nat) (bs : List Byte) : dataSent (p.send (.data q st bs)).line = dataSent p.line ++ [⟨q, st, bs⟩] := by
  simp [Port.send, dataSent]

theorem send_none (p : Port) {k : FlitKind} (h : carriesNone k) : dataSent (p.send k).line = dataSent p.line := by
  cases k with
  | data q st bs => exact absurd rfl (h q st bs)
  | idle => simp [Port.send, dataSent]
  | state b => simp [Port.send, dataSent]

theorem states_none (i : Nat) (l : List Nat) (p : Port) : dataSent (l.foldl (fun p _ => p.send (.state (p.stateBody i))) p).line = dataSent p.line := by
  induction l generalizing p with
  | nil => rfl
  | cons x l ih => rw [List.foldl_cons, ih, send_none p (fun _ _ _ => FlitKind.noConfusion)]

theorem put_data (i : Nat) (p : Port) (q st : Nat) (bs : List Byte) : dataSent (p.put i (.data q st bs)).line = dataSent p.line ++ [⟨q, st, bs⟩] := by
  unfold Port.put
  rw [send_data]
  split
  · rw [states_none]
  · rfl

theorem put_none (i : Nat) (p : Port) {k : FlitKind} (h : carriesNone k) : dataSent (p.put i k).line = dataSent p.line := by
  unfold Port.put
  rw [send_none _ h]
  split
  · rw [states_none]
  · rfl

theorem flush_none (i k : Nat) (p : Port) : dataSent (p.flush i k).line = dataSent p.line := by
  induction k generalizing p with
  | zero => rfl
  | succ k ih =>
    unfold Port.flush
    split
    · rw [ih, put_none i p (fun _ _ _ => FlitKind.noConfusion)]
    · rfl

/-- What a port tells its partner carries no DATA flit. -/
theorem tell_none (i : Nat) (p : Port) : dataSent (p.tell i).line = dataSent p.line := by
  unfold Port.tell
  split
  · rw [flush_none]
    unfold Port.announce
    split
    · rfl
    · rw [put_none i _ (fun _ _ _ => FlitKind.noConfusion)]
  · rfl

/-! ### Credits -/

theorem getV_sub (v : Vector Nat 4) (l k j : Nat) : getV (subCredits v l k) j = if j = l then getV v j - k else getV v j := by
  unfold subCredits getV
  by_cases hl : l < 4 <;> by_cases hj : j < 4 <;> simp [hl, hj, Vector.getElem_set] <;> (try split) <;> (try simp_all) <;> omega

theorem getV_add (v : Vector Nat 4) (l k j : Nat) : getV (addCredits v l k) j = if j = l ∧ l < 4 then getV v j + k else getV v j := by
  unfold addCredits getV
  by_cases hl : l < 4 <;> by_cases hj : j < 4 <;> simp [hl, hj, Vector.getElem_set] <;> (try split) <;> (try simp_all) <;> omega

/-- The credits that a flit takes are owed. -/
theorem credit_le (p : Port) (i : Nat) : (p.credit i).2 ≤ getV p.owedCredits (p.credit i).1 := by
  unfold Port.credit
  split
  · exact Nat.min_le_right _ _
  · exact Nat.zero_le _

theorem credit_ne (p : Port) (h : (p.credit 1).2 ≠ 0) : (p.credit 0).1 ≠ (p.credit 1).1 := by
  unfold Port.credit at *
  generalize hl : (List.range 4).filter (fun v => getV p.owedCredits v != 0) = l at *
  have hn : l.Nodup := by rw [← hl]; exact (List.nodup_range).filter _
  match l, hn with
  | [], _ => simp at h
  | [a], _ => simp at h
  | a :: b :: l, hn =>
    simp only [List.getElem?_cons_zero, List.getElem?_cons_succ]
    intro e
    simp [e] at hn

/-- Sending a flit gives back no credit twice and loses none. -/
theorem send_credits (k : FlitKind) (p : Port) (v : Nat) : creditsGiven (p.send k) v = creditsGiven p v := by
  have h0 := credit_le p 0
  have h1 := credit_le p 1
  have hne := credit_ne p
  simp only [creditsGiven, Port.send, List.map_append, List.map_cons, List.map_nil, List.sum_append, List.sum_cons, List.sum_nil, getV_sub]
  generalize p.credit 0 = a at *
  generalize p.credit 1 = b at *
  by_cases ha : a.1 = v <;> by_cases hb : b.1 = v
  · have h2 : b.2 = 0 := Classical.byContradiction fun h => hne h (ha.trans hb.symm)
    simp only [if_pos ha, if_pos hb, if_pos ha.symm, if_pos hb.symm, h2]
    rw [ha] at h0
    omega
  · simp only [if_pos ha, if_neg hb, if_pos ha.symm, if_neg fun e => hb (Eq.symm e)]
    rw [ha] at h0
    omega
  · simp only [if_neg ha, if_pos hb, if_pos hb.symm, if_neg fun e => ha (Eq.symm e)]
    rw [hb] at h1
    omega
  · simp only [if_neg ha, if_neg hb, if_neg fun e => hb (Eq.symm e), if_neg fun e => ha (Eq.symm e)]
    omega

theorem states_credits (i : Nat) (l : List Nat) (p : Port) (v : Nat) :
    creditsGiven (l.foldl (fun p _ => p.send (.state (p.stateBody i))) p) v = creditsGiven p v := by
  induction l generalizing p with
  | nil => rfl
  | cons x l ih => rw [List.foldl_cons, ih, send_credits]

theorem put_credits (i : Nat) (k : FlitKind) (p : Port) (v : Nat) : creditsGiven (p.put i k) v = creditsGiven p v := by
  unfold Port.put
  rw [send_credits]
  split
  · rw [states_credits]
  · rfl

/-- Telling the partner gives back no credit twice and loses none. -/
theorem tell_credits (i : Nat) (p : Port) (v : Nat) : creditsGiven (p.tell i) v = creditsGiven p v := by
  have hf : ∀ k (p : Port), creditsGiven (p.flush i k) v = creditsGiven p v := by
    intro k
    induction k with
    | zero => intro p; rfl
    | succ k ih =>
      intro p
      unfold Port.flush
      split
      · rw [ih, put_credits]
      · rfl
  unfold Port.tell
  split
  · rw [hf]
    unfold Port.announce
    split
    · rfl
    · rw [put_credits]
      rfl
  · rfl

end Sys2Proof
end

