-- ==== Sys2Proof/Laws/Settle.lean ====
section
/-! SUPPORT. Where nothing waits, what follows a command changes nothing: settle, the gates and the held STEP_OPENs leave such a state as it is. -/
namespace Sys2Proof.Machine

theorem foldl_same {α β : Type} {f : β → α → β} {b : β} {l : List α} (h : ∀ a ∈ l, f b a = b) : l.foldl f b = b := by
  induction l with
  | nil => rfl
  | cons a l ih =>
    rw [List.foldl_cons, h a List.mem_cons_self]
    exact ih fun x hx => h x (List.mem_cons_of_mem _ hx)

theorem mem_allRings (r : Fin 8) : r ∈ allRings := List.mem_finRange r
theorem mem_allParts (n : Fin 16) : n ∈ allParts := List.mem_finRange n
theorem mem_allPorts (n : Fin 24) : n ∈ allPorts := List.mem_finRange n

/-- What atRest says of a flight. -/
theorem atRest_flight {s : State} {n : Fin 16} (h : atRest s n = true) (r : Fin 8) {f : Flight} (hf : f ∈ (s.ring n r).flights) :
    f.phase ≠ .waiting ∧ f.phase ≠ .gate ∧ dOpcode f.d ≠ 0x01 := by
  simp only [atRest, Bool.and_eq_true, List.all_eq_true] at h
  have := h.2 r (mem_allRings r) f hf
  simpa [and_assoc] using this

theorem atRest_traps {s : State} {n : Fin 16} (h : atRest s n = true) : (s.part n).traps = [] := by
  simp only [atRest, Bool.and_eq_true] at h
  exact List.isEmpty_iff.1 h.1

theorem quiet_atRest {s : State} {n : Fin 16} (h : quiet s n = true) : atRest s n = true := by
  simp only [quiet, atRest, Bool.and_eq_true, List.all_eq_true] at *
  refine ⟨h.1, fun r hr f hf => ?_⟩
  have := List.isEmpty_iff.1 (h.2 r hr)
  rw [this] at hf
  exact absurd hf (by simp)

theorem quiet_flights {s : State} {n : Fin 16} (h : quiet s n = true) (r : Fin 8) : (s.ring n r).flights = [] := by
  simp only [quiet, Bool.and_eq_true, List.all_eq_true] at h
  exact List.isEmpty_iff.1 (h.2 r (mem_allRings r))

theorem checkFences_none {s : State} {n : Fin 16}
    (h : ∀ r, ∀ f ∈ (s.ring n r).flights, dOpcode f.d = 0x01 → f.phase = .running → (s.ring n r).stop ≠ .halted → fenceMet s n f.d = false) :
    checkFences s n = s := by
  unfold checkFences
  refine foldl_same fun x hx => ?_
  simp only [flightsWhere, List.mem_flatMap, List.mem_map, List.mem_filter] at hx
  obtain ⟨r, -, f, ⟨hf, hp⟩, rfl⟩ := hx
  simp only [Bool.and_eq_true, beq_iff_eq] at hp
  by_cases hs : (s.ring n r).stop = .halted
  · simp [hs]
  · simp [h r f hf hp.1 hp.2 hs]

theorem checkFences_atRest {s : State} {n : Fin 16} (h : atRest s n = true) : checkFences s n = s :=
  checkFences_none fun r _ hf e => absurd e (atRest_flight h r hf).2.2

theorem findFlight_mem {s : State} {n : Fin 16} {r : Fin 8} {q : Nat} {f : Flight} (h : findFlight s n r q = some f) :
    f ∈ (s.ring n r).flights := List.mem_of_find?_eq_some h

/-- A flight that does not wait is not begun again. -/
theorem startOne_same {s : State} {n : Fin 16} {r : Fin 8} {q : Nat}
    (h : ∀ f ∈ (s.ring n r).flights, f.phase = .waiting → isColl (dOpcode f.d) = true) : startOne s n r q = s := by
  unfold startOne
  split
  · rename_i f hf
    by_cases hp : f.phase = .waiting
    · simp [hp, h f (findFlight_mem hf) hp]
    · simp [hp]
  · rfl

theorem startRings_same {s : State} {n : Fin 16}
    (h : ∀ r, ∀ f ∈ (s.ring n r).flights, f.phase = .waiting → isColl (dOpcode f.d) = true) :
    allRings.foldl (fun s r => startRing s n r) s = s :=
  foldl_same fun r _ => foldl_same fun _ _ => startOne_same (h r)

theorem trapReport_same {s : State} {n : Fin 16} (h : (s.part n).traps = []) : trapReport s n = s := by
  unfold trapReport
  have : lowestTrap (s.part n).traps = none := by rw [h]; rfl
  simp only [this]
  split <;> simp_all

/-- Where nothing waits, nothing follows. -/
theorem settle_same {s : State} {n : Fin 16} (h1 : checkFences s n = s)
    (h2 : ∀ r, ∀ f ∈ (s.ring n r).flights, f.phase = .waiting → isColl (dOpcode f.d) = true) (h3 : (s.part n).traps = []) : settle s n = s := by
  unfold settle
  rw [h1, startRings_same h2, trapReport_same h3]

theorem settle_atRest {s : State} {n : Fin 16} (h : atRest s n = true) : settle s n = s :=
  settle_same (checkFences_atRest h) (fun r _ hf e => absurd e (atRest_flight h r hf).1) (atRest_traps h)

theorem heldOpen_none {x : Ring} (h : ∀ f ∈ x.flights, dOpcode f.d = 0x03 → f.phase ≠ .gate) : heldOpen x = none := by
  unfold heldOpen
  rw [List.find?_eq_none]
  intro f hf hp
  simp only [Bool.and_eq_true, beq_iff_eq] at hp
  exact h f hf hp.1 hp.2

theorem heldStep_none {s : State} {n : Fin 16} (h : ∀ r, heldOpen (s.ring n r) = none) : heldStep s n = none := by
  unfold heldStep
  rw [List.findSome?_eq_none_iff]
  intro r _
  rw [h r]; rfl

/-- Without a held STEP_OPEN there is nothing to try. -/
theorem tryOpen_same {s : State} {n : Fin 16} (h : ∀ r, heldOpen (s.ring n r) = none) : tryOpen s n = s := by
  unfold tryOpen
  simp [heldStep_none h]

theorem atRest_heldOpen {s : State} {n : Fin 16} (h : atRest s n = true) (r : Fin 8) : heldOpen (s.ring n r) = none :=
  heldOpen_none fun _ hf _ => (atRest_flight h r hf).2.1

theorem tryOpen_atRest {s : State} {n : Fin 16} (h : atRest s n = true) : tryOpen s n = s := tryOpen_same (atRest_heldOpen h)

theorem releaseHeld_same {s : State} (h : ∀ n r, heldOpen (s.ring n r) = none) : releaseHeld s = s :=
  foldl_same fun n _ => tryOpen_same (h n)

theorem differs_same {s : State} (h : s.cfg.force = s.cfg.committed) (o : Nat) : differs s o = false := by
  simp [differs, h]

theorem devPending_same {s : State} (h : s.cfg.force = s.cfg.committed) : devPending s = false := by
  simp [devPending, differs_same h]

theorem forceUnowned_same {s : State} (h : s.cfg.force = s.cfg.committed) : forceUnowned s = s := by
  unfold forceUnowned forcePorts
  refine foldl_same fun o _ => ?_
  split
  · simp [differs_same h]
  · rfl

theorem gateIfIdle_same {s : State} {n : Fin 16} (h : hasRequests s n = false) : gateIfIdle s false n = s := by
  simp [gateIfIdle, bumpIf, h]

/-- In a calm state the gates have nothing to do. -/
theorem settleGates_calm {s : State} (h : calm s = true) : settleGates s = s := by
  simp only [calm, Bool.and_eq_true, List.all_eq_true, Bool.not_eq_true', beq_iff_eq] at h
  obtain ⟨⟨h1, h2⟩, h3⟩ := h
  unfold settleGates
  have hd : applyDeviceIf s none = (s, false) := by
    unfold applyDeviceIf
    simp [devPending_same h2, h3]
  simp only [forceUnowned_same h2, hd]
  rw [foldl_same fun n hn => gateIfIdle_same (h1 n hn).2]
  exact releaseHeld_same fun n r => atRest_heldOpen (h1 n (mem_allParts n)).1 r

/-- Without a held parcel there is nothing to check again. -/
theorem recheck_same {s : State} (h : noneHeld s = true) : recheck s = s := by
  simp only [noneHeld, List.all_eq_true, List.isEmpty_iff] at h
  have : heldCount s = 0 := by
    unfold heldCount
    rw [List.map_congr_left fun q hq => by rw [h q hq]]
    rfl
  unfold recheck
  rw [this]
  rfl

end Sys2Proof.Machine
end

