-- ==== Sys2Proof/Tests/Slice0.lean ====
section
/-! SUPPORT. Tests: well-formedness, a smoke test of each family, and for every statement a state and operands that meet its hypotheses. Expected results are worked by hand from the spec. -/

set_option Elab.async false

namespace Sys2Proof.Tests
open Sys2Proof Sys2Proof.Machine

/-! ### Small machines -/

def desc (fs : List (Nat × Nat × Nat × Nat)) : Desc := packFields 512 fs

/-- A tensor entry: base, format, rank, extents, strides 1 and 2, fine base. -/
def tens (base fmt rank e0 e1 e2 s1 s2 fine : Nat) : BitVec 512 :=
  packFields 512 [(0, 0, 48, base), (6, 0, 4, fmt), (6, 4, 3, rank), (6, 7, 1, 1), (8, 0, 24, e0), (11, 0, 24, e1), (14, 0, 24, e2),
    (17, 0, 24, 1), (20, 0, 24, 1), (24, 0, 32, s1), (28, 0, 32, s2), (44, 0, 48, fine)]

def tensors : List (BitVec 512) :=
  [tens 0x0 0 1 4 1 1 0 0 0, tens 0x400 0 1 4 1 1 0 0 0, tens 0x1000 1 2 64 32 1 128 0 0, tens 0x4000 1 2 64 16 1 128 0 0,
   tens 0x8000 0 2 8 2 1 32 0 0, tens 0x9000 0 2 8 2 1 32 0 0, tens 0xA000 3 2 4 2 1 32 0 0, tens 0xB000 4 3 4 2 3 32 64 0xC000,
   tens 0x10000 1 3 64 32 1 128 4096 0, tens 0x14000 1 3 64 16 1 128 4096 0]

/-- COPY of tensor 0 to tensor 1. -/
def dCopy : Desc := desc [(0, 0, 8, 0x08), (8, 0, 12, 0), (10, 0, 12, 1)]
def gemmFields (op a b m k : Nat) : List (Nat × Nat × Nat × Nat) :=
  [(0, 0, 8, op), (8, 0, 12, a), (10, 0, 12, b), (12, 0, 24, m), (20, 0, 32, k), (28, 0, 32, k), (33, 0, 8, 1), (34, 0, 8, 32),
   (40, 0, 32, 0x1000000)]
def dGemm : Desc := desc (gemmFields 0x10 2 3 32 64 ++ [(15, 0, 24, 16)])
/-- A GEMM with a sump tile held open. -/
def dHold : Desc := desc (gemmFields 0x10 2 3 32 64 ++ [(15, 0, 24, 16), (35, 0, 8, 0x84), (36, 0, 1, 1)])
def dPacked : Desc := desc (gemmFields 0x11 8 9 32 64 ++ [(15, 0, 8, 16), (16, 0, 16, 1)])
def dConv : Desc := desc (gemmFields 0x12 2 3 32 64 ++ [(15, 0, 24, 16), (44, 0, 16, 32), (46, 0, 16, 1), (48, 0, 16, 1)])
def dSlice : Desc := desc [(0, 0, 8, 0x13), (8, 0, 12, 6), (10, 0, 12, 7), (18, 0, 4, 3), (33, 0, 8, 1)]
def dMultiply : Desc := desc [(0, 0, 8, 0x13), (8, 0, 12, 7), (10, 0, 12, 7), (12, 0, 24, 2), (15, 0, 24, 2), (18, 0, 4, 3), (18, 4, 1, 1), (20, 0, 32, 4),
  (28, 0, 32, 4), (33, 0, 8, 1), (34, 0, 8, 2), (40, 0, 32, 0x1000000)]
def dStrict : Desc := desc [(0, 0, 8, 0x14), (8, 0, 12, 4), (10, 0, 12, 4), (12, 0, 24, 2), (15, 0, 24, 2), (20, 0, 32, 4), (28, 0, 32, 4),
  (33, 0, 8, 1), (34, 0, 8, 32), (36, 5, 2, 1), (40, 0, 32, 5)]
def dOpen : Desc := desc [(0, 0, 8, 0x20), (8, 0, 8, 2), (12, 0, 22, 1024), (16, 0, 23, 4)]
def dAdd : Desc := desc [(0, 0, 8, 0x21), (8, 0, 12, 0), (12, 0, 32, 0x1000000)]
def dAddRaw : Desc := desc [(0, 0, 8, 0x21), (10, 0, 1, 1), (12, 0, 32, 0x1000000), (16, 0, 48, 0x600), (24, 0, 23, 1)]
def dRead : Desc := desc [(0, 0, 8, 0x22), (8, 0, 12, 0), (12, 0, 32, 0x1000000), (24, 0, 23, 4)]
def dClose : Desc := desc [(0, 0, 8, 0x23), (8, 0, 8, 1)]
def dColl (op : Nat) : Desc :=
  if op = 0x35 then desc [(0, 0, 8, op), (9, 0, 8, 1)]
  else if op = 0x36 then desc [(0, 0, 8, op), (9, 0, 8, 1), (32, 0, 24, 4), (35, 0, 3, 2), (40, 0, 32, 0x1000000)]
  else if op = 0x33 ∨ op = 0x34 then desc [(0, 0, 8, op), (9, 0, 8, 1), (16, 0, 32, 4), (20, 0, 32, 0), (24, 0, 32, 1)]
  else desc [(0, 0, 8, op), (9, 0, 8, 1), (16, 0, 32, 4), (20, 0, 32, 0), (24, 0, 32, 0x1000000)]

/-- A domain of one rank on plane 0. -/
def alone : BitVec 2304 := packFields 2304 [(0, 0, 32, 7), (12, 0, 8, 1), (32, 0, 4, 1), (33, 7, 1, 1)]
/-- Rank 1 of two, its parent on sluice 0. -/
def child : BitVec 2304 := packFields 2304 [(0, 0, 32, 7), (8, 0, 16, 1), (10, 0, 16, 1), (12, 0, 8, 1), (32, 0, 4, 1), (33, 0, 5, 0)]
/-- A mirror table with a partner of rank 1 on sluice 1, and one basin granule that persists. -/
def mirrored : BitVec 768 := packFields 768 [(38, 0, 16, 1), (40, 0, 24, 2), (43, 0, 3, 5)]

def plan (planes : BitVec 2304) (mirror : BitVec 768) : Plan :=
  { active := 1, test := false, tensors := tensors, taps := [], planes := planes, mirror := mirror, gens := [],
    own := [packFields 64 [(0, 0, 8, 1), (3, 0, 8, 8)], packFields 64 [(0, 0, 8, 2), (4, 6, 23, 65536)], packFields 64 [(0, 0, 8, 3), (2, 0, 8, 0xFF)]],
    manifest := ([dCopy, dGemm, dHold, dPacked, dConv, dSlice, dMultiply, dOpen] ++ [0x30, 0x31, 0x32, 0x33, 0x34, 0x35, 0x36].map dColl).map manifestOf }

/-- A powered machine whose host link is up. -/
def up : State :=
  { State.reset with
    sys := { Sys.reset with porst := false, perst := false, rails := true, coreUp := true, ready := true, linkUp := true, optUp := true },
    lcs := { Lcs.reset with fwUp := true }, power := { Power.reset with code := 68, measCode := 68 } }

/-- What a power-up finds. -/
def env : BootEnv := { powerSerial := 0, mgtClk := true, hot := false, railsUp := true, enabled := 128, spareBasins := 0, basinMap := [], bankMap := [], engines := [], wipeMismatch := [], coreReady := true }

/-- Ring 0 of partition 0 enabled with descriptors waiting. -/
def ringed : State := up.modRing 0 0 fun x => { x with ctl := 0xD, tail := 10 }

/-- The same with a plan. -/
def planned : State := ringed.modPart 0 fun p => { p with plan := some (plan alone 0) }

/-- A step record. -/
def stepRec (n : Nat) (seals : Nat) (fate : Fate) : StepRec :=
  { n := n, seed := 0, gen := 0, settings := ⟨0, 0x12, [], []⟩, runs := 1, touched := [], seals := seals, retired := fate != .open_, fate := fate, failBits := 0, localDone := false, acked := false, handles := [], words := [],
    resid := [], bytes := 0, dirty := [] }

def hand : Handle := { num := 1, fn := 0, ring := 0, base := 0, count := 512, wexp := 0, crnd := false, stripe := false, carry := false, step := 1, closing := false }

/-- Step 1 open on ring 0, with handle 1 over words 0 to 511. -/
def stepping : State :=
  (planned.modRing 0 0 fun x => { x with openStep := some 1, lastStep := 1 }).modPart 0 fun p => { p with
    openStep := some 1, opened := 1, openedValid := true, steps := [stepRec 1 0 .open_], handles := [hand] }

/-- One descriptor in flight on ring 0. -/
def flying (s : State) (d : Desc) (ph : Phase) : State := push s 0 0 (newFlight s 0 0 d ph .none)

/-- What a command answers as a next state. -/
def after (c : Instr) (s : State) : Option State := match exec c s with | .next t => some t | _ => none

/-! ### Well-formed commands, one ill-formed term for each check -/

theorem test_wellformed : WellFormed (.gemm 0 0 dGemm) = true ∧ WellFormed (.cascadeSlice 0 ⟨0, .none⟩ dSlice) = true ∧ WellFormed (.snapInfo .host 0x10) = true ∧ WellFormed .beaconTick = true := by
  decide +kernel
/-- A descriptor of another row; an undefined opcode fits every row (R369). -/
theorem test_illformed_opcode : WellFormed (.nop 0 0 dGemm) = false ∧ WellFormed (.nop 0 0 (desc [(0, 0, 8, 0x99)])) = true := by decide +kernel
theorem test_illformed_phase : WellFormed (.cascadeMultiply 0 0 dSlice) = false := by decide +kernel
theorem test_illformed_mailbox : WellFormed (.snapInfo .host 0x11) = false := by decide +kernel
theorem test_illformed_sensors : WellFormed (.powerSample { die := 0, input := 0, sensors := [], vin := 0, iin := 0, amps := 0, phases := 24, overcurrent := false, stageHot := false }) = false := by decide +kernel
theorem test_illformed_reading : WellFormed (.sentinelMeasure [(63, 0)]) = true ∧ WellFormed (.sentinelMeasure [(64, 0)]) = false := by decide +kernel
theorem test_illformed_boot : WellFormed (.porstRelease env) = true ∧ WellFormed (.porstRelease { env with spareBasins := 9 }) = false ∧ WellFormed (.porstRelease { env with enabled := 129 }) = false := by decide +kernel
/-- What an ill-formed descriptor row meets. -/
theorem test_row_mismatch : (exec (.nop 0 0 dGemm) stepping matches .fault (.commandMismatch 0x10)) = true := by decide +kernel
theorem test_no_words : decodeTableWord 32 0 = none ∧ up.withFetchWord 32 0 = up := by decide +kernel

/-! ### Results worked by hand -/

/-- The BP4 codes of R53: 0x3 is +1.5, 0x7 is +6, 0x9 is −0.5. -/
theorem test_bp4 : bp4.decode 3 = .fin false 3 2 ∧ bp4.decode 7 = .fin false 6 1 ∧ bp4.decode 9 = .fin true 1 2 := by decide +kernel
/-- maximum(−0, +0) is +0 (R47). -/
theorem test_maximum_zeros : Val.maximum (fp32.decode 0x80000000) (fp32.decode 0) = fp32.decode 0 := by decide +kernel
/-- 1 + 2^-24 lies halfway and rounds to even. -/
theorem test_round_even : fp32AddRne 0x3F800000 0x33800000 = 0x3F800000 := by decide +kernel
/-- 3.0 enters a word of WEXP 0 as 3, and −0 leaves no trace (R141, R142). -/
theorem test_entry : entryOf 0 false (fp32.decode 0x40400000) = (3, 0) ∧ entryOf 0 false (fp32.decode 0x80000000) = (0, 0) := by decide +kernel
/-- RES follows DATA modulo 127 through a wrap of DATA: all ones plus one is zero (R137). -/
theorem test_word_wraps : addWord (mkWord (BitVec.allOnes 128) 0) 1 0 = mkWord 0 0 := by decide +kernel
/-- 1 × 1 + 1 × 1 is 2, exactly. -/
theorem test_strict_dot : strictDot fp32 [(0x3F800000, 0x3F800000), (0x3F800000, 0x3F800000)] = (0x40000000, 0) := by decide +kernel
/-- The check value of CRC-32C over "123456789". -/
theorem test_crc32c : crc32c [0x31, 0x32, 0x33, 0x34, 0x35, 0x36, 0x37, 0x38, 0x39] = 0xE3069283 := by decide +kernel
/-- Philox4x32-10 with counter and key zero. -/
theorem test_philox : philox 0 0 0 0 0 0 = (0x6627E8D5, 0xE169C58D, 0xBC57AC4C, 0x9B00DBD8) := by decide +kernel
theorem test_doorbell : (after (.doorbell 0 0 0 4 20) ringed).map (fun t => (t.ring 0 0).tail) = some 20 := by decide +kernel
/-- A doorbell out of bounds: VALID, the page of ring 0, BAD_TAIL. -/
theorem test_bad_doorbell : (after (.doorbell 0 0 0 4 75) ringed).map (fun t => ((t.ring 0 0).tail, (t.fn 0).lastError, (t.fn 0).errorValue)) = some (10, 0x81000003, 75) := by decide +kernel
theorem test_copy : (after (.copy 0 0 dCopy .none) { stepping with sram := [(0, 1), (5, 9), (0x402, 7)] }).map (fun t => t.sram) =
    some [(0, 1), (5, 9), (0x400, 1), (0x405, 9)] := by decide +kernel
/-- HALT_IN holds a step that has not opened. -/
theorem test_halt_holds : (after (.haltInChange true 0) up).map (fun t => mayOpen t 0 1) = some false := by decide +kernel
theorem test_lane_adds : (after (.cisternLaneOp 0 0 0 .none) { flying stepping dAdd .running with laneq := [⟨⟨0, 0, 0⟩, 0, .add 5 0⟩] }).map
    (fun t => ((getWord t 0).data, ((t.ring 0 0).flights.map fun f => f.phase))) = some (5, [.done]) := by decide +kernel


end Sys2Proof.Tests
end

section
/-! The identity registers: what a read of a served source does, what a read of the ID block answers, and O7. -/
namespace Sys2Proof.Machine

/-- A served access is carried out; only the management port is told of it, by its answer (R451). -/
theorem served_of_mayServe {s : State} {src : Src} (k : State → State) (h : mayServe s src = true) :
    served s src k = { k s with out := { (k s).out with answer := if src = .port then 2 else (k s).out.answer } } := by
  cases src with
  | host =>
    have reaches : hostReaches s 0 = true := h
    simp [served, reaches]
  | port =>
    have released : s.sys.porst = false := by simpa [mayServe] using h
    simp [served, released]

/-! ### The ID block: offsets below 0x1_0000 -/

/-- Both sources reach the ID block (R452). -/
theorem bar0ReadBy_idBlock (s : State) (src : Src) {off : Nat} (size : Nat) (h : off < 0x10000) :
    bar0ReadBy s src off size = bar0Read s off size := by
  cases src with
  | host => rfl
  | port =>
    have reached : portReaches off = true := by simp [portReaches, Nat.div_eq_of_lt h]
    simp [bar0ReadBy, reached]

/-- No register of the ID block is staged: it reads the block's own value. -/
theorem bar0Value_idBlock (s : State) {off : Nat} (h : off < 0x10000) : bar0Value s off = idValue s off := by
  have block : off / 0x10000 = 0 := Nat.div_eq_of_lt h
  have kind : regKind off = .readOnly ∨ regKind off = .unmapped := by
    simp only [regKind, block]
    split
    · exact .inl rfl
    · exact .inr rfl
  rcases kind with kind | kind <;> simp only [bar0Value, kind, block]

/-- No time passes for a read of the ID block: it is no register of a port. -/
theorem passTime_idBlock (s : State) {off : Nat} (h : off < 0x10000) : passTime s off = s :=
  if_neg fun port => by omega

/-- A read of the ID block clears and captures nothing (R412). -/
theorem bar0Effect_idBlock (s : State) {off : Nat} (h : off < 0x10000) : bar0Effect s off = s := by
  have noFingerprint : regIndex off 0x10200 4 32 = none := if_neg fun inside => by omega
  rw [bar0Effect, if_neg (by omega), if_neg (by omega), noFingerprint]

/-- An aligned read of the ID block answers its value and changes nothing else. -/
theorem bar0Read_idBlock (s : State) {off : Nat} (h : off < 0x10000) (aligned : off % 4 = 0) :
    bar0Read s off 4 = { s with out := { s.out with readData := BitVec.ofNat 64 (idValue s off) } } := by
  have notData : off ≠ 0xB000C := by omega
  simp [bar0Read, aligned, notData, passTime_idBlock s h, bar0Effect_idBlock s h, bar0Value_idBlock s h]

/-- REGISTER_READ of an aligned word of the ID block, by either source. -/
theorem registerRead_idBlock {s : State} {src : Src} {off : Nat} (may : mayServe s src = true) (h : off < 0x10000)
    (aligned : off % 4 = 0) :
    ∃ t, exec (.registerRead src .bar0 off 4) s = .next t ∧ t.out.readData = BitVec.ofNat 64 (idValue s off) ∧
      t = { s with out := t.out } := by
  have run : exec (.registerRead src .bar0 off 4) s = .next (served s src fun s => bar0ReadBy s src off 4) := rfl
  rw [run, served_of_mayServe _ may, bar0ReadBy_idBlock s src 4 h, bar0Read_idBlock s h aligned]
  exact ⟨_, rfl, rfl, rfl⟩

/-- Settles O7: ID_BLOCK_VERSION and ID_STEPPING are words of the ID block, whose values are constants. -/
theorem identityRegistersReadTheirConstants : Obligations.IdentityRegistersReadTheirConstants := by
  intro s src may
  exact ⟨registerRead_idBlock may (by decide) rfl, registerRead_idBlock may (by decide) rfl⟩

/-- A machine right after reset but for its power and its host link, which are up: both sources are served. -/
def poweredUp : State :=
  { State.reset with sys := { Sys.reset with porst := false, ready := true, linkUp := true } }

/-- O7's hypothesis is met: the host and the management port both read the version of a powered machine. -/
theorem poweredUp_reads_blockVersion (src : Src) :
    ∃ t, exec (.registerRead src .bar0 0x0 4) poweredUp = .next t ∧ t.out.readData = 0x00020001 ∧ t = { poweredUp with out := t.out } := by
  have may : mayServe poweredUp src = true := by cases src <;> rfl
  exact (identityRegistersReadTheirConstants poweredUp src may).1

end Sys2Proof.Machine
end

section
/-! Array descriptors (GEMM, GEMM_PACKED, CONV and the MULTIPLY phase of CASCADE_GEMM): what an accepted one does as it issues on a quiet partition, and O44. -/
namespace Sys2Proof.Machine

/-! ### A ring with a single flight -/

/-- Two changes of one ring are one change. -/
theorem State.modRing_modRing (s : State) (n : Fin 16) (r : Fin 8) (g h : Ring → Ring) :
    (s.modRing n r g).modRing n r h = s.modRing n r fun x => h (g x) := by
  simp [State.modRing, State.setRing, State.modFn, State.setFn, State.ring, State.fn]

@[simp] theorem push_part (s : State) (n : Fin 16) (r : Fin 8) (f : Flight) (m : Fin 16) : (push s n r f).part m = s.part m := rfl

@[simp] theorem push_ring_same (s : State) (n : Fin 16) (r : Fin 8) (f : Flight) : (push s n r f).ring n r = took (s.ring n r) f :=
  State.ring_modRing_same s n r _

theorem push_ring_other (s : State) (n : Fin 16) {r k : Fin 8} (f : Flight) (h : k ≠ r) : (push s n r f).ring n k = s.ring n k :=
  State.ring_modRing_other s n _ h

theorem push_only (s : State) (n : Fin 16) (r : Fin 8) (f : Flight) : onlyRing n r s (push s n r f) := modRing_only s n r _

/-- On a ring that was empty, the descriptor that it takes is the one in flight. -/
theorem findFlight_push_alone {s : State} {n : Fin 16} {r : Fin 8} (empty : (s.ring n r).flights = []) (f : Flight) :
    findFlight (push s n r f) n r f.seq = some f := by
  simp [findFlight, took, empty]

theorem ahead_push_alone {s : State} {n : Fin 16} {r : Fin 8} (empty : (s.ring n r).flights = []) (f : Flight) :
    ahead (push s n r f) n r f.seq = [] := by
  simp [ahead, took, empty]

theorem modFlight_push_alone {s : State} {n : Fin 16} {r : Fin 8} (empty : (s.ring n r).flights = []) (f : Flight) (g : Flight → Flight) :
    modFlight (push s n r f) n r f.seq g = push s n r (g f) := by
  unfold modFlight modFlights push
  rw [State.modRing_modRing]
  simp [State.modRing, empty]

/-- A partition at rest stays at rest when it takes a descriptor that runs or is done and is no FENCE. -/
theorem atRest_push {s : State} {n : Fin 16} {r : Fin 8} {f : Flight} (rest : atRest s n = true) (notWaiting : f.phase ≠ .waiting)
    (notGate : f.phase ≠ .gate) (notFence : dOpcode f.d ≠ 0x01) : atRest (push s n r f) n = true := by
  simp only [atRest, Bool.and_eq_true, List.all_eq_true]
  refine ⟨by simp [atRest_traps rest], fun k _ e mem => ?_⟩
  have old : ∀ e ∈ (s.ring n k).flights, e.phase ≠ .waiting ∧ e.phase ≠ .gate ∧ dOpcode e.d ≠ 0x01 := fun _ => atRest_flight rest k
  have clear : e.phase ≠ .waiting ∧ e.phase ≠ .gate ∧ dOpcode e.d ≠ 0x01 := by
    by_cases same : k = r
    · subst same
      rw [push_ring_same, took, List.mem_append, List.mem_singleton] at mem
      rcases mem with mem | rfl
      · exact old e mem
      · exact ⟨notWaiting, notGate, notFence⟩
    · rw [push_ring_other s n f same] at mem
      exact old e mem
  simpa [and_assoc] using clear

/-! ### Descriptors with units -/

/-- The opcodes whose units the basins begin one at a time (R89, R178). -/
theorem hasUnits_iff (d : Desc) :
    hasUnits d = true ↔ dOpcode d = 0x10 ∨ dOpcode d = 0x11 ∨ dOpcode d = 0x12 ∨ (dOpcode d = 0x13 ∧ gPhase d = true) := by
  simp [hasUnits, or_assoc]

/-- Its units wait for ARRAY_UNIT_BEGIN: the start of the descriptor does no work of its own. -/
theorem beginFlight_hasUnits (s : State) (n : Fin 16) (r : Fin 8) {f : Flight} (units : hasUnits f.d = true) : beginFlight s n r f = s := by
  rcases (hasUnits_iff f.d).1 units with op | op | op | ⟨op, phase⟩
  case inr.inr.inr => simp [beginFlight, op, phase]
  all_goals simp [beginFlight, op]

theorem isColl_hasUnits {d : Desc} (units : hasUnits d = true) : isColl (dOpcode d) = false := by
  have := (hasUnits_iff d).1 units
  simp only [isColl, decide_eq_false_iff_not]
  omega

/-- A descriptor with units that is alone on its ring starts at once. -/
theorem startOne_push_hasUnits {s : State} {n : Fin 16} {r : Fin 8} (empty : (s.ring n r).flights = []) {f : Flight}
    (units : hasUnits f.d = true) (waits : f.phase = .waiting) :
    startOne (push s n r f) n r f.seq = push s n r { f with phase := .running } := by
  have free : ready (push s n r f) n r f = true := by simp [ready, ahead_push_alone empty, basinsFree, units]
  simp only [startOne, findFlight_push_alone empty, waits, isColl_hasUnits units, free, modFlight_push_alone empty]
  exact beginFlight_hasUnits _ n r units

/-- A ring that may issue takes a descriptor of its own row whose conditions all hold. -/
theorem issueWith_accepted {s : State} {n : Fin 16} {r : Fin 8} {row : Bool} {d : Desc} {own : Option (Nat × Nat)} (act : State)
    (may : mayIssue s n r = true) (mine : row = true) (accepted : evaluate s n r d own = none) :
    issueWith s n r row d own act = .next (settle act n) := by
  simp [issueWith, may, mine, accepted]

/-! ### The sump tiles -/

theorem acceptTile_only (s : State) (n : Fin 16) (r : Fin 8) (d : Desc) : onlyPart n s (acceptTile s n r d) := setPart_only s n _

@[simp] theorem acceptTile_ring (s : State) (n : Fin 16) (r : Fin 8) (d : Desc) (m : Fin 16) (k : Fin 8) :
    (acceptTile s n r d).ring m k = s.ring m k := rfl

theorem acceptTile_part (s : State) (n : Fin 16) (r : Fin 8) (d : Desc) :
    (acceptTile s n r d).part n = { s.part n with tiles := ((acceptTile s n r d).part n).tiles } := by
  simp [acceptTile]

/-- HOLD leaves the descriptor's sump tile OPEN, with the end of its K range (R96). -/
theorem acceptTile_opens (s : State) (n : Fin 16) (r : Fin 8) {d : Desc} (hold : gHold d = true) :
    ∃ x ∈ ((acceptTile s n r d).part n).tiles,
      x.ring = r.val ∧ x.first = gFirst d ∧ x.row = gSumpRow d ∧ x.height = gHeight d ∧ x.kEnd = gKStart d + gKLen d := by
  simp [acceptTile, hold]

theorem acceptTile_quiet {s : State} {n : Fin 16} (r : Fin 8) (d : Desc) (idle : quiet s n = true) :
    quiet (acceptTile s n r d) n = true := by
  simpa [quiet, acceptTile] using idle

/-! ### The issue of an array descriptor -/

/-- The state after an array descriptor has begun to run: its sump tile recorded, and the descriptor in its ring's next slot. -/
def begunArray (s : State) (n : Fin 16) (r : Fin 8) (d : Desc) : State :=
  push (acceptTile s n r d) n r (newFlight s n r d .running .none)

theorem begunArray_only (s : State) (n : Fin 16) (r : Fin 8) (d : Desc) : onlyRingPart n r s (begunArray s n r d) :=
  ⟨acceptTile s n r d, acceptTile_only s n r d, push_only _ n r _⟩

theorem begunArray_ring (s : State) (n : Fin 16) (r : Fin 8) (d : Desc) :
    (begunArray s n r d).ring n r = took (s.ring n r) (newFlight s n r d .running .none) := by
  rw [begunArray, push_ring_same, acceptTile_ring]

/-- Once it runs, nothing of a quiet partition waits. -/
theorem begunArray_settles {s : State} {n : Fin 16} (r : Fin 8) {d : Desc} (idle : quiet s n = true) (units : hasUnits d = true) :
    settle (begunArray s n r d) n = begunArray s n r d := by
  have notFence : dOpcode d ≠ 0x01 := by
    have := (hasUnits_iff d).1 units
    omega
  have rest : atRest (acceptTile s n r d) n = true := quiet_atRest (acceptTile_quiet r d idle)
  exact settle_atRest (atRest_push rest Phase.noConfusion Phase.noConfusion notFence)

/-- A row of array descriptors on a quiet partition: an accepted descriptor begins to run. -/
theorem issueWork_array {s : State} {n : Fin 16} {r : Fin 8} {row : Bool} {d : Desc} {own : Option (Nat × Nat)}
    (may : mayIssue s n r = true) (idle : quiet s n = true) (mine : row = true) (units : hasUnits d = true)
    (accepted : evaluate s n r d own = none) :
    issueWork s n r row d .none own (fun s => acceptTile s n r d) = .next (begunArray s n r d) := by
  have starts : startOne (push (acceptTile s n r d) n r (newFlight s n r d .waiting .none)) n r (s.ring n r).issue = begunArray s n r d :=
    startOne_push_hasUnits (f := newFlight s n r d .waiting .none) (quiet_flights (acceptTile_quiet r d idle) r) units rfl
  rw [issueWork, issueWith_accepted _ may mine accepted, starts, begunArray_settles r idle units]

/-- Settles O44: each of the four rows issues alike, and its descriptor has nothing ahead to wait for. -/
theorem arrayDescriptorsBeginToRun : Obligations.ArrayDescriptorsBeginToRun := by
  intro s n r d c may idle rows
  have run : exec c s = .next (begunArray s n r d) := by
    rcases rows with ⟨rfl, op, accepted⟩ | ⟨rfl, op, accepted⟩ | ⟨rfl, op, accepted⟩ | ⟨rfl, op, phase, accepted⟩
    case inr.inr.inr => exact issueWork_array may idle (by simp [op, phase]) (by simp [hasUnits_iff, op, phase]) accepted
    all_goals exact issueWork_array may idle (by simp [op]) (by simp [hasUnits_iff, op]) accepted
  exact ⟨_, run, begunArray_only s n r d, begunArray_ring s n r d, acceptTile_part s n r d, acceptTile_opens s n r⟩

/-! ### A GEMM that meets the hypotheses -/

/-- A GEMM of a 1 × 64 BF16 matrix by its transpose, into word 0 of handle 1: on basin 0, its sump tile at row 4, held open (R96). -/
def heldGemm : Desc :=
  packFields 512 [(0, 0, 8, 0x10), (12, 0, 24, 1), (15, 0, 24, 1), (20, 0, 32, 64), (28, 0, 32, 64), (33, 0, 8, 1), (34, 0, 8, 1),
    (35, 0, 7, 4), (35, 7, 1, 1), (36, 0, 1, 1), (40, 0, 32, 0x1000000)]

/-- A plan whose ring 0 owns basin 0; its tensor is one row of 64 BF16 elements. -/
def heldGemmPlan : Plan :=
  { active := 1, test := false, taps := [], planes := 0, mirror := 0, gens := [],
    tensors := [packFields 512 [(6, 0, 4, 1), (6, 4, 3, 2), (6, 7, 1, 1), (8, 0, 24, 64), (11, 0, 24, 1), (14, 0, 24, 1), (17, 0, 24, 1),
      (20, 0, 24, 1), (24, 0, 32, 128)]],
    own := [packFields 64 [(0, 0, 8, 1), (3, 0, 8, 1)]], manifest := [manifestOf heldGemm] }

/-- The powered machine under that plan, with step 1 open on ring 0 and a descriptor waiting there. -/
def heldGemmReady : State :=
  (poweredUp.modRing 0 0 fun x => { x with ctl := 0xD, tail := 1, openStep := some 1 }).modPart 0 fun p => { p with
    plan := some heldGemmPlan
    handles := [{ num := 1, fn := 0, ring := 0, base := 0, count := 1, wexp := 0, crnd := false, stripe := false, carry := false, step := 1, closing := false }] }

theorem heldGemm_accepted : evaluate heldGemmReady 0 0 heldGemm (checkGemm heldGemmReady 0 0 heldGemm) = none := by decide +kernel

/-- O44's hypotheses are met: the GEMM begins to run, and its sump tile stands OPEN at row 4 with the end of its K range. -/
theorem heldGemm_opens_sumpTile :
    ∃ t, exec (.gemm 0 0 heldGemm) heldGemmReady = .next t ∧ ∃ x ∈ (t.part 0).tiles, x.row = 4 ∧ x.height = 1 ∧ x.kEnd = 64 := by
  obtain ⟨t, run, -, -, -, opens⟩ := arrayDescriptorsBeginToRun heldGemmReady 0 0 heldGemm _ (by decide +kernel) (by decide +kernel)
    (.inl ⟨rfl, by decide +kernel, heldGemm_accepted⟩)
  obtain ⟨x, mem, -, -, row, height, kEnd⟩ := opens (by decide +kernel)
  have tile : gSumpRow heldGemm = 4 ∧ gHeight heldGemm = 1 ∧ gKStart heldGemm + gKLen heldGemm = 64 := by decide +kernel
  exact ⟨t, run, x, mem, row.trans tile.1, height.trans tile.2.1, kEnd.trans tile.2.2⟩

end Sys2Proof.Machine
end

section
/-! The byte memories (R8, R115): what a byte and a range read back after a write to them, what a write leaves alone, and O8. -/
namespace Sys2Proof.Machine

/-! ### Addresses -/

/-- Space and offset together name the address. -/
theorem addr_eq_of_space_of_offset {a x : Nat} (ha : a < 2 ^ 48) (hx : x < 2 ^ 48) (space : spaceOf x = spaceOf a)
    (offset : x % 2 ^ 44 = a % 2 ^ 44) : x = a := by
  simp only [spaceOf, bits, Nat.shiftRight_eq_div_pow] at space
  omega

/-- Basin SRAM lies in space 0. -/
theorem spaceOf_sram {a : Nat} (h : a ≤ 2 ^ 29) : spaceOf a = 0 := by
  simp only [spaceOf, bits, Nat.shiftRight_eq_div_pow]
  omega

theorem readByte_sram (s : State) {a : Nat} (h : a < 2 ^ 29) : readByte s a = Sparse.get 0 s.sram a := by
  simp only [readByte, spaceOf_sram (Nat.le_of_lt h)]
  rw [Nat.mod_eq_of_lt (by omega)]

/-- A byte reads the same where the table of its own space reads the same. -/
theorem readByte_congr {s t : State} {x : Nat}
    (sram : spaceOf x = 0 → Sparse.get 0 t.sram (x % 2 ^ 44) = Sparse.get 0 s.sram (x % 2 ^ 44))
    (transom : spaceOf x = 4 → Sparse.get 0 t.transom (x % 2 ^ 44) = Sparse.get 0 s.transom (x % 2 ^ 44))
    (host : spaceOf x = 8 → Sparse.get 0 t.host (x % 2 ^ 44) = Sparse.get 0 s.host (x % 2 ^ 44)) : readByte t x = readByte s x := by
  unfold readByte
  split
  next space => exact sram space
  next space => exact transom space
  next space => exact host space
  next => rfl

/-! ### One byte -/

theorem memory_wf_iff {s : State} : Memory.wf s = true ↔
    Sparse.wf 0 s.sram = true ∧ Sparse.wf 0 s.transom = true ∧ Sparse.wf 0 s.host = true ∧ Sparse.wf wordZero s.cistern = true := by
  simp [Memory.wf, and_assoc]

theorem writeByte_wf {s : State} (a : Nat) (b : Byte) (wf : Memory.wf s = true) : Memory.wf (writeByte s a b) = true := by
  obtain ⟨sram, transom, host, cistern⟩ := memory_wf_iff.1 wf
  unfold writeByte
  split
  next =>
    split
    · exact memory_wf_iff.2 ⟨Sparse.put_wf _ _ sram, transom, host, cistern⟩
    · exact wf
  next => exact memory_wf_iff.2 ⟨sram, Sparse.put_wf _ _ transom, host, cistern⟩
  next => exact memory_wf_iff.2 ⟨sram, transom, Sparse.put_wf _ _ host, cistern⟩
  next => exact wf

/-- A byte of any of the three memories reads as it was written. -/
theorem readByte_writeByte_same {s : State} {a : Nat} (b : Byte) (wf : Memory.wf s = true)
    (memory : (spaceOf a = 0 ∧ a < 2 ^ 29) ∨ spaceOf a = 4 ∨ spaceOf a = 8) : readByte (writeByte s a b) a = b := by
  obtain ⟨sram, transom, host, -⟩ := memory_wf_iff.1 wf
  rcases memory with ⟨space, low⟩ | space | space
  · have offset : a % 2 ^ 44 = a := Nat.mod_eq_of_lt (by omega)
    simp only [readByte, writeByte, space, low, if_true, offset, Sparse.get_put_same _ _ sram]
  · simp only [readByte, writeByte, space, Sparse.get_put_same _ _ transom]
  · simp only [readByte, writeByte, space, Sparse.get_put_same _ _ host]

/-- A write leaves every other byte as it was: another space is another table, and in the same space the offsets differ. -/
theorem readByte_writeByte_other (s : State) {a x : Nat} (b : Byte) (ha : a < 2 ^ 48) (hx : x < 2 ^ 48) (ne : x ≠ a) :
    readByte (writeByte s a b) x = readByte s x := by
  have apart : spaceOf x = spaceOf a → x % 2 ^ 44 ≠ a % 2 ^ 44 := fun space offset =>
    ne (addr_eq_of_space_of_offset ha hx space offset)
  unfold writeByte
  split
  next space =>
    split
    next low =>
      have offset : a % 2 ^ 44 = a := Nat.mod_eq_of_lt (by omega)
      exact readByte_congr (fun h => Sparse.get_put_other _ _ _ (offset ▸ apart (h.trans space.symm))) (fun _ => rfl) fun _ => rfl
    next => rfl
  next space => exact readByte_congr (fun _ => rfl) (fun h => Sparse.get_put_other _ _ _ (apart (h.trans space.symm))) fun _ => rfl
  next space => exact readByte_congr (fun _ => rfl) (fun _ => rfl) fun h => Sparse.get_put_other _ _ _ (apart (h.trans space.symm))
  next => rfl

/-! ### Ranges -/

theorem memWrite_wf {s : State} (a : Nat) (bs : List Byte) (wf : Memory.wf s = true) : Memory.wf (memWrite s a bs) = true := by
  induction bs generalizing s a with
  | nil => exact wf
  | cons b bs ih => exact ih (a + 1) (writeByte_wf a b wf)

/-- A write of a range leaves every byte outside it as it was. -/
theorem readByte_memWrite_outside (s : State) {a x : Nat} (bs : List Byte) (fits : a + bs.length ≤ 2 ^ 48) (hx : x < 2 ^ 48)
    (outside : x < a ∨ a + bs.length ≤ x) : readByte (memWrite s a bs) x = readByte s x := by
  induction bs generalizing s a with
  | nil => rfl
  | cons b bs ih =>
    rw [List.length_cons] at fits outside
    calc readByte (memWrite (writeByte s a b) (a + 1) bs) x
      _ = readByte (writeByte s a b) x := ih (writeByte s a b) (by omega) (by omega)
      _ = readByte s x := readByte_writeByte_other s b (by omega) hx (by omega)

/-- A range of basin SRAM reads back as it was written. -/
theorem memRead_memWrite_same {s : State} {a : Nat} (bs : List Byte) (wf : Memory.wf s = true) (fits : a + bs.length ≤ 2 ^ 29) :
    memRead (memWrite s a bs) a bs.length = bs := by
  induction bs generalizing s a with
  | nil => rfl
  | cons b bs ih =>
    rw [List.length_cons] at fits
    have low : a < 2 ^ 29 := by omega
    have first : readByte (memWrite (writeByte s a b) (a + 1) bs) a = b := by
      rw [readByte_memWrite_outside _ bs (by omega) (by omega) (by omega)]
      exact readByte_writeByte_same b wf (.inl ⟨spaceOf_sram (Nat.le_of_lt low), low⟩)
    exact List.cons_eq_cons.2 ⟨first, ih (writeByte_wf a b wf) (by omega)⟩

/-- Settles O8: the two laws of a byte, and by induction over the range those of its bytes. -/
theorem memoryReadsBackAndOthersStand : Obligations.MemoryReadsBackAndOthersStand := by
  refine ⟨fun s a b wf memory => ?_, fun bs s a wf fits => ?_⟩
  · have inside : a < 2 ^ 48 := by omega
    have space : (spaceOf a = 0 ∧ a < 2 ^ 29) ∨ spaceOf a = 4 ∨ spaceOf a = 8 := by omega
    exact ⟨readByte_writeByte_same b wf space, fun x hx ne => readByte_writeByte_other s b inside hx ne⟩
  · exact ⟨memRead_memWrite_same bs wf fits, fun x hx outside => readByte_memWrite_outside s bs (by omega) hx outside⟩

/-- O8's hypotheses are met by the memories after reset: a byte of host memory reads back, and so do two bytes at the end of basin SRAM. -/
theorem reset_memories_readBack :
    readByte (writeByte State.reset 0x800000000010 0xA5) 0x800000000010 = 0xA5 ∧
      memRead (memWrite State.reset 0x1FFFFFFE [1, 2]) 0x1FFFFFFE 2 = [1, 2] :=
  ⟨(memoryReadsBackAndOthersStand.1 State.reset _ _ rfl (.inr (.inr (by decide)))).1,
    (memoryReadsBackAndOthersStand.2 [1, 2] State.reset _ rfl (by decide)).1⟩

end Sys2Proof.Machine
end

section
/-! Writes into basin SRAM on behalf of a descriptor: what a run of them over given ranges leaves alone, and the addresses of a tensor's elements and scale bytes within its ranges (R117 to R119, R134). -/
namespace Sys2Proof.Machine

/-! ### Little-endian numbers and bit fields -/

@[simp] theorem toLE_length (k x : Nat) : (toLE k x).length = k := by
  induction k generalizing x with
  | zero => rfl
  | succ k ih => exact congrArg (· + 1) (ih (x / 256))

@[simp] theorem memRead_length (s : State) (a k : Nat) : (memRead s a k).length = k := by
  induction k generalizing a with
  | zero => rfl
  | succ k ih => exact congrArg (· + 1) (ih (a + 1))

theorem ofLE_lt (bs : List Byte) : ofLE bs < 2 ^ (8 * bs.length) := by
  induction bs with
  | nil => decide
  | cons b bs ih =>
    have byte : b.toNat < 256 := b.isLt
    rw [ofLE, List.length_cons, Nat.mul_add, Nat.pow_add]
    omega

/-- The bytes of the number that a byte string spells are that string. -/
theorem toLE_ofLE (bs : List Byte) : toLE bs.length (ofLE bs) = bs := by
  induction bs with
  | nil => rfl
  | cons b bs ih =>
    have byte : b.toNat < 256 := b.isLt
    have low : BitVec.ofNat 8 (b.toNat + 256 * ofLE bs) = b := BitVec.eq_of_toNat_eq (by rw [BitVec.toNat_ofNat]; omega)
    have rest : (b.toNat + 256 * ofLE bs) / 256 = ofLE bs := by omega
    rw [List.length_cons, ofLE, toLE, low, rest, ih]

@[simp] theorem putBits_length (s : State) (a span p w v : Nat) : (putBits s a span p w v).length = span := toLE_length _ _

/-- A field that is all of its bytes replaces them. -/
theorem putBits_whole (s : State) (a k v : Nat) : putBits s a k 0 (8 * k) v = toLE k (v % 2 ^ (8 * k)) := by
  have fits : ofLE (memRead s a k) < 2 ^ (8 * k) := by simpa using ofLE_lt (memRead s a k)
  simp [putBits, Nat.mod_eq_of_lt fits]

/-! ### One write -/

/-- A write to basin SRAM changes the SRAM alone, where no word of it holds an error that the write would clear. -/
theorem memWrite_sram {s : State} {a : Nat} (bs : List Byte) (clean : s.badSram = []) (fits : a + bs.length ≤ 2 ^ 29) :
    memWrite s a bs = { s with sram := (memWrite s a bs).sram } := by
  induction bs generalizing s a with
  | nil => rfl
  | cons b bs ih =>
    rw [List.length_cons] at fits
    have low : a < 2 ^ 29 := by omega
    have one : writeByte s a b = { s with sram := (writeByte s a b).sram } := by
      simp only [writeByte, spaceOf_sram (Nat.le_of_lt low), low, if_true, clean, List.filter_nil]
    have rest := ih (s := writeByte s a b) (a := a + 1) (by rw [one]; exact clean) (by omega)
    rw [memWrite, rest, one]

/-- Writing back the record that stands there changes nothing. -/
theorem State.setPart_self (s : State) (n : Fin 16) : s.setPart n (s.part n) = s := by
  simp [State.setPart, State.part]

/-- On behalf of a descriptor the bytes land as any others do; only the step records of its partition change beside them. -/
theorem stepWrite_parts (s : State) (n : Fin 16) (st : Option Nat) {a : Nat} (bs : List Byte) (fits : a + bs.length ≤ 2 ^ 29) :
    ∃ records, stepWrite s n st a bs = (memWrite s a bs).setPart n { (memWrite s a bs).part n with steps := records } := by
  have space : spaceOf a = 0 := spaceOf_sram (by omega)
  have unmarked : memWrite s a bs = (memWrite s a bs).setPart n { (memWrite s a bs).part n with steps := ((memWrite s a bs).part n).steps } :=
    (State.setPart_self _ n).symm
  cases st with
  | none => exact ⟨_, by simpa [stepWrite, space] using unmarked⟩
  | some k =>
    cases bs with
    | nil => exact ⟨_, by simpa [stepWrite, space] using unmarked⟩
    | cons b bs => exact ⟨_, by simp only [stepWrite, space]; rfl⟩

theorem readByte_stepWrite (s : State) (n : Fin 16) (st : Option Nat) {a : Nat} (bs : List Byte) (fits : a + bs.length ≤ 2 ^ 29) (x : Nat) :
    readByte (stepWrite s n st a bs) x = readByte (memWrite s a bs) x := by
  obtain ⟨records, eq⟩ := stepWrite_parts s n st bs fits
  rw [eq]
  rfl

/-! ### A run of writes -/

/-- From `s` to `t` the machine has done no more than write bytes of basin SRAM within the ranges `rs`, and mark granules dirty in the step records of partition n; no word of the SRAM was bad. -/
structure SramWrites (n : Fin 16) (rs : List (Nat × Nat)) (s t : State) : Prop where
  clean : s.badSram = []
  only : onlyPart n { s with sram := t.sram } t
  steps : t.part n = { s.part n with steps := (t.part n).steps }
  frame : ∀ x, x < 2 ^ 29 → (∀ y ∈ rs, x < y.1 ∨ y.1 + y.2 ≤ x) → readByte t x = readByte s x

namespace SramWrites

variable {n : Fin 16} {rs : List (Nat × Nat)} {s t u : State}

theorem refl (clean : s.badSram = []) : SramWrites n rs s s :=
  ⟨clean, ⟨rfl, fun _ _ => rfl⟩, rfl, fun _ _ _ => rfl⟩

theorem bad (h : SramWrites n rs s t) : t.badSram = [] := by
  rw [h.only.1]
  exact h.clean

theorem fns (h : SramWrites n rs s t) : t.fns = s.fns := by
  rw [h.only.1]

theorem trans (h : SramWrites n rs s t) (k : SramWrites n rs t u) : SramWrites n rs s u where
  clean := h.clean
  only := ⟨by rw [k.only.1, h.only.1], fun m other => (k.only.2 m other).trans (h.only.2 m other)⟩
  steps := by rw [k.steps, h.steps]
  frame x hx outside := (k.frame x hx outside).trans (h.frame x hx outside)

/-- One more write within the ranges. -/
theorem stepWrite (h : SramWrites n rs s t) (st : Option Nat) {a : Nat} (bs : List Byte) (low : ∀ y ∈ rs, y.1 + y.2 ≤ 2 ^ 29)
    (inside : ∃ y ∈ rs, y.1 ≤ a ∧ a + bs.length ≤ y.1 + y.2) : SramWrites n rs s (stepWrite t n st a bs) := by
  obtain ⟨y, mem, first, last⟩ := inside
  have fits : a + bs.length ≤ 2 ^ 29 := Nat.le_trans last (low y mem)
  obtain ⟨records, eq⟩ := stepWrite_parts t n st bs fits
  have sram := memWrite_sram bs h.bad fits
  refine h.trans ⟨h.bad, ?_, ?_, fun x hx outside => ?_⟩
  · rw [eq, sram]
    exact setPart_only _ n _
  · rw [eq, sram, State.part_setPart_same]
    rfl
  · rw [readByte_stepWrite t n st bs fits]
    exact readByte_memWrite_outside t bs (by omega) (by omega) (by have := outside y mem; omega)

/-- Writes of a partition do not see its rings: a descriptor that a ring took before them may be taken after them. -/
theorem of_push {r : Fin 8} {f : Flight} (h : SramWrites n rs (push s n r f) t) : ∃ u, t = push u n r f ∧ SramWrites n rs s u := by
  refine ⟨{ s with sram := t.sram, parts := t.parts }, h.only.1, h.clean, ⟨rfl, h.only.2⟩, h.steps, fun x hx outside => ?_⟩
  have same := h.frame x hx outside
  rwa [readByte_sram _ hx, readByte_sram _ hx] at same ⊢

theorem quiet (h : SramWrites n rs s t) (idle : quiet s n = true) : quiet t n = true := by
  have traps : (t.part n).traps = (s.part n).traps := by rw [h.steps]
  simpa [Sys2Proof.quiet, State.ring, State.fn, h.fns, traps] using idle

end SramWrites

/-! ### Where a tensor's elements lie -/

theorem Fmt.blockSize_pos (f : Fmt) : 0 < f.blockSize := by cases f <;> decide

/-- Whether a row index lies within the extents of a tensor. -/
def Tensor.hasRow (t : Tensor) (x : Idx) : Prop := x.i1 < t.ext 1 ∧ x.i2 < t.ext 2 ∧ x.i3 < t.ext 3 ∧ x.i4 < t.ext 4

theorem Tensor.rows_hasRow {t : Tensor} {x : Idx} (h : x ∈ t.rows) : t.hasRow x := by
  simp only [Tensor.rows, List.mem_map, List.mem_range] at h
  obtain ⟨i, bound, rfl⟩ := h
  have pos1 : 0 < t.ext 1 := Nat.pos_of_ne_zero fun zero => by simp [zero] at bound
  have pos2 : 0 < t.ext 2 := Nat.pos_of_ne_zero fun zero => by simp [zero] at bound
  have pos3 : 0 < t.ext 3 := Nat.pos_of_ne_zero fun zero => by simp [zero] at bound
  refine ⟨Nat.mod_lt _ pos1, Nat.mod_lt _ pos2, Nat.mod_lt _ pos3, ?_⟩
  rw [Nat.div_div_eq_div_mul, Nat.div_div_eq_div_mul]
  exact Nat.div_lt_of_lt_mul bound

/-- Element addresses rise with the position in the row. -/
theorem off0_mono (f : Fmt) {i j : Nat} (h : i ≤ j) : off0 f i ≤ off0 f j := by
  unfold off0
  split
  · exact Nat.div_le_div_right h
  · split
    · exact Nat.mul_le_mul_left 3 (Nat.div_le_div_right h)
    · exact Nat.mul_le_mul_right _ h

/-- The last row lies highest. -/
theorem Tensor.rowOff_le_last {t : Tensor} {x : Idx} (row : t.hasRow x) :
    t.rowOff x ≤ t.rowOff ⟨0, t.ext 1 - 1, t.ext 2 - 1, t.ext 3 - 1, t.ext 4 - 1⟩ := by
  obtain ⟨h1, h2, h3, h4⟩ := row
  have l1 : (if t.rank = 1 then 0 else x.i1 * t.stride 1) ≤ if t.rank = 1 then 0 else (t.ext 1 - 1) * t.stride 1 := by
    split
    · exact Nat.le_refl 0
    · exact Nat.mul_le_mul_right _ (Nat.le_sub_one_of_lt h1)
  have l2 := Nat.mul_le_mul_right (t.stride 2) (Nat.le_sub_one_of_lt h2)
  have l3 := Nat.mul_le_mul_right (t.stride 3) (Nat.le_sub_one_of_lt h3)
  have l4 := Nat.mul_le_mul_right (t.stride 4) (Nat.le_sub_one_of_lt h4)
  exact Nat.add_le_add (Nat.add_le_add (Nat.add_le_add l1 l2) l3) l4

/-- Copy c of a tensor and copy c of its scale array are among its ranges. -/
theorem Tensor.copy_mem_ranges {t : Tensor} {c : Nat} (hc : c < t.copies) : (t.base + c * 0x400000, t.lastOff) ∈ t.ranges :=
  List.mem_flatMap.2 ⟨c, List.mem_range.2 hc, List.mem_cons_self⟩

theorem Tensor.fine_mem_ranges {t : Tensor} {c : Nat} (hc : c < t.copies) (scaled : t.fineLen ≠ 0) :
    (t.fineBase + c * 0x400000, t.fineLen) ∈ t.ranges :=
  List.mem_flatMap.2 ⟨c, List.mem_range.2 hc, by simp [scaled]⟩

/-- The bytes of an element lie within a range of the tensor. -/
theorem Tensor.addr_in_ranges {t : Tensor} {c : Nat} {x : Idx} (hc : c < t.copies) (row : t.hasRow x) (pos : x.i0 < t.ext0p) :
    ∃ y ∈ t.ranges, y.1 ≤ t.addr c x ∧ t.addr c x + elemSpan t.fmt ≤ y.1 + y.2 := by
  have rowOff := t.rowOff_le_last row
  have off := off0_mono t.fmt (Nat.le_sub_one_of_lt pos)
  exact ⟨_, t.copy_mem_ranges hc, by simp only [Tensor.addr]; omega, by simp only [Tensor.addr, Tensor.lastOff]; omega⟩

/-- Index and extent of dimension k as the dense scale array counts them: a dimension with zero stride counts once (R118). -/
def Tensor.fineIdx (t : Tensor) (k i : Nat) : Nat := if k ≠ 1 ∧ t.stride k = 0 then 0 else i
def Tensor.fineExt (t : Tensor) (k : Nat) : Nat := if k ≠ 1 ∧ t.stride k = 0 then 1 else t.ext k

theorem Tensor.fineIdx_mono (t : Tensor) (k : Nat) {i j : Nat} (h : i ≤ j) : t.fineIdx k i ≤ t.fineIdx k j := by
  unfold Tensor.fineIdx
  split
  · exact Nat.le_refl 0
  · exact h

/-- The place of a block's byte in a copy of the scale array. -/
def Tensor.fineOff (t : Tensor) (x : Idx) : Nat :=
  x.i0 / t.fmt.blockSize + ceilDiv (t.ext 0) t.fmt.blockSize *
    (t.fineIdx 1 x.i1 + t.fineExt 1 * (t.fineIdx 2 x.i2 + t.fineExt 2 * (t.fineIdx 3 x.i3 + t.fineExt 3 * t.fineIdx 4 x.i4)))

theorem Tensor.fineAddr_eq (t : Tensor) (c : Nat) (x : Idx) : t.fineAddr c x = t.fineBase + c * 0x400000 + t.fineOff x := by
  have counted (k i : Nat) : (if k ≠ 1 ∧ t.stride k = 0 then (0, 1) else (i, t.ext k)) = (t.fineIdx k i, t.fineExt k) := by
    unfold Tensor.fineIdx Tensor.fineExt
    split <;> rfl
  simp only [Tensor.fineAddr, Tensor.fineOff, counted]
  exact Nat.add_assoc _ _ _

theorem Tensor.fineOff_mono (t : Tensor) {x y : Idx} (h0 : x.i0 ≤ y.i0) (h1 : x.i1 ≤ y.i1) (h2 : x.i2 ≤ y.i2) (h3 : x.i3 ≤ y.i3)
    (h4 : x.i4 ≤ y.i4) : t.fineOff x ≤ t.fineOff y := by
  have l1 := t.fineIdx_mono 1 h1
  have l2 := t.fineIdx_mono 2 h2
  have l3 := t.fineIdx_mono 3 h3
  have l4 := t.fineIdx_mono 4 h4
  have row := Nat.add_le_add l1 (Nat.mul_le_mul_left (t.fineExt 1) (Nat.add_le_add l2 (Nat.mul_le_mul_left (t.fineExt 2)
    (Nat.add_le_add l3 (Nat.mul_le_mul_left (t.fineExt 3) l4)))))
  exact Nat.add_le_add (Nat.div_le_div_right h0) (Nat.mul_le_mul_left _ row)

/-- The scale byte of an element's block lies within a range of the tensor. -/
theorem Tensor.fineAddr_in_ranges {t : Tensor} {c : Nat} {x : Idx} (block : t.fmt.isBlock = true) (hc : c < t.copies) (row : t.hasRow x)
    (pos : x.i0 < t.ext 0) : ∃ y ∈ t.ranges, y.1 ≤ t.fineAddr c x ∧ t.fineAddr c x + 1 ≤ y.1 + y.2 := by
  obtain ⟨h1, h2, h3, h4⟩ := row
  have last : t.fineOff x ≤ t.fineOff ⟨t.ext 0 - 1, t.ext 1 - 1, t.ext 2 - 1, t.ext 3 - 1, t.ext 4 - 1⟩ :=
    t.fineOff_mono (Nat.le_sub_one_of_lt pos) (Nat.le_sub_one_of_lt h1) (Nat.le_sub_one_of_lt h2) (Nat.le_sub_one_of_lt h3)
      (Nat.le_sub_one_of_lt h4)
  have len : t.fineLen = t.fineOff ⟨t.ext 0 - 1, t.ext 1 - 1, t.ext 2 - 1, t.ext 3 - 1, t.ext 4 - 1⟩ + 1 := by
    rw [Tensor.fineLen, if_pos block, Tensor.fineAddr_eq]
    omega
  exact ⟨_, t.fine_mem_ranges hc (by omega), by rw [Tensor.fineAddr_eq]; omega, by rw [Tensor.fineAddr_eq]; omega⟩

/-! ### Blocks of a row -/

/-- A block that counts towards a row begins within it. -/
theorem block_start_lt {e b k : Nat} (h : k < ceilDiv e b) : k * b < e := by
  rcases Nat.eq_zero_or_pos b with rfl | pos
  · simp [ceilDiv] at h
  · have ends : (k + 1) * b ≤ e + b - 1 := (Nat.le_div_iff_mul_le pos).1 h
    rw [Nat.add_mul] at ends
    omega

/-- The row as stored is whole blocks: every position of a block that counts is stored. -/
theorem Tensor.block_lt_ext0p {t : Tensor} {k i : Nat} (hk : k < ceilDiv (t.ext 0) t.fmt.blockSize) (hi : i < t.fmt.blockSize) :
    k * t.fmt.blockSize + i < t.ext0p := by
  have ends : (k + 1) * t.fmt.blockSize ≤ t.ext0p := Nat.mul_le_mul_right _ hk
  rw [Nat.add_mul] at ends
  omega

/-- Every element of the row belongs to a block that counts. -/
theorem Tensor.lt_ext0p {t : Tensor} {i : Nat} (h : i < t.ext 0) : i < t.ext0p := by
  have pos := t.fmt.blockSize_pos
  have counts : i / t.fmt.blockSize < ceilDiv (t.ext 0) t.fmt.blockSize := by
    rw [ceilDiv, Nat.div_lt_iff_lt_mul pos]
    have := Nat.div_add_mod (t.ext 0 + t.fmt.blockSize - 1) t.fmt.blockSize
    have := Nat.mod_lt (t.ext 0 + t.fmt.blockSize - 1) pos
    rw [Nat.mul_comm]
    omega
  have := t.block_lt_ext0p counts (Nat.mod_lt i pos)
  rwa [Nat.mul_comm, Nat.div_add_mod] at this

/-! ### Writing elements -/

section
variable {n : Fin 16} {b : Tensor} (low : ∀ y ∈ b.ranges, y.1 + y.2 ≤ 2 ^ 29) {s t : State} (h : SramWrites n b.ranges s t)
include low h

theorem writeCode_sramWrites (st : Option Nat) {x : Idx} (v : Nat) (row : b.hasRow x) (pos : x.i0 < b.ext0p) :
    SramWrites n b.ranges s (writeCode t n st b x v) := by
  refine List.foldlRecOn _ _ h fun t h c hc => h.stepWrite st _ low ?_
  rw [putBits_length]
  exact b.addr_in_ranges (List.mem_range.1 hc) row pos

theorem writeFine_sramWrites (st : Option Nat) {x : Idx} (v : Nat) (block : b.fmt.isBlock = true) (row : b.hasRow x) (pos : x.i0 < b.ext 0) :
    SramWrites n b.ranges s (writeFine t n st b x v) :=
  List.foldlRecOn _ _ h fun _ h _ hc => h.stepWrite st _ low (b.fineAddr_in_ranges block (List.mem_range.1 hc) row pos)

/-- The padding of a final block stays within the block. -/
theorem padBlock_sramWrites (st : Option Nat) {x : Idx} (row : b.hasRow x) {k : Nat} (hk : k < ceilDiv (b.ext 0) b.fmt.blockSize)
    (start : x.i0 = k * b.fmt.blockSize) : SramWrites n b.ranges s (padBlock t n st b x) := by
  refine List.foldlRecOn _ _ h fun t h j hj => ?_
  obtain ⟨i, hi, rfl⟩ := List.mem_map.1 (List.mem_filter.1 hj).1
  refine writeCode_sramWrites low h st 0 row ?_
  simp only [start, Nat.mul_div_cancel k b.fmt.blockSize_pos]
  exact b.block_lt_ext0p hk (List.mem_range.1 hi)

end

end Sys2Proof.Machine
end

section
/-! COPY between basin SRAM tensors (R131): what its rows write, how it runs alone on its ring, the word moves of a vector of FP32, and O47. -/
namespace Sys2Proof.Machine

/-! ### Converted blocks -/

theorem encodeBp_length (m : Mini) (coarse : Nat) (vs : List (Rnd × Val)) : (encodeBp m coarse vs).2.length = vs.length := by
  unfold encodeBp
  split
  · simp
  · dsimp only
    split <;> simp

theorem encodeMx_length (f : Fmt) (vs : List (Rnd × Val)) : (encodeMx f vs).2.length = vs.length := by
  unfold encodeMx
  dsimp only
  split
  · simp
  · split <;> simp

theorem mxToBp_length (src : Fmt) (m : Mini) (coarse x : Nat) (es : List (Rnd × Nat)) : (mxToBp src m coarse x es).2.length = es.length := by
  unfold mxToBp
  split
  · simp
  · dsimp only
    split
    · split <;> simp [encodeBp_length]
    · simp [encodeBp_length]

/-- Either of two forms of a block has the codes that both have. -/
theorem block_length_ite {c : Prop} [Decidable c] {x y : Nat × List Nat} {k : Nat} (hx : x.2.length = k) (hy : y.2.length = k) :
    (if c then x else y).2.length = k := by
  split <;> assumption

theorem bpToMx_length (m : Mini) (dst : Fmt) (coarse : Nat) (es : List (Rnd × Nat × Nat)) : (bpToMx m dst coarse es).2.length = es.length := by
  have general : (encodeMx dst (es.map fun e => (e.1, bpVal m e.2.1 coarse e.2.2))).2.length = es.length := by
    rw [encodeMx_length, List.length_map]
  unfold bpToMx
  split
  · exact List.length_map _
  · dsimp only
    split
    · exact block_length_ite (List.length_map _) general
    · exact general

/-- A converted block has no more codes than the block has positions. -/
theorem copyBlock_length (s : State) (a b : Tensor) (rnd : Nat → Rnd) (row : Idx) (blk : Nat) :
    (copyBlock s a b rnd row blk).2.length ≤ b.fmt.blockSize := by
  unfold copyBlock
  dsimp only
  split
  next => exact Nat.zero_le _
  next =>
    split
    next => split <;> simp [mxToBp_length, encodeBp_length]
    next =>
      split
      next => split <;> simp [bpToMx_length]
      next => simp [encodeMx_length]

/-! ### What the rows of a COPY write -/

section
variable {n : Fin 16} {b : Tensor} (low : ∀ y ∈ b.ranges, y.1 + y.2 ≤ 2 ^ 29) {s t : State} (h : SramWrites n b.ranges s t)
include low h

theorem writeBlock_sramWrites (st : Option Nat) {row : Idx} {blk : Nat} (x : Nat × List Nat) (block : b.fmt.isBlock = true)
    (inRow : b.hasRow row) (hblk : blk < ceilDiv (b.ext 0) b.fmt.blockSize) (len : x.2.length ≤ b.fmt.blockSize) :
    SramWrites n b.ranges s (writeBlock t n st b row blk x) := by
  refine writeFine_sramWrites low (List.foldlRecOn _ _ h fun t h i hi => ?_) st _ block inRow (block_start_lt hblk)
  exact writeCode_sramWrites low h st _ inRow (b.block_lt_ext0p hblk (Nat.lt_of_lt_of_le (List.mem_range.1 hi) len))

/-- A row of COPY writes within the destination's copies and scale arrays, in each of its four forms: codes and scale bytes as they stand, codes alone, converted blocks, converted elements. -/
theorem copyRow_sramWrites (s0 : State) (st : Option Nat) (a : Tensor) (rnd : Nat → Rnd) {row : Idx} (inRow : b.hasRow row) :
    SramWrites n b.ranges s (copyRow s0 n st a b rnd t row) := by
  unfold copyRow
  split
  next =>
    have codes : SramWrites n b.ranges s ((List.range (b.ext 0)).foldl (fun s i =>
        writeCode s n st b { row with i0 := i } (elemCode s0 a 0 { row with i0 := i })) t) :=
      List.foldlRecOn _ _ h fun t h i hi => writeCode_sramWrites low h st _ inRow (b.lt_ext0p (List.mem_range.1 hi))
    split
    next block =>
      refine List.foldlRecOn _ _ codes fun t h k hk => ?_
      have counts := List.mem_range.1 hk
      exact padBlock_sramWrites low (writeFine_sramWrites (x := { row with i0 := k * b.fmt.blockSize }) low h st _ block inRow (block_start_lt counts)) st inRow
        counts rfl
    next => exact codes
  next =>
    split
    next block =>
      exact List.foldlRecOn _ _ h fun t h k hk =>
        writeBlock_sramWrites low h st _ block inRow (List.mem_range.1 hk) (copyBlock_length s0 a b rnd row k)
    next =>
      refine List.foldlRecOn _ _ h fun t h i hi => ?_
      dsimp only
      split
      next => exact writeCode_sramWrites low h st _ inRow (b.lt_ext0p (List.mem_range.1 hi))
      next => exact h

end

/-- The rounding of a COPY's elements under its RND and its step's seed (R64, R65, R249). -/
def copyRnd (s : State) (n : Fin 16) (f : Flight) (i : Nat) : Rnd :=
  rndOf (fld f.d 12 0 2) (fld f.d 14 0 16) (flightSeed s n f).1 (flightSeed s n f).2 i

/-- The rows that a COPY of tensor a to tensor b writes; the source is read from the state before it. -/
def copyRows (s : State) (n : Fin 16) (st : Option Nat) (a b : Tensor) (rnd : Nat → Rnd) : State :=
  a.rows.foldl (fun t row => copyRow s n st a b rnd t row) s

/-- Where the extents agree, the rows of the source are rows of the destination. -/
theorem copyRows_sramWrites {s : State} (n : Fin 16) (st : Option Nat) {a b : Tensor} (rnd : Nat → Rnd) (clean : s.badSram = [])
    (ext : ∀ k, k < 5 → a.ext k = b.ext k) (low : ∀ y ∈ b.ranges, y.1 + y.2 ≤ 2 ^ 29) :
    SramWrites n b.ranges s (copyRows s n st a b rnd) := by
  refine List.foldlRecOn _ _ (SramWrites.refl clean) fun t h row mem => copyRow_sramWrites low h s st a rnd ?_
  obtain ⟨h1, h2, h3, h4⟩ := Tensor.rows_hasRow mem
  exact ⟨ext 1 (by decide) ▸ h1, ext 2 (by decide) ▸ h2, ext 3 (by decide) ▸ h3, ext 4 (by decide) ▸ h4⟩

/-! ### The COPY as a descriptor -/

/-- An accepted descriptor meets its opcode's own conditions. -/
theorem own_of_evaluate {s : State} {n : Fin 16} {r : Fin 8} {d : Desc} {own : Option (Nat × Nat)} (h : evaluate s n r d own = none) :
    own = none := by
  cases own with
  | none => rfl
  | some v =>
    simp only [evaluate, orElse] at h
    split at h
    · cases h
    · split at h <;> cases h

/-- An accepted COPY has extents that agree (R131). -/
theorem checkCopy_ext {s : State} {n : Fin 16} {r : Fin 8} {d : Desc} (h : checkCopy s n r d = none) :
    (tensorAt (s.part n) (fld d 8 0 12)).rank = (tensorAt (s.part n) (fld d 10 0 12)).rank ∧
      ∀ k, k < 5 → (tensorAt (s.part n) (fld d 8 0 12)).ext k = (tensorAt (s.part n) (fld d 10 0 12)).ext k := by
  unfold checkCopy at h
  dsimp only at h
  split at h
  · cases h
  split at h
  · cases h
  split at h
  · cases h
  split at h
  · cases h
  next agree => simpa using agree

theorem xferFault_sram (s : State) (n : Nat) {a : Nat} (len : Nat) (h : a ≤ 2 ^ 29) : xferFault s n a len = false := by
  simp only [xferFault, spaceOf_sram h]

/-- Between tensors in basin SRAM no transfer fails; without a bad word the COPY writes its rows and ends OK. -/
theorem beginCopy_sram {s : State} {n : Fin 16} (r : Fin 8) {f : Flight} {a b : Tensor} (ha : tensorAt (s.part n) (fld f.d 8 0 12) = a)
    (hb : tensorAt (s.part n) (fld f.d 10 0 12) = b) (clean : s.badSram = []) (faultless : f.fault = .none)
    (low : ∀ x ∈ a.ranges ++ b.ranges, x.1 ≤ 2 ^ 29) :
    beginCopy s n r f = endFlight (copyRows s n f.step a b (copyRnd s n f)) n r f.seq stOk 0 := by
  unfold beginCopy
  simp only [ha, hb]
  split
  next x found =>
    have mem := List.mem_of_find?_eq_some found
    have range : x ∈ a.ranges ++ b.ranges := by
      rw [List.mem_append] at mem ⊢
      exact mem.imp_left List.mem_of_mem_take
    have fails := List.find?_some found
    rw [xferFault_sram s n.val x.2 (low x range)] at fails
    cases fails
  next =>
    have noRead : readFault s n f.fault a.ranges = (s, none) := by simp [readFault, faultless, badIn, clean]
    rw [noRead]
    rfl

/-- A flight alone on its ring ends with its status, where that fails no step. -/
theorem endFlight_push_alone {s : State} {n : Fin 16} {r : Fin 8} (empty : (s.ring n r).flights = []) {f : Flight} {status : Nat}
    (detail : BitVec 160) (passes : failingBits (dOpcode f.d) status = 0) :
    endFlight (push s n r f) n r f.seq status detail = push s n r { f with phase := .done, status := status, detail := detail } := by
  simp only [endFlight, findFlight_push_alone empty, passes, modFlight_push_alone empty]
  rfl

/-- A COPY within basin SRAM that is alone on its ring begins, and does its work, at once. -/
theorem startOne_push_copy {s : State} {n : Fin 16} {r : Fin 8} (empty : (s.ring n r).flights = []) {f : Flight}
    (waits : f.phase = .waiting) (op : dOpcode f.d = 0x08) (inside : outsideCopy s n f = false) :
    startOne (push s n r f) n r f.seq = beginCopy (push s n r { f with phase := .running }) n r { f with phase := .running } := by
  have free : ready (push s n r f) n r f = true := by simp [ready, ahead_push_alone empty, basinsFree, onBasins, op]
  have within : outsideCopy (push s n r { f with phase := .running }) n { f with phase := .running } = false := inside
  simp only [startOne, findFlight_push_alone empty, waits, op, free, modFlight_push_alone empty, beginFlight, within]
  rfl

theorem Tensor.base_mem_ranges (t : Tensor) : (t.base, t.lastOff) ∈ t.ranges := by
  simpa using t.copy_mem_ranges (c := 0) (Nat.succ_pos _)

/-- Between tensors in basin SRAM whose extents agree, a COPY that is alone on its ring writes its rows and is done; what it draws for its rounding is left open here. -/
theorem beginCopy_push_sram {s : State} {n : Fin 16} {r : Fin 8} (empty : (s.ring n r).flights = []) {f : Flight} {a b : Tensor}
    (ha : tensorAt (s.part n) (fld f.d 8 0 12) = a) (hb : tensorAt (s.part n) (fld f.d 10 0 12) = b) (op : dOpcode f.d = 0x08)
    (faultless : f.fault = .none) (clean : s.badSram = []) (ext : ∀ k, k < 5 → a.ext k = b.ext k)
    (low : ∀ x ∈ a.ranges ++ b.ranges, x.1 + x.2 ≤ 2 ^ 29) :
    ∃ u rnd, beginCopy (push s n r f) n r f = push u n r { f with phase := .done, status := stOk, detail := 0 } ∧
      SramWrites n b.ranges s u ∧ push u n r f = copyRows (push s n r f) n f.step a b rnd := by
  have starts : ∀ x ∈ a.ranges ++ b.ranges, x.1 ≤ 2 ^ 29 := fun x mem => Nat.le_trans (Nat.le_add_right _ _) (low x mem)
  obtain ⟨u, eq, writes⟩ := (copyRows_sramWrites (s := push s n r f) n f.step (copyRnd (push s n r f) n f) clean ext
    fun y mem => low y (List.mem_append_right _ mem)).of_push
  have emptyU : (u.ring n r).flights = [] := by rw [State.ring, State.fn, writes.fns]; exact empty
  refine ⟨u, _, ?_, writes, eq.symm⟩
  rw [beginCopy_sram (s := push s n r f) r (by rw [push_part]; exact ha) (by rw [push_part]; exact hb) clean faultless starts, eq]
  exact endFlight_push_alone emptyU 0 (by simp [failingBits, op, stOk, stAborted, stTimeout])

/-- An accepted COPY between basin SRAM tensors on a quiet partition writes its rows, and then stands done in its ring's next slot. -/
theorem exec_copy_sram {s : State} {n : Fin 16} {r : Fin 8} {d : Desc} {a b : Tensor} (may : mayIssue s n r = true)
    (idle : quiet s n = true) (op : dOpcode d = 0x08) (clean : s.badSram = []) (accepted : evaluate s n r d (checkCopy s n r d) = none)
    (ha : tensorAt (s.part n) (fld d 8 0 12) = a) (hb : tensorAt (s.part n) (fld d 10 0 12) = b)
    (low : ∀ x ∈ a.ranges ++ b.ranges, x.1 + x.2 ≤ 2 ^ 29) :
    ∃ u rnd, exec (.copy n r d .none) s = .next (push u n r (newFlight s n r d .done .none)) ∧ SramWrites n b.ranges s u ∧
      push u n r (newFlight s n r d .running .none) =
        copyRows (push s n r (newFlight s n r d .running .none)) n (s.ring n r).openStep a b rnd := by
  obtain ⟨-, ext⟩ := checkCopy_ext (own_of_evaluate accepted)
  rw [ha, hb] at ext
  have empty := quiet_flights idle r
  have spaceA : a.space = 0 := spaceOf_sram (Nat.le_of_add_right_le (low _ (List.mem_append_left _ a.base_mem_ranges)))
  have spaceB : b.space = 0 := spaceOf_sram (Nat.le_of_add_right_le (low _ (List.mem_append_right _ b.base_mem_ranges)))
  have inside : outsideCopy s n (newFlight s n r d .waiting .none) = false := by simp [outsideCopy, newFlight, ha, hb, spaceA, spaceB]
  obtain ⟨u, rnd, works, writes, rows⟩ :=
    beginCopy_push_sram (f := newFlight s n r d .running .none) empty ha hb op rfl clean ext low
  have starts : startOne (push s n r (newFlight s n r d .waiting .none)) n r (s.ring n r).issue =
      push u n r (newFlight s n r d .done .none) :=
    (startOne_push_copy (f := newFlight s n r d .waiting .none) empty rfl op inside).trans works
  have rest : atRest (push u n r (newFlight s n r d .done .none)) n = true :=
    atRest_push (quiet_atRest (writes.quiet idle)) Phase.noConfusion Phase.noConfusion (by simp [newFlight, op])
  refine ⟨u, rnd, ?_, writes, rows⟩
  calc exec (.copy n r d .none) s
    _ = issueWork s n r (dOpcode d == 0x08) d .none (checkCopy s n r d) id := rfl
    _ = .next (push u n r (newFlight s n r d .done .none)) := by
      rw [issueWork, issueWith_accepted _ may (by simp [op]) accepted]
      simp only [id_eq, starts, settle_atRest rest]

end Sys2Proof.Machine
end

section
/-! COPY of a vector of FP32 words: each word of the destination holds what the source's word held before, overlapping or not; and O47. -/
namespace Sys2Proof.Machine

/-! ### Words written one after another -/

theorem memRead_congr {s t : State} {a k : Nat} (same : ∀ x, a ≤ x → x < a + k → readByte t x = readByte s x) : memRead t a k = memRead s a k := by
  induction k generalizing a with
  | zero => rfl
  | succ k ih => exact List.cons_eq_cons.2 ⟨same a (Nat.le_refl a) (by omega), ih fun x low high => same x (by omega) (by omega)⟩

@[simp] theorem memRead_push (s : State) (n : Fin 16) (r : Fin 8) (f : Flight) (a k : Nat) : memRead (push s n r f) a k = memRead s a k :=
  memRead_congr fun _ _ _ => rfl

theorem stepWrite_wf {s : State} (n : Fin 16) (st : Option Nat) {a : Nat} (bs : List Byte) (wf : Memory.wf s = true)
    (fits : a + bs.length ≤ 2 ^ 29) : Memory.wf (stepWrite s n st a bs) = true := by
  obtain ⟨records, eq⟩ := stepWrite_parts s n st bs fits
  rw [eq]
  exact memWrite_wf a bs wf

theorem memRead_stepWrite_same {s : State} (n : Fin 16) (st : Option Nat) {a : Nat} (bs : List Byte) (wf : Memory.wf s = true)
    (fits : a + bs.length ≤ 2 ^ 29) : memRead (stepWrite s n st a bs) a bs.length = bs :=
  (memRead_congr fun x _ _ => readByte_stepWrite s n st bs fits x).trans (memRead_memWrite_same bs wf fits)

theorem memRead_stepWrite_below (s : State) (n : Fin 16) (st : Option Nat) {a c k : Nat} (bs : List Byte) (fits : a + bs.length ≤ 2 ^ 29)
    (below : c + k ≤ a) : memRead (stepWrite s n st a bs) c k = memRead s c k :=
  memRead_congr fun x _ high => (readByte_stepWrite s n st bs fits x).trans
    (readByte_memWrite_outside s bs (by omega) (by omega) (.inl (by omega)))

/-- The words `w` written in order from `base`. -/
def writeWords (s : State) (n : Fin 16) (st : Option Nat) (base : Nat) (w : Nat → List Byte) (k : Nat) : State :=
  (List.range k).foldl (fun t i => stepWrite t n st (base + 4 * i) (w i)) s

theorem writeWords_succ (s : State) (n : Fin 16) (st : Option Nat) (base : Nat) (w : Nat → List Byte) (k : Nat) :
    writeWords s n st base w (k + 1) = stepWrite (writeWords s n st base w k) n st (base + 4 * k) (w k) := by
  simp [writeWords, List.range_succ]

section
variable {s : State} (n : Fin 16) (st : Option Nat) {base : Nat} {w : Nat → List Byte} (len : ∀ i, (w i).length = 4) {k : Nat}
  (wf : Memory.wf s = true) (fits : base + 4 * k ≤ 2 ^ 29)
include len wf fits

theorem writeWords_wf : Memory.wf (writeWords s n st base w k) = true := by
  induction k with
  | zero => exact wf
  | succ k ih =>
    rw [writeWords_succ]
    exact stepWrite_wf n st _ (ih (by omega)) (by rw [len]; omega)

/-- Every word reads back: the last as it was just written, the others as they were before it. -/
theorem memRead_writeWords {i : Nat} (hi : i < k) : memRead (writeWords s n st base w k) (base + 4 * i) 4 = w i := by
  induction k with
  | zero => exact absurd hi (Nat.not_lt_zero i)
  | succ k ih =>
    have room : base + 4 * k + (w k).length ≤ 2 ^ 29 := by rw [len]; omega
    rw [writeWords_succ]
    rcases Nat.lt_succ_iff_lt_or_eq.1 hi with before | rfl
    · exact (memRead_stepWrite_below _ n st _ room (by omega)).trans (ih (by omega) before)
    · have back := memRead_stepWrite_same n st (w i) (writeWords_wf n st len wf (base := base) (k := i) (by omega)) room
      rwa [len] at back

end

/-! ### Vectors of FP32 words -/

/-- A tensor that is one copy of a vector of FP32 words. -/
structure Tensor.IsWords (t : Tensor) : Prop where
  fmt : t.fmt = .fp32
  rank : t.rank = 1
  copies : t.copies = 1
  ext : ∀ k, 0 < k → k < 5 → t.ext k = 1

namespace Tensor.IsWords

variable {t a b : Tensor} (words : t.IsWords)
include words

theorem rows_eq : t.rows = [⟨0, 0, 0, 0, 0⟩] := by
  simp [Tensor.rows, words.ext]

theorem addr_eq (i : Nat) : t.addr 0 ⟨i, 0, 0, 0, 0⟩ = t.base + 4 * i := by
  simp [Tensor.addr, Tensor.rowOff, off0, Fmt.elemBits, words.fmt, Nat.mul_comm i]

/-- From its base to the end of its last element lie its words. -/
theorem lastOff_eq (nonempty : 0 < t.ext 0) : t.lastOff = 4 * t.ext 0 := by
  have row : t.rowOff ⟨0, t.ext 1 - 1, t.ext 2 - 1, t.ext 3 - 1, t.ext 4 - 1⟩ = 0 := by simp [Tensor.rowOff, words.rank, words.ext]
  have stored : t.ext0p = t.ext 0 := by simp [Tensor.ext0p, ceilDiv, Fmt.blockSize, words.fmt]
  have last : off0 t.fmt (t.ext 0 - 1) = 4 * (t.ext 0 - 1) := by simp [off0, Fmt.elemBits, words.fmt, Nat.mul_comm]
  have span : elemSpan t.fmt = 4 := by simp [elemSpan, Fmt.elemBits, words.fmt]
  rw [Tensor.lastOff, row, stored, last, span]
  omega

/-- It covers its words and nothing else. -/
theorem ranges_eq (nonempty : 0 < t.ext 0) : t.ranges = [(t.base, 4 * t.ext 0)] := by
  have scaleless : t.fineLen = 0 := by simp [Tensor.fineLen, words.fmt, Fmt.isBlock, Fmt.isBopoyr, Fmt.isMx]
  simp [Tensor.ranges, words.copies, scaleless, words.lastOff_eq nonempty]

theorem elemCode_eq (s : State) (i : Nat) : elemCode s t 0 ⟨i, 0, 0, 0, 0⟩ = ofLE (memRead s (t.base + 4 * i) 4) := by
  have fits : ofLE (memRead s (t.base + 4 * i) 4) < 2 ^ 32 := by simpa using ofLE_lt (memRead s (t.base + 4 * i) 4)
  simpa [elemCode, words.addr_eq, words.fmt, elemSpan, bitPos, Fmt.elemBits] using fits

theorem writeCode_eq (s : State) (n : Fin 16) (st : Option Nat) (i v : Nat) :
    writeCode s n st t ⟨i, 0, 0, 0, 0⟩ v = stepWrite s n st (t.base + 4 * i) (toLE 4 (v % 2 ^ 32)) := by
  have whole : putBits s (t.base + 4 * i) 4 0 32 v = toLE 4 (v % 2 ^ 32) := putBits_whole s _ 4 v
  simp [writeCode, words.copies, words.addr_eq, words.fmt, elemSpan, bitPos, Fmt.elemBits, whole]

end Tensor.IsWords

/-- The bytes of a word pass through its code unchanged. -/
theorem toLE_ofLE_memRead (s : State) (a : Nat) : toLE 4 (ofLE (memRead s a 4) % 2 ^ 32) = memRead s a 4 := by
  have fits : ofLE (memRead s a 4) < 2 ^ 32 := by simpa using ofLE_lt (memRead s a 4)
  rw [Nat.mod_eq_of_lt fits]
  simpa using toLE_ofLE (memRead s a 4)

/-- COPY of one vector of words onto another writes the source's words, as they were before it, in order. -/
theorem copyRows_words (s : State) (n : Fin 16) (st : Option Nat) {a b : Tensor} (rnd : Nat → Rnd) (ha : a.IsWords) (hb : b.IsWords) :
    copyRows s n st a b rnd = writeWords s n st b.base (fun i => memRead s (a.base + 4 * i) 4) (b.ext 0) := by
  have same : sameCoding a b = true := by simp [sameCoding, ha.fmt, hb.fmt, Fmt.isBopoyr]
  have plain : b.fmt.isBlock = false := by simp [hb.fmt, Fmt.isBlock, Fmt.isBopoyr, Fmt.isMx]
  simp only [copyRows, ha.rows_eq, List.foldl_cons, List.foldl_nil, copyRow, same, plain, if_true, ha.elemCode_eq, hb.writeCode_eq,
    toLE_ofLE_memRead]
  rfl

/-! ### The statement -/

/-- A descriptor row that its ring may issue and that is accepted answers a next state. -/
theorem issueWork_answers {s : State} {n : Fin 16} {r : Fin 8} {row : Bool} {d : Desc} {fault : UnitFault} {own : Option (Nat × Nat)}
    (accept : State → State) (may : mayIssue s n r = true) (mine : row = true) (accepted : evaluate s n r d own = none) :
    ∃ t, issueWork s n r row d fault own accept = .next t := ⟨_, issueWith_accepted _ may mine accepted⟩

section
variable {s : State} {n : Fin 16} {r : Fin 8} {d : Desc} {a b : Tensor} (may : mayIssue s n r = true) (idle : quiet s n = true)
  (op : dOpcode d = 0x08) (clean : s.badSram = []) (accepted : evaluate s n r d (checkCopy s n r d) = none)
  (ha : tensorAt (s.part n) (fld d 8 0 12) = a) (hb : tensorAt (s.part n) (fld d 10 0 12) = b)
include may idle op clean accepted ha hb

/-- COPY between basin SRAM tensors writes its destination alone. -/
theorem exec_copy_frame (low : ∀ x ∈ a.ranges ++ b.ranges, x.1 + x.2 ≤ 2 ^ 29) :
    ∃ t, exec (.copy n r d .none) s = .next t ∧ onlyRingPart n r { s with sram := t.sram } t ∧
      t.ring n r = took (s.ring n r) (newFlight s n r d .done .none) ∧ t.part n = { s.part n with steps := (t.part n).steps } ∧
      ∀ x, x < 2 ^ 29 → (∀ y ∈ b.ranges, x < y.1 ∨ y.1 + y.2 ≤ x) → Sparse.get 0 t.sram x = Sparse.get 0 s.sram x := by
  obtain ⟨u, rnd, run, writes, -⟩ := exec_copy_sram may idle op clean accepted ha hb low
  have ring : u.ring n r = s.ring n r := by rw [State.ring, State.fn, writes.fns]; rfl
  refine ⟨_, run, ⟨u, writes.only, push_only u n r _⟩, by rw [push_ring_same, ring], writes.steps, fun x hx outside => ?_⟩
  have same := writes.frame x hx outside
  rwa [readByte_sram _ hx, readByte_sram _ hx] at same

/-- COPY of a vector of FP32 words moves every word's bits. -/
theorem exec_copy_words (wf : Memory.wf s = true) (wordsA : a.IsWords) (fmtB : b.fmt = .fp32) (copiesB : b.copies = 1)
    (lowA : a.base + 4 * a.ext 0 ≤ 2 ^ 29) (lowB : b.base + 4 * a.ext 0 ≤ 2 ^ 29) :
    ∃ t, exec (.copy n r d .none) s = .next t ∧ ∀ i, i < a.ext 0 → memRead t (b.base + 4 * i) 4 = memRead s (a.base + 4 * i) 4 := by
  rcases Nat.eq_zero_or_pos (a.ext 0) with empty | nonempty
  · obtain ⟨t, run⟩ := issueWork_answers (fault := .none) id may (row := dOpcode d == 0x08) (by simp [op]) accepted
    exact ⟨t, run, fun i hi => absurd hi (by omega)⟩
  · obtain ⟨rank, ext⟩ := checkCopy_ext (own_of_evaluate accepted)
    rw [ha, hb] at rank ext
    have wordsB : b.IsWords := ⟨fmtB, rank ▸ wordsA.rank, copiesB, fun k pos lt => ext k lt ▸ wordsA.ext k pos lt⟩
    have ext0 : b.ext 0 = a.ext 0 := (ext 0 (by decide)).symm
    have low : ∀ x ∈ a.ranges ++ b.ranges, x.1 + x.2 ≤ 2 ^ 29 := by
      simpa [wordsA.ranges_eq nonempty, wordsB.ranges_eq (ext0 ▸ nonempty), ext0] using ⟨lowA, lowB⟩
    obtain ⟨u, rnd, run, -, rows⟩ := exec_copy_sram may idle op clean accepted ha hb low
    refine ⟨_, run, fun i hi => ?_⟩
    have moved := memRead_writeWords (s := push s n r (newFlight s n r d .running .none)) n (s.ring n r).openStep
      (w := fun i => memRead (push s n r (newFlight s n r d .running .none)) (a.base + 4 * i) 4) (fun i => memRead_length _ _ 4) wf
      (ext0 ▸ lowB) (ext0 ▸ hi)
    rw [← copyRows_words _ n _ rnd wordsA wordsB, ← rows] at moved
    simpa using moved

end

/-- Settles O47: the frame of a COPY, and the words of one between vectors of FP32. -/
theorem copiesMoveTheirBytes : Obligations.CopiesMoveTheirBytes := by
  refine ⟨fun s n r d may idle op clean accepted low => ?_, fun s n r d wf may idle op clean accepted fmtA fmtB rank copiesA copiesB ext lowA lowB => ?_⟩
  · exact exec_copy_frame may idle op clean accepted rfl rfl low
  · exact exec_copy_words may idle op clean accepted rfl rfl wf ⟨fmtA, rank, copiesA, ext⟩ fmtB copiesB lowA lowB

/-! ### A COPY that meets the hypotheses -/

/-- COPY of tensor 0 to tensor 1. -/
def shiftCopy : Desc := packFields 512 [(0, 0, 8, 0x08), (10, 0, 12, 1)]

/-- A vector of three FP32 words at a base. -/
def threeWords (base : Nat) : Tensor :=
  packFields 512 [(0, 0, 48, base), (6, 4, 3, 1), (6, 7, 1, 1), (8, 0, 24, 3), (11, 0, 24, 1), (14, 0, 24, 1), (17, 0, 24, 1), (20, 0, 24, 1)]

/-- The powered machine with two vectors of three words that overlap, one a word above the other, and a descriptor waiting in step 1. -/
def shiftReady : State :=
  { (poweredUp.modRing 0 0 fun x => { x with ctl := 0xD, tail := 1, openStep := some 1 }).modPart 0 fun p => { p with
      plan := some { heldGemmPlan with tensors := [threeWords 0, threeWords 4], manifest := [manifestOf shiftCopy] } } with
    sram := [(0, 1), (4, 2), (8, 3)] }

/-- O47's hypotheses are met: the words 1, 2, 3 move up by one word, though source and destination overlap. -/
theorem shiftCopy_moves :
    ∃ t, exec (.copy 0 0 shiftCopy .none) shiftReady = .next t ∧ ∀ i, i < 3 → memRead t (4 + 4 * i) 4 = memRead shiftReady (4 * i) 4 := by
  have source : tensorAt (shiftReady.part 0) (fld shiftCopy 8 0 12) = threeWords 0 := by decide +kernel
  have target : tensorAt (shiftReady.part 0) (fld shiftCopy 10 0 12) = threeWords 4 := by decide +kernel
  have ones : ∀ k, k < 5 → 0 < k → (threeWords 0).ext k = 1 := by decide +kernel
  have words : (threeWords 0).IsWords :=
    ⟨by decide +kernel, by decide +kernel, by decide +kernel, fun k pos lt => ones k lt pos⟩
  have bases : (threeWords 0).base = 0 ∧ (threeWords 4).base = 4 ∧ (threeWords 0).ext 0 = 3 := by decide +kernel
  obtain ⟨baseA, baseB, ext⟩ := bases
  simpa [baseA, baseB, ext] using exec_copy_words (s := shiftReady) (n := 0) (r := 0) (d := shiftCopy) (by decide +kernel) (by decide +kernel)
    (by decide +kernel) rfl (by decide +kernel) source target (by decide +kernel) words (by decide +kernel) (by decide +kernel)
    (by decide +kernel) (by decide +kernel)

end Sys2Proof.Machine
end

section
/-! Contributions to a cistern word (R137, R149): what an add does to DATA, SPEC and RES, that two adds may change places, and O9. -/
namespace Sys2Proof.Machine

/-! ### One add -/

/-- The carry out of bit 127 of an add. -/
def addCarry (w data : BitVec 128) : Nat := (w.toNat + data.toNat) / 2 ^ 128

theorem addCarry_le_one (w data : BitVec 128) : addCarry w data ≤ 1 := by
  have hw := w.isLt
  have hd := data.isLt
  unfold addCarry
  omega

/-- In whichever order two contributions come, the sum carries out as often. -/
theorem addCarry_add_addCarry (w a b : BitVec 128) : addCarry w a + addCarry (w + a) b = addCarry w b + addCarry (w + b) a := by
  simp only [addCarry, BitVec.toNat_add]
  omega

theorem addWord_data (w : CWord) (data : BitVec 128) (spec : BitVec 3) : (addWord w data spec).data = w.data + data := rfl

theorem addWord_spec (w : CWord) (data : BitVec 128) (spec : BitVec 3) : (addWord w data spec).spec = w.spec ||| spec := rfl

/-- The predicted residue: each carry out of bit 127 drops 2^128, which is 4 modulo 127 (R137). -/
theorem addWord_res_toNat (w : CWord) (data : BitVec 128) (spec : BitVec 3) :
    (addWord w data spec).res.toNat = (w.res.toNat + data.toNat % 127 + 508 - 4 * addCarry w.data data) % 127 := by
  have small : ∀ x, x % 127 % 2 ^ 7 = x % 127 := by omega
  rw [addWord, BitVec.toNat_ofNat, small, addCarry]

/-- RES stays DATA modulo 127. -/
theorem addWord_res_mod {w : CWord} (data : BitVec 128) (spec : BitVec 3) (res : w.res = BitVec.ofNat 7 (w.data.toNat % 127)) :
    (addWord w data spec).res = BitVec.ofNat 7 ((addWord w data spec).data.toNat % 127) := by
  have before : w.res.toNat = w.data.toNat % 127 := by rw [res, BitVec.toNat_ofNat]; omega
  refine BitVec.eq_of_toNat_eq ?_
  rw [addWord_res_toNat, addWord_data, BitVec.toNat_ofNat, BitVec.toNat_add, before, addCarry]
  omega

/-- The residues that two adds predict, in either order: `c` and `d` are the carries of one order, `c'` and `d'` those of the other. -/
theorem residue_comm {r x y c d c' d' : Nat} (hc : c ≤ 1) (hd : d ≤ 1) (hc' : c' ≤ 1) (hd' : d' ≤ 1) (carries : c + d = c' + d') :
    ((r + x + 508 - 4 * c) % 127 + y + 508 - 4 * d) % 127 = ((r + y + 508 - 4 * c') % 127 + x + 508 - 4 * d') % 127 := by
  omega

/-- Two adds may change places. -/
theorem addWord_right_comm (w : CWord) (a b : BitVec 128) (spec spec' : BitVec 3) :
    addWord (addWord w a spec) b spec' = addWord (addWord w b spec') a spec := by
  have res : (addWord (addWord w a spec) b spec').res = (addWord (addWord w b spec') a spec).res := by
    refine BitVec.eq_of_toNat_eq ?_
    simp only [addWord_res_toNat, addWord_data]
    exact residue_comm (addCarry_le_one _ _) (addCarry_le_one _ _) (addCarry_le_one _ _) (addCarry_le_one _ _) (addCarry_add_addCarry ..)
  have sum : w.data + a + b = w.data + b + a := by rw [BitVec.add_assoc, BitVec.add_comm a, BitVec.add_assoc]
  have ored : w.spec ||| spec ||| spec' = w.spec ||| spec' ||| spec := by rw [BitVec.or_assoc, BitVec.or_comm spec, BitVec.or_assoc]
  exact (CWord.mk.injEq ..).mpr ⟨sum, ored, res, rfl⟩

/-! ### Many contributions -/

/-- A word after the contributions of values to a handle with window exponent WEXP and rounding mode CRND (R141), in order of their arrival. -/
def enterAll (wexp : Int) (crnd : Bool) (w : CWord) (xs : List Val) : CWord :=
  xs.foldl (fun w x => addWord w (entryOf wexp crnd x).1 (entryOf wexp crnd x).2) w

section
variable (wexp : Int) (crnd : Bool) (w : CWord) (xs : List Val)

theorem enterAll_data : (enterAll wexp crnd w xs).data = BitVec.ofNat 128 (w.data.toNat + (xs.map fun x => (entryOf wexp crnd x).1.toNat).sum) := by
  induction xs generalizing w with
  | nil => simp [enterAll]
  | cons x xs ih =>
    refine (ih _).trans ?_
    rw [addWord_data, List.map_cons, List.sum_cons]
    refine BitVec.eq_of_toNat_eq ?_
    simp only [BitVec.toNat_ofNat, BitVec.toNat_add, Nat.mod_add_mod, Nat.add_assoc]

theorem enterAll_spec : (enterAll wexp crnd w xs).spec = xs.foldl (fun a x => a ||| (entryOf wexp crnd x).2) w.spec :=
  (List.foldl_hom CWord.spec fun _ _ => rfl).symm

theorem enterAll_res (res : w.res = BitVec.ofNat 7 (w.data.toNat % 127)) :
    (enterAll wexp crnd w xs).res = BitVec.ofNat 7 ((enterAll wexp crnd w xs).data.toNat % 127) :=
  List.foldlRecOn (motive := fun w : CWord => w.res = BitVec.ofNat 7 (w.data.toNat % 127)) xs _ res fun _ res _ _ => addWord_res_mod _ _ res

theorem enterAll_perm {ys : List Val} (perm : xs.Perm ys) : enterAll wexp crnd w xs = enterAll wexp crnd w ys :=
  perm.foldl_eq' (fun _ _ _ _ w => addWord_right_comm w ..) w

end

/-- Settles O9: the sums by induction over the contributions, and their order because two adds may change places. -/
theorem contributionsAddInAnyOrder : Obligations.ContributionsAddInAnyOrder := by
  intro w wexp crnd xs
  exact ⟨enterAll_data wexp crnd w xs, enterAll_spec wexp crnd w xs, enterAll_res wexp crnd w xs, fun _ => enterAll_perm wexp crnd w xs⟩

/-- O9's hypothesis is met by a written word: all ones takes +1 and +∞ in either order, and its residue follows DATA through the wrap. -/
theorem allOnes_takes_one_and_inf :
    enterAll 0 false (mkWord (BitVec.allOnes 128) 0) [.fin false 1 1, .inf false] =
        enterAll 0 false (mkWord (BitVec.allOnes 128) 0) [.inf false, .fin false 1 1] ∧
      (enterAll 0 false (mkWord (BitVec.allOnes 128) 0) [.fin false 1 1, .inf false]).res =
        BitVec.ofNat 7 ((enterAll 0 false (mkWord (BitVec.allOnes 128) 0) [.fin false 1 1, .inf false]).data.toNat % 127) := by
  obtain ⟨-, -, res, order⟩ := contributionsAddInAnyOrder (mkWord (BitVec.allOnes 128) 0) 0 false [.fin false 1 1, .inf false]
  exact ⟨order _ (.swap ..), res rfl⟩

end Sys2Proof.Machine
end

section
/-! Cistern descriptors (R153 to R158): what an accepted one does as it issues on a quiet partition, and O46. -/
namespace Sys2Proof.Machine

/-! ### Work that begins at issue -/

/-- The opcodes of the cistern descriptors (R153 to R158). -/
def isCistern (op : Nat) : Prop := op = 0x20 ∨ op = 0x21 ∨ op = 0x22 ∨ op = 0x23

/-- Without an operand fault and without a bad word, reads meet nothing. -/
theorem readFault_clean {s : State} (n : Fin 16) (rs : List (Nat × Nat)) (clean : s.badSram = []) : readFault s n .none rs = (s, none) := by
  simp [readFault, badIn, clean]

/-- A cistern descriptor that is alone on its ring begins at once: it needs no basin. -/
theorem startOne_push_cistern {s : State} {n : Fin 16} {r : Fin 8} (empty : (s.ring n r).flights = []) {f : Flight}
    (cistern : isCistern (dOpcode f.d)) (waits : f.phase = .waiting) :
    startOne (push s n r f) n r f.seq = beginFlight (push s n r { f with phase := .running }) n r { f with phase := .running } := by
  have offBasins : onBasins f.d = false ∧ isColl (dOpcode f.d) = false := by
    unfold isCistern at cistern
    simp only [onBasins, isColl, decide_eq_false_iff_not]
    omega
  have free : ready (push s n r f) n r f = true := by simp [ready, ahead_push_alone empty, basinsFree, offBasins.1]
  simp only [startOne, findFlight_push_alone empty, waits, offBasins.2, free, modFlight_push_alone empty]
  rfl

/-- A row of cistern descriptors: an accepted one begins on a ring that was empty. -/
theorem issueWork_cistern {s : State} {n : Fin 16} {r : Fin 8} {row : Bool} {d : Desc} {own : Option (Nat × Nat)} (accept : State → State)
    (may : mayIssue s n r = true) (empty : ((accept s).ring n r).flights = []) (mine : row = true) (cistern : isCistern (dOpcode d))
    (accepted : evaluate s n r d own = none) :
    issueWork s n r row d .none own accept =
      .next (settle (beginFlight (push (accept s) n r (newFlight s n r d .running .none)) n r (newFlight s n r d .running .none)) n) := by
  have starts := startOne_push_cistern empty (f := newFlight s n r d .waiting .none) cistern rfl
  rw [issueWork, issueWith_accepted _ may mine accepted]
  exact congrArg (fun t => (.next (settle t n) : Result)) starts

/-- What each cistern descriptor begins. -/
theorem beginFlight_cstOpen (s : State) (n : Fin 16) (r : Fin 8) {f : Flight} (op : dOpcode f.d = 0x20) :
    beginFlight s n r f = beginCstOpen s n r f := by simp [beginFlight, op]

theorem beginFlight_cstAdd (s : State) (n : Fin 16) (r : Fin 8) {f : Flight} (op : dOpcode f.d = 0x21) :
    beginFlight s n r f = beginCstAdd s n r f := by simp [beginFlight, op]

theorem beginFlight_cstRead (s : State) (n : Fin 16) (r : Fin 8) {f : Flight} (op : dOpcode f.d = 0x22) :
    beginFlight s n r f = beginCstRead s n r f := by simp [beginFlight, op]

theorem beginFlight_cstClose (s : State) (n : Fin 16) (r : Fin 8) {f : Flight} (op : dOpcode f.d = 0x23) :
    beginFlight s n r f = beginCstClose s n r f := by simp [beginFlight, op]

/-- Lane operations do not see the rings: they may be queued before the ring takes its descriptor. -/
theorem push_enqueue (s : State) (n : Fin 16) (r : Fin 8) (f : Flight) (ops : List LaneOp) :
    (push s n r f).enqueue ops = push (s.enqueue ops) n r f := rfl

/-- A partition at rest stays at rest when it takes a cistern descriptor that has begun. -/
theorem settle_push_cistern {s : State} {n : Fin 16} {r : Fin 8} {f : Flight} (rest : atRest s n = true) (cistern : isCistern (dOpcode f.d))
    (begun : f.phase = .running ∨ f.phase = .done) : settle (push s n r f) n = push s n r f := by
  refine settle_atRest (atRest_push rest ?_ ?_ ?_)
  · rcases begun with phase | phase <;> simp [phase]
  · rcases begun with phase | phase <;> simp [phase]
  · unfold isCistern at cistern
    omega

/-- A cistern descriptor whose work is to send operations to the lanes runs on until they are done (R150). -/
theorem issueWork_enqueues {s : State} {n : Fin 16} {r : Fin 8} {row : Bool} {d : Desc} {own : Option (Nat × Nat)} {ops : List LaneOp}
    (accept : State → State) (may : mayIssue s n r = true) (idle : quiet (accept s) n = true) (mine : row = true)
    (cistern : isCistern (dOpcode d)) (accepted : evaluate s n r d own = none)
    (works : beginFlight (push (accept s) n r (newFlight s n r d .running .none)) n r (newFlight s n r d .running .none) =
      (push (accept s) n r (newFlight s n r d .running .none)).enqueue ops) :
    issueWork s n r row d .none own accept = .next (push ((accept s).enqueue ops) n r (newFlight s n r d .running .none)) := by
  have rest : atRest ((accept s).enqueue ops) n = true := quiet_atRest (s := accept s) idle
  rw [issueWork_cistern accept may (quiet_flights idle r) mine cistern accepted, works, push_enqueue, settle_push_cistern rest cistern (.inl rfl)]

/-! ### CST_OPEN -/

theorem acceptCstOpen_only (s : State) (n : Fin 16) (r : Fin 8) (d : Desc) : onlyPart n s (acceptCstOpen s n r d) := modPart_only s n _

theorem acceptCstOpen_part (s : State) (n : Fin 16) (r : Fin 8) (d : Desc) :
    (acceptCstOpen s n r d).part n = { s.part n with handles := (s.part n).handles ++ [openHandle s n r d] } :=
  State.part_modPart_same s n _

theorem acceptCstOpen_quiet {s : State} {n : Fin 16} (r : Fin 8) (d : Desc) (idle : quiet s n = true) : quiet (acceptCstOpen s n r d) n = true := by
  simpa [quiet, acceptCstOpen] using idle

/-- CST_OPEN's zeroing writes, one to each word of its region (R153). -/
def zeroingOps (tag : Tag) (d : Desc) : List LaneOp := (List.range (coCount d)).map fun i => ⟨tag, coBase d + i, .zero⟩

/-- CST_OPEN on a quiet partition opens its handle, and its zeroing writes wait for the lanes. -/
theorem exec_cstOpen {s : State} {n : Fin 16} {r : Fin 8} {d : Desc} (may : mayIssue s n r = true) (idle : quiet s n = true)
    (op : dOpcode d = 0x20) (accepted : evaluate s n r d (checkCstOpen s n r d) = none) :
    exec (.cstOpen n r d) s = .next (push ((acceptCstOpen s n r d).enqueue (zeroingOps ⟨n.val, r.val, (s.ring n r).issue⟩ d)) n r
      (newFlight s n r d .running .none)) :=
  issueWork_enqueues (fun s => acceptCstOpen s n r d) may (acceptCstOpen_quiet r d idle) (by simp [op]) (.inl op) accepted (beginFlight_cstOpen _ n r op)

/-! ### CST_ADD -/

/-- The lane operations of a CST_ADD: one add for each element, or with RAW one for each image (R141, R143, R156). -/
def contributionOps (s : State) (n : Fin 16) (r : Fin 8) (f : Flight) : List LaneOp :=
  let tag : Tag := ⟨n.val, r.val, f.seq⟩
  let t := tensorAt (s.part n) (fld f.d 8 0 12)
  if cRaw f.d then (List.range (cCount f.d)).flatMap fun j =>
    addWordOp f.hands tag (cRef f.d) j (ofRaw (memRead s (cRawAddr f.d + 32 * j) 32)).data (ofRaw (memRead s (cRawAddr f.d + 32 * j) 32)).spec
  else (List.range t.count).flatMap fun i => addOp f.hands tag (cRef f.d) i (elemVal s t 0 (t.idx i))

@[simp] theorem readByte_push (s : State) (n : Fin 16) (r : Fin 8) (f : Flight) (a : Nat) : readByte (push s n r f) a = readByte s a :=
  readByte_congr (fun _ => rfl) (fun _ => rfl) fun _ => rfl

@[simp] theorem elemVal_push (s : State) (n : Fin 16) (r : Fin 8) (f : Flight) (t : Tensor) (c : Nat) (x : Idx) :
    elemVal (push s n r f) t c x = elemVal s t c x := by
  simp only [elemVal, elemCode, fineCode, memRead_push, readByte_push]

/-- The elements that a CST_ADD reads do not depend on the rings. -/
theorem contributionOps_push (s : State) (n : Fin 16) (r : Fin 8) (e f : Flight) :
    contributionOps (push s n r e) n r f = contributionOps s n r f := by
  simp only [contributionOps, push_part, memRead_push, elemVal_push]

/-- Where its reads meet no fault, a CST_ADD does no more than send its contributions. -/
theorem beginCstAdd_clean {s : State} (n : Fin 16) (r : Fin 8) {f : Flight} (clean : s.badSram = []) (faultless : f.fault = .none) :
    beginCstAdd s n r f = s.enqueue (contributionOps s n r f) := by
  simp only [beginCstAdd, faultless, readFault_clean n _ clean]
  rfl

/-- CST_ADD on a quiet partition: its contributions wait for the lanes. -/
theorem exec_cstAdd {s : State} {n : Fin 16} {r : Fin 8} {d : Desc} (may : mayIssue s n r = true) (idle : quiet s n = true)
    (clean : s.badSram = []) (op : dOpcode d = 0x21) (accepted : evaluate s n r d (checkCstAdd s n r d) = none) :
    exec (.cstAdd n ⟨r, .none⟩ d) s = .next (push (s.enqueue (contributionOps s n r (newFlight s n r d .running .none))) n r
      (newFlight s n r d .running .none)) := by
  refine issueWork_enqueues id may idle (by simp [op]) (.inr (.inl op)) accepted ?_
  rw [← contributionOps_push s n r (newFlight s n r d .running .none)]
  exact (beginFlight_cstAdd _ n r op).trans (beginCstAdd_clean n r (f := newFlight s n r d .running .none) clean rfl)

/-! ### CST_READ -/

/-- The lane operations of a CST_READ: one readout read for each word (R157). -/
def readoutOps (n : Fin 16) (r : Fin 8) (f : Flight) : List LaneOp :=
  (List.range (readWords f).length).map fun i => ⟨⟨n.val, r.val, f.seq⟩, (readWords f).getD i 0, .read i (cClear f.d)⟩

/-- Where its transfer does not fail, a CST_READ does no more than send its readout reads. -/
theorem beginCstRead_passes {s : State} {n : Fin 16} (r : Fin 8) {f : Flight}
    (passes : ∀ x ∈ readTargets (s.part n) f.d, xferFault s n.val x.1 x.2 = false) :
    beginCstRead s n r f = s.enqueue (readoutOps n r f) := by
  have noFault : (readTargets (s.part n) f.d).find? (fun x => xferFault s n.val x.1 x.2) = none :=
    List.find?_eq_none.2 fun x mem => by simp [passes x mem]
  simp only [beginCstRead, noFault]
  rfl

/-- CST_READ on a quiet partition: its readout reads wait for the lanes. -/
theorem exec_cstRead {s : State} {n : Fin 16} {r : Fin 8} {d : Desc} (may : mayIssue s n r = true) (idle : quiet s n = true)
    (op : dOpcode d = 0x22) (accepted : evaluate s n r d (checkCstRead s n r d) = none)
    (passes : ∀ x ∈ readTargets (s.part n) d, xferFault s n.val x.1 x.2 = false) :
    exec (.cstRead n r d) s = .next (push (s.enqueue (readoutOps n r (newFlight s n r d .running .none))) n r
      (newFlight s n r d .running .none)) := by
  refine issueWork_enqueues id may idle (by simp [op]) (.inr (.inr (.inl op))) accepted ?_
  exact (beginFlight_cstRead _ n r op).trans (beginCstRead_passes r (f := newFlight s n r d .running .none) passes)

/-! ### CST_CLOSE -/

/-- An accepted CST_CLOSE names a handle of its own ring (R155, R158). -/
theorem checkCstClose_found {s : State} {n : Fin 16} {r : Fin 8} {d : Desc} (h : checkCstClose s n r d = none) :
    ∃ x, findHandle (s.part n) (coHandle d) = some x ∧ x.ring = r.val := by
  unfold checkCstClose at h
  split at h
  · cases h
  next x found =>
    split at h
    · cases h
    next ring => exact ⟨x, found, Decidable.not_not.1 ring⟩

/-- The handles after a CST_CLOSE of number k has issued: that number's open ones are closing. -/
def markClosing (k : Nat) (hs : List Handle) : List Handle :=
  hs.map fun h => if h.num == k && !h.closing then { h with closing := true } else h

/-- The handles once a CST_CLOSE of number k takes effect on ring r. -/
def freeClosing (r : Fin 8) (k : Nat) (hs : List Handle) : List Handle := hs.eraseP fun h => h.closing && h.ring == r.val && h.num == k

theorem markClosing_other {k : Nat} {hs : List Handle} (other : ∀ h ∈ hs, h.num ≠ k) : markClosing k hs = hs :=
  (List.map_congr_left fun h mem => by simp [other h mem]).trans (List.map_id hs)

/-- The only handle of its number goes, and the others stand. -/
theorem freeClosing_markClosing {r : Fin 8} {k : Nat} {hs : List Handle} {x : Handle}
    (found : hs.find? (fun h => h.num == k && !h.closing) = some x) (ring : x.ring = r.val) (one : (hs.filter fun h => h.num == k).length = 1) :
    freeClosing r k (markClosing k hs) = hs.filter fun h => h.num != k := by
  induction hs with
  | nil => cases found
  | cons h hs ih =>
    by_cases same : h.num = k
    · have other : ∀ e ∈ hs, e.num ≠ k := by simpa [same] using one
      have first : h.closing = false ∧ h = x := by
        cases closing : h.closing with
        | false => exact ⟨rfl, by simpa [same, closing] using found⟩
        | true =>
          rw [List.find?_cons_of_neg (by simp [closing])] at found
          have num : x.num = k ∧ x.closing = false := by simpa using List.find?_some found
          exact absurd num.1 (other x (List.mem_of_find?_eq_some found))
      have head : markClosing k (h :: hs) = { h with closing := true } :: hs := by
        have closes : (if h.num == k && !h.closing then { h with closing := true } else h) = { h with closing := true } :=
          if_pos (by simp only [same, first.1, beq_self_eq_true, Bool.not_false, Bool.and_self])
        exact List.cons_eq_cons.2 ⟨closes, markClosing_other other⟩
      have ring' : h.ring = r.val := first.2 ▸ ring
      rw [head, freeClosing, List.eraseP_cons_of_pos (by simp [same, ring']), List.filter_cons_of_neg (by simp [same])]
      exact (List.filter_eq_self.2 fun e mem => by simp [other e mem]).symm
    · have head : markClosing k (h :: hs) = h :: markClosing k hs := congrArg (· :: _) (by simp [same])
      rw [head, freeClosing, List.eraseP_cons_of_neg (by simp [same]), List.filter_cons_of_pos (by simp [same])]
      exact congrArg (h :: ·) (ih (by simpa [same] using found) (by simpa [same] using one))

/-- Partition n with the handles of number `coHandle d` freed, as a CST_CLOSE of ring r does. -/
def freed (s : State) (n : Fin 16) (r : Fin 8) (d : Desc) : State :=
  (acceptCstClose s n d).modPart n fun p => { p with handles := freeClosing r (coHandle d) p.handles }

theorem freed_only (s : State) (n : Fin 16) (r : Fin 8) (d : Desc) : onlyPart n s (freed s n r d) :=
  (modPart_only s n _).trans (modPart_only _ n _)

theorem freed_part (s : State) (n : Fin 16) (r : Fin 8) (d : Desc) :
    (freed s n r d).part n = { s.part n with handles := freeClosing r (coHandle d) (markClosing (coHandle d) (s.part n).handles) } := by
  simp only [freed, acceptCstClose, State.part_modPart_same]
  rfl

theorem acceptCstClose_quiet {s : State} {n : Fin 16} (d : Desc) (idle : quiet s n = true) : quiet (acceptCstClose s n d) n = true := by
  simpa [quiet, acceptCstClose] using idle

theorem freed_quiet {s : State} {n : Fin 16} (r : Fin 8) (d : Desc) (idle : quiet s n = true) : quiet (freed s n r d) n = true := by
  simpa [quiet, freed, acceptCstClose] using idle

/-- A CST_CLOSE that is alone on its ring frees its handle and ends OK. -/
theorem beginCstClose_push_alone {s : State} {n : Fin 16} {r : Fin 8} {d : Desc} {f : Flight} (empty : (s.ring n r).flights = [])
    (op : dOpcode f.d = 0x23) (desc : f.d = d) :
    beginCstClose (push (acceptCstClose s n d) n r f) n r f = push (freed s n r d) n r { f with phase := .done, status := stOk, detail := 0 } := by
  subst desc
  exact endFlight_push_alone (s := freed s n r f.d) empty 0 (by simp [failingBits, op])

/-- CST_CLOSE on a quiet partition frees its handle and is done. -/
theorem exec_cstClose {s : State} {n : Fin 16} {r : Fin 8} {d : Desc} (may : mayIssue s n r = true) (idle : quiet s n = true)
    (op : dOpcode d = 0x23) (accepted : evaluate s n r d (checkCstClose s n r d) = none) :
    exec (.cstClose n r d) s = .next (push (freed s n r d) n r (newFlight s n r d .done .none)) := by
  have cistern : isCistern (dOpcode d) := .inr (.inr (.inr op))
  have works : beginFlight (push (acceptCstClose s n d) n r (newFlight s n r d .running .none)) n r (newFlight s n r d .running .none) =
      push (freed s n r d) n r (newFlight s n r d .done .none) :=
    (beginFlight_cstClose _ n r op).trans
      (beginCstClose_push_alone (f := newFlight s n r d .running .none) (quiet_flights idle r) op rfl)
  calc exec (.cstClose n r d) s
    _ = issueWork s n r (dOpcode d == 0x23) d .none (checkCstClose s n r d) fun s => acceptCstClose s n d := rfl
    _ = .next (push (freed s n r d) n r (newFlight s n r d .done .none)) := by
      rw [issueWork_cistern _ may (quiet_flights (acceptCstClose_quiet d idle) r) (by simp [op]) cistern accepted, works,
        settle_push_cistern (quiet_atRest (freed_quiet r d idle)) cistern (.inr rfl)]

/-! ### The statement -/

/-- Settles O46: each of the four rows begins its work at issue; three send it to the lanes, and CST_CLOSE is done. -/
theorem cisternDescriptors : Obligations.CisternDescriptors := by
  refine ⟨fun s n r d may idle op accepted => ?_, fun s n r d may idle clean => ⟨fun op accepted => ?_, fun op accepted passes => ?_⟩,
    fun s n r d may idle op accepted one => ?_⟩
  · exact ⟨_, exec_cstOpen may idle op accepted, ⟨(acceptCstOpen s n r d).enqueue _, ⟨rfl, (acceptCstOpen_only s n r d).2⟩, push_only _ n r _⟩,
      push_ring_same _ n r _, acceptCstOpen_part s n r d, rfl⟩
  · exact ⟨_, exec_cstAdd may idle clean op accepted, push_only (s.enqueue _) n r _, push_ring_same _ n r _, rfl⟩
  · exact ⟨_, exec_cstRead may idle op accepted passes, push_only (s.enqueue _) n r _, push_ring_same _ n r _, rfl⟩
  · obtain ⟨x, found, ring⟩ := checkCstClose_found (own_of_evaluate accepted)
    refine ⟨_, exec_cstClose may idle op accepted, ⟨freed s n r d, freed_only s n r d, push_only _ n r _⟩, push_ring_same _ n r _, ?_⟩
    rw [push_part, freed_part, freeClosing_markClosing found ring one]

/-! ### Descriptors that meet the hypotheses -/

/-- CST_OPEN of handle 2 over words 512 to 514, CST_ADD of tensor 0 to handle 1, CST_READ of it back to tensor 0, and CST_CLOSE of handle 1. -/
def openThree : Desc := packFields 512 [(0, 0, 8, 0x20), (8, 0, 8, 2), (12, 0, 22, 512), (16, 0, 23, 3)]
def addThree : Desc := packFields 512 [(0, 0, 8, 0x21), (12, 0, 32, 0x1000000)]
def readThree : Desc := packFields 512 [(0, 0, 8, 0x22), (12, 0, 32, 0x1000000), (24, 0, 23, 3)]
def closeOne : Desc := packFields 512 [(0, 0, 8, 0x23), (8, 0, 8, 1)]

/-- A plan whose ring 0 owns cistern words 0 to 1,023; its tensor is a vector of three FP32 words. -/
def cisternPlan : Plan :=
  { heldGemmPlan with
    tensors := [threeWords 0], own := [packFields 64 [(0, 0, 8, 2), (4, 6, 23, 1024)]], manifest := [manifestOf openThree] }

/-- The powered machine under that plan in step 1, with handle 1 open over words 0 to 511 and the values 1, 0 and 0 in its tensor. -/
def cisternReady : State :=
  { (poweredUp.modRing 0 0 fun x => { x with ctl := 0xD, tail := 1, openStep := some 1 }).modPart 0 fun p => { p with
      plan := some cisternPlan
      handles := [{ num := 1, fn := 0, ring := 0, base := 0, count := 512, wexp := 0, crnd := false, stripe := false, carry := false, step := 1, closing := false }] } with
    sram := [(2, 0x80), (3, 0x3F)] }

/-- O46's hypotheses are met by each of the four: three zeroing writes, the adds of 1, 0 and 0, three readout reads, and handle 1 freed. -/
theorem cisternReady_runs :
    (∃ t, exec (.cstOpen 0 0 openThree) cisternReady = .next t ∧
      t.laneq = [⟨⟨0, 0, 0⟩, 512, .zero⟩, ⟨⟨0, 0, 0⟩, 513, .zero⟩, ⟨⟨0, 0, 0⟩, 514, .zero⟩]) ∧
    (∃ t, exec (.cstAdd 0 ⟨0, .none⟩ addThree) cisternReady = .next t ∧
      t.laneq = [⟨⟨0, 0, 0⟩, 0, .add 1 0⟩, ⟨⟨0, 0, 0⟩, 1, .add 0 0⟩, ⟨⟨0, 0, 0⟩, 2, .add 0 0⟩]) ∧
    (∃ t, exec (.cstRead 0 0 readThree) cisternReady = .next t ∧
      t.laneq = [⟨⟨0, 0, 0⟩, 0, .read 0 false⟩, ⟨⟨0, 0, 0⟩, 1, .read 1 false⟩, ⟨⟨0, 0, 0⟩, 2, .read 2 false⟩]) ∧
    ∃ t, exec (.cstClose 0 0 closeOne) cisternReady = .next t ∧ (t.part 0).handles = [] := by
  have may : mayIssue cisternReady 0 0 = true := by decide +kernel
  have idle : quiet cisternReady 0 = true := by decide +kernel
  obtain ⟨opens, works, closes⟩ := cisternDescriptors
  have adds := (works cisternReady 0 0 addThree may idle rfl).1
  have reads := (works cisternReady 0 0 readThree may idle rfl).2
  obtain ⟨t, openRuns, -, -, -, zeroing⟩ := opens cisternReady 0 0 openThree may idle (by decide +kernel) (by decide +kernel)
  obtain ⟨u, addRuns, -, -, contributions⟩ := adds (by decide +kernel) (by decide +kernel)
  obtain ⟨v, readRuns, -, -, readout⟩ := reads (by decide +kernel) (by decide +kernel) (by decide +kernel)
  obtain ⟨w, closeRuns, -, -, freed⟩ := closes cisternReady 0 0 closeOne may idle (by decide +kernel) (by decide +kernel) (by decide +kernel)
  refine ⟨⟨t, openRuns, zeroing.trans ?_⟩, ⟨u, addRuns, contributions.trans ?_⟩, ⟨v, readRuns, readout.trans ?_⟩, ⟨w, closeRuns, ?_⟩⟩
  · decide +kernel
  · decide +kernel
  · decide +kernel
  · rw [freed]
    decide +kernel

end Sys2Proof.Machine
end

section
/-! The add lanes and the scrubber (R137, R140, R148, R163): what one operation does to its word, why a scrub changes none, and O57. -/
namespace Sys2Proof.Machine

/-! ### Words -/

theorem getWord_putWord_same {s : State} (w : Nat) (x : CWord) (wf : Sparse.wf wordZero s.cistern = true) : getWord (putWord s w x) w = x :=
  Sparse.get_put_same w x wf

theorem getWord_putWord_other (s : State) {w v : Nat} (x : CWord) (other : v ≠ w) : getWord (putWord s w x) v = getWord s v :=
  Sparse.get_put_other _ _ _ other

/-! ### One lane operation -/

/-- What an operation that is no readout leaves in its word (R137, R140). -/
def laneResult (w : CWord) : LaneKind → CWord
  | .add data spec => addWord w data spec
  | _ => wordZero

/-- The machine as a lane applies an operation of flight f: the operation has left the queue, and its word counts as touched (R163). -/
def atLane (s : State) (n : Fin 16) (f : Flight) (o : LaneOp) : State := noteTouch { s with laneq := s.laneq.erase o } n f.step o.word

theorem atLane_parts (s : State) (n : Fin 16) (f : Flight) (o : LaneOp) :
    ∃ parts, atLane s n f o = { s with laneq := s.laneq.erase o, parts := parts } := by
  unfold atLane
  cases f.step with
  | none => exact ⟨s.parts, rfl⟩
  | some k => exact ⟨_, rfl⟩

/-- An operation that is no readout writes its word; beside it only the record of its partition changes. -/
theorem applyLane_writes (s : State) (n : Fin 16) (f : Flight) {o : LaneOp} (noReadout : ∀ i c, o.kind ≠ .read i c) :
    ∃ parts, applyLane s n f o = { putWord s o.word (laneResult (getWord s o.word) o.kind) with parts := parts } := by
  unfold applyLane
  cases kind : o.kind with
  | add data spec => exact ⟨_, rfl⟩
  | zero => exact ⟨s.parts, rfl⟩
  | read i c => exact absurd kind (noReadout i c)

/-- So does one that leaves the queue for its word. -/
theorem applyLane_atLane (s : State) (n : Fin 16) (f : Flight) {o : LaneOp} (noReadout : ∀ i c, o.kind ≠ .read i c) :
    ∃ parts, applyLane (atLane s n f o) n f o =
      { putWord s o.word (laneResult (getWord s o.word) o.kind) with laneq := s.laneq.erase o, parts := parts } := by
  obtain ⟨noted, eq⟩ := atLane_parts s n f o
  rw [eq]
  exact applyLane_writes { s with laneq := s.laneq.erase o, parts := noted } n f noReadout

/-! ### A descriptor with more operations to come -/

section
variable {s : State} {n : Fin 16} {r : Fin 8} {seq : Nat}

/-- While operations of a cistern descriptor wait, it does not end (R150). -/
theorem endCistern_waits (waits : hasLaneOps s ⟨n.val, r.val, seq⟩ = true) : endCistern s n r seq = s := by
  unfold endCistern
  split
  · rfl
  · simp [waits]

/-- Neither does a descriptor with units (R148). -/
theorem endIfDone_waits (waits : hasLaneOps s ⟨n.val, r.val, seq⟩ = true) : endIfDone s n r seq = s := by
  unfold endIfDone
  split
  · rfl
  · simp [waits]

/-- A flight that is no open collective moves none on. -/
theorem collProgress_noColl {f : Flight} (found : findFlight s n r seq = some f) (noColl : f.coll = none) : collProgress s n r seq = s := by
  have closed : openColl s n r seq = none := by
    rw [openColl, found]
    cases planeTable (s.part n) <;> simp [noColl]
  have root : rootAdvance s n r seq = s := by simp [rootAdvance, closed]
  rw [collProgress, root, endCollIfDone, closed]

/-- Where a descriptor has more operations to come, nothing follows one of them. -/
theorem lane_settles {f : Flight} (waits : hasLaneOps s ⟨n.val, r.val, seq⟩ = true) (found : findFlight s n r seq = some f)
    (noColl : f.coll = none) (held : noneHeld s = true) :
    recheck (collProgress (endIfDone (endCistern s n r seq) n r seq) n r seq) = s := by
  rw [endCistern_waits waits, endIfDone_waits waits, collProgress_noColl found noColl, recheck_same held]

end

/-! ### CISTERN_LANE_OP -/

theorem fin16_val {k : Nat} (h : k < 16) : (fin16 k).val = k := Nat.min_eq_left (by omega)
theorem fin8_val {k : Nat} (h : k < 8) : (fin8 k).val = k := Nat.min_eq_left (by omega)

/-- On a word with right ECC, an add whose residue check passes meets no fault; a zeroing write never does (R137, R163). -/
theorem lane_faultless {s : State} {o : LaneOp} (noReadout : ∀ i c, o.kind ≠ .read i c)
    (sound : ∀ x y, o.kind = .add x y → (getWord s o.word).ecc = 0 ∧ residueOk (addWord (getWord s o.word) x y) = true) :
    misadds s o = false ∧ faultOf s o .none = .none := by
  cases kind : o.kind with
  | add data spec =>
    obtain ⟨ecc, residue⟩ := sound data spec kind
    simp [misadds, faultOf, kind, ecc, residue]
  | zero => simp [misadds, faultOf, kind]
  | read i c => exact absurd kind (noReadout i c)

/-- Function and ring of a tag in range are those that its lane operation acts for. -/
theorem tag_eq {t : Tag} (fn : t.fn < 16) (ring : t.ring < 8) : (⟨(fin16 t.fn).val, (fin8 t.ring).val, t.seq⟩ : Tag) = t := by
  rw [fin16_val fn, fin8_val ring]

/-- The lane of a bank takes the one operation that waits for it; without a fault it applies the operation, and what may end with it is looked at. -/
theorem laneOp_alone {s : State} {o : LaneOp} {f : Flight} {n : Fin 16} {r : Fin 8} {b k : Nat} (pick : Nat)
    (alone : (s.laneq.filter fun x => wordBasin x.word == b && wordBank x.word == k) = [o]) (fn : fin16 o.tag.fn = n) (ring : fin8 o.tag.ring = r)
    (found : findFlight { s with laneq := s.laneq.erase o } n r o.tag.seq = some f) (passes : misadds (atLane s n f o) o = false)
    (faultless : faultOf (atLane s n f o) o .none = .none) :
    laneOp s b k pick .none =
      recheck (collProgress (endIfDone (endCistern (applyLane (atLane s n f o) n f o) n r o.tag.seq) n r o.tag.seq) n r o.tag.seq) := by
  have first : pick % max 1 [o].length = 0 := Nat.mod_one pick
  unfold atLane at *
  rw [laneOp, alone, first]
  dsimp only [List.getElem?_cons_zero]
  rw [fn, ring, found]
  dsimp only
  rw [passes, faultless]
  exact if_neg Bool.false_ne_true

/-- That operation, when it is no readout and its descriptor has more to come, leaves the queue and writes its word; beside these only partition records change. -/
theorem laneOp_writes {s : State} {o : LaneOp} {f : Flight} {b k : Nat} (pick : Nat) (held : noneHeld s = true)
    (alone : (s.laneq.filter fun x => wordBasin x.word == b && wordBank x.word == k) = [o])
    (found : findFlight s (fin16 o.tag.fn) (fin8 o.tag.ring) o.tag.seq = some f) (noColl : f.coll = none)
    (more : hasLaneOps { s with laneq := s.laneq.erase o } o.tag = true) (fn : o.tag.fn < 16) (ring : o.tag.ring < 8)
    (noReadout : ∀ i c, o.kind ≠ .read i c)
    (sound : ∀ x y, o.kind = .add x y → (getWord s o.word).ecc = 0 ∧ residueOk (addWord (getWord s o.word) x y) = true) :
    ∃ parts, laneOp s b k pick .none =
      { putWord s o.word (laneResult (getWord s o.word) o.kind) with laneq := s.laneq.erase o, parts := parts } := by
  have faultless : misadds (atLane s (fin16 o.tag.fn) f o) o = false ∧ faultOf (atLane s (fin16 o.tag.fn) f o) o .none = .none := by
    obtain ⟨noted, eq⟩ := atLane_parts s (fin16 o.tag.fn) f o
    rw [eq]
    exact lane_faultless noReadout sound
  obtain ⟨parts, applied⟩ := applyLane_atLane s (fin16 o.tag.fn) f noReadout
  refine ⟨parts, ?_⟩
  rw [laneOp_alone pick alone rfl rfl found faultless.1 faultless.2, applied]
  exact lane_settles (f := f) (by rw [tag_eq fn ring]; exact more) found noColl held

/-! ### SCRUB_OP -/

/-- A count changes no part of a partition's record but its counters. -/
theorem count_part (s : State) (n : Fin 16) (i k : Nat) (m : Fin 16) :
    ∃ counters, (s.count n i k).part m = { s.part m with counters := counters } := by
  by_cases same : m = n
  · subst same
    exact ⟨_, State.part_modPart_same s m _⟩
  · exact ⟨_, State.part_modPart_other s _ same⟩

/-- Counting calls for nothing at a gate. -/
theorem calm_count {s : State} (n : Fin 16) (i k : Nat) (h : calm s = true) : calm (s.count n i k) = true := by
  have rest (m : Fin 16) : atRest (s.count n i k) m = atRest s m := by
    obtain ⟨counters, eq⟩ := count_part s n i k m
    simp only [atRest, eq, State.count_ring]
  have requests (m : Fin 16) : hasRequests (s.count n i k) m = hasRequests s m := by
    obtain ⟨counters, eq⟩ := count_part s n i k m
    simp only [hasRequests, eq]
    rfl
  simpa only [calm, rest, requests, State.count_cfg] using h

/-- Neither do the counts of corrected errors. -/
theorem calm_spares {s : State} (x : Spares) (h : calm s = true) : calm { s with spares := x } = true := h

theorem count_part_same (s : State) (n : Fin 16) (i k : Nat) :
    (s.count n i k).part n = { s.part n with counters := bump (s.part n).counters i k } := State.part_modPart_same s n _

/-- Corrected errors of a bank since the last gate (R163). -/
def correctedSeen (s : State) (w : Nat) : Nat :=
  ((s.spares.corrected.find? fun x => x.1 == wordBasin w && x.2.1 == wordBank w).map fun x => x.2.2).getD 0

/-- Below the count that retires the bank a corrected error is counted, and that is all (R163). -/
theorem cisternCorrected_below {s : State} {n : Fin 16} {w : Nat} (below : correctedSeen s w + 1 < wbits (s.part n).cstRetire 15 0) :
    ∃ spares, cisternCorrected s n w = { s.count n 2 1 with spares := spares } := by
  have limit : ((s.count n 2 1).part n).cstRetire = (s.part n).cstRetire := by rw [count_part_same]
  have stays : ¬ wbits (s.part n).cstRetire 15 0 ≤ correctedSeen s w + 1 := Nat.not_le.2 below
  refine ⟨_, if_neg fun queued => ?_⟩
  simp only [Bool.and_eq_true, decide_eq_true_eq] at queued
  exact stays (limit ▸ queued.1.1)

/-- The scrubber at work on a word with right ECC of an OPEN partition: it counts, and a correctable error is counted too (R140, R163). -/
theorem scrub_enabled {s : State} {n : Fin 16} {w : Nat} (range : w < 4194304) (part : basinPart s (wordBasin w) = some n)
    (enabled : (s.force 0x60100).getLsbD 0 = true) (isOpen : (s.part n).shutter = .open_) (ecc : (getWord s w).ecc = 0) :
    scrub s w .none = s.count n 4 1 ∧ scrub s w .corrected = cisternCorrected (s.count n 4 1) n w := by
  have word : w % 4194304 = w := Nat.mod_eq_of_lt range
  simp [scrub, word, part, enabled, isOpen, ecc]

/-- The scrubber does nothing while it is off, and nothing to a word of no partition (R140, R166). -/
theorem scrub_off {s : State} {w : Nat} (x : LaneFault) (range : w < 4194304)
    (off : (s.force 0x60100).getLsbD 0 = false ∨ basinPart s (wordBasin w) = none) : scrub s w x = s := by
  have word : w % 4194304 = w := Nat.mod_eq_of_lt range
  rw [scrub, word]
  rcases off with off | off
  · split
    · rfl
    · rw [off]
      rfl
  · rw [off]

/-- SCRUB_OP where the gates have nothing to do after it. -/
theorem exec_scrubOp {s t : State} {w : Nat} {x : LaneFault} (scrubbed : scrub s w x = t) (nothingWaits : calm t = true) :
    exec (.scrubOp w x) s = .next t := by
  rw [← scrubbed] at nothingWaits ⊢
  exact congrArg Host.Outcome.next (settleGates_calm nothingWaits)

/-! ### The statement -/

/-- Settles O57: the lane writes one word, and the scrubber only counts. -/
theorem lanesAndScrubbing : Obligations.LanesAndScrubbing := by
  refine ⟨fun s o f pick b k wf held basin bank mem alone found noColl more fn ring noReadout sound => ?_,
    fun s w still range => ⟨fun n part enabled isOpen ecc => ?_, fun x off => ?_⟩⟩
  · obtain ⟨parts, run⟩ := laneOp_writes pick held alone found noColl more fn ring noReadout sound
    obtain ⟨-, -, -, cistern⟩ := memory_wf_iff.1 wf
    refine ⟨_, congrArg Host.Outcome.next run, rfl, (getWord_putWord_same o.word _ cistern).trans ?_,
      fun v other => getWord_putWord_other s _ other, rfl, rfl, rfl, rfl, rfl⟩
    cases o.kind <;> rfl
  · obtain ⟨clean, corrected⟩ := scrub_enabled range part enabled isOpen ecc
    refine ⟨⟨_, exec_scrubOp clean (calm_count n 4 1 still), count_only s n 4 1, count_part_same s n 4 1⟩, fun below => ?_⟩
    have limit : ((s.count n 4 1).part n).cstRetire = (s.part n).cstRetire := by rw [count_part_same]
    obtain ⟨spares, counted⟩ := cisternCorrected_below (s := s.count n 4 1) (n := n) (w := w) (limit ▸ below)
    refine ⟨_, exec_scrubOp (corrected.trans counted) (calm_spares spares (calm_count n 2 1 (calm_count n 4 1 still))), rfl, ?_, ?_⟩
    · exact ⟨rfl, ((count_only s n 4 1).trans (count_only _ n 2 1)).2⟩
    · refine (count_part_same (s.count n 4 1) n 2 1).trans ?_
      rw [count_part_same]
  · exact exec_scrubOp (scrub_off x range off) still

/-! ### An operation and a scrub that meet the hypotheses -/

/-- A CST_ADD that runs on the machine of `cisternReady`, with two of its adds left: 1 to word 0 and 0 to word 1. -/
def laneReady : State :=
  { push cisternReady 0 0 (newFlight cisternReady 0 0 addThree .running .none) with
    laneq := [⟨⟨0, 0, 0⟩, 0, .add 1 0⟩, ⟨⟨0, 0, 0⟩, 1, .add 0 0⟩] }

/-- O57's hypotheses are met by a lane: the add reaches word 0, and the other waits on. -/
theorem laneReady_adds :
    ∃ t, exec (.cisternLaneOp 0 0 0 .none) laneReady = .next t ∧ t.laneq = [⟨⟨0, 0, 0⟩, 1, .add 0 0⟩] ∧ getWord t 0 = mkWord 1 0 := by
  have sound : (getWord laneReady 0).ecc = 0 ∧ residueOk (addWord (getWord laneReady 0) 1 0) = true := by decide +kernel
  obtain ⟨t, run, queue, word, -⟩ := lanesAndScrubbing.1 laneReady ⟨⟨0, 0, 0⟩, 0, .add 1 0⟩
    (newFlight cisternReady 0 0 addThree .running .none) 0 0 0 (by decide +kernel) (by decide +kernel) rfl rfl (by decide +kernel)
    (by decide +kernel) (by decide +kernel) rfl (by decide +kernel) (by decide) (by decide) nofun
    fun _ _ kind => by cases kind; exact sound
  exact ⟨t, run, queue.trans (by decide +kernel), word.trans (by decide +kernel)⟩

/-- O57's hypotheses are met by the scrubber: on the powered machine a corrected error of word 5 is counted, and no word changes. -/
theorem poweredUp_scrubs :
    ∃ t, exec (.scrubOp 5 .corrected) poweredUp = .next t ∧ t.cistern = [] ∧
      (t.part 0).counters = bump (bump (poweredUp.part 0).counters 4 1) 2 1 := by
  obtain ⟨-, counts⟩ := (lanesAndScrubbing.2 poweredUp 5 (by decide +kernel) (by decide)).1 0 (by decide +kernel) (by decide +kernel)
    (by decide +kernel) (by decide +kernel)
  obtain ⟨t, run, cistern, -, part⟩ := counts (by decide +kernel)
  exact ⟨t, run, cistern, by rw [part]⟩

end Sys2Proof.Machine
end

section
/-! Work that ends as its descriptor begins: the writes of a run in order, what they leave alone, what reads back, and the issue of a descriptor whose basins are free (R89, R187). -/
namespace Sys2Proof.Machine

/-! ### Bytes of whole elements -/

/-- Bytes beyond the last one do not count. -/
theorem toLE_mod (k x : Nat) : toLE k (x % 2 ^ (8 * k)) = toLE k x := by
  induction k generalizing x with
  | zero => rfl
  | succ k ih =>
    have power : 2 ^ (8 * (k + 1)) = 256 * 2 ^ (8 * k) := by rw [Nat.mul_add, Nat.pow_add, Nat.mul_comm]
    have low : BitVec.ofNat 8 (x % (256 * 2 ^ (8 * k))) = BitVec.ofNat 8 x := BitVec.eq_of_toNat_eq (by simp)
    rw [power, toLE, toLE, low, Nat.mod_mul_right_div_self, ih]

/-- In a format whose elements are whole bytes an element is all of the bytes that hold it. -/
theorem putBits_element {f : Fmt} (whole : f.elemBits % 8 = 0) (s : State) (a i v : Nat) :
    putBits s a (elemSpan f) (bitPos f i) f.elemBits v = toLE (elemSpan f) v := by
  have span : f.elemBits = 8 * elemSpan f := by
    revert whole
    cases f <;> decide
  have start : bitPos f i = 0 := by
    have noNibble : f.elemBits ≠ 4 ∧ f.elemBits ≠ 6 := by omega
    simp [bitPos, noNibble]
  rw [span, start, putBits_whole, toLE_mod]

/-! ### A run of writes -/

/-- The bytes of two writes do not meet. -/
def Apart (w v : Nat × List Byte) : Prop := w.1 + w.2.length ≤ v.1 ∨ v.1 + v.2.length ≤ w.1

/-- From `s` to `t` the machine has written the byte strings `ws`, in order, at their addresses in basin SRAM on behalf of a descriptor of partition n; no word of the SRAM was bad. Beside them only the partition's step records, beats and counters have changed. A write reads back (`lands`) where every other one either is the same write again or does not meet it. -/
structure Wrote (n : Fin 16) (ws : List (Nat × List Byte)) (s t : State) : Prop where
  clean : s.badSram = []
  only : onlyPart n { s with sram := t.sram } t
  record : t.part n = { s.part n with steps := (t.part n).steps, beats := (t.part n).beats, counters := (t.part n).counters }
  wf : Memory.wf s = true → Memory.wf t = true
  low : ∀ w ∈ ws, w.1 + w.2.length ≤ 2 ^ 29
  frame : ∀ x, x < 2 ^ 29 → (∀ w ∈ ws, x < w.1 ∨ w.1 + w.2.length ≤ x) → readByte t x = readByte s x
  lands : Memory.wf s = true → ∀ w ∈ ws, (∀ v ∈ ws, v = w ∨ Apart w v) → memRead t w.1 w.2.length = w.2

namespace Wrote

variable {n : Fin 16} {ws vs : List (Nat × List Byte)} {s t u : State}

theorem bad (h : Wrote n ws s t) : t.badSram = [] := by
  rw [h.only.1]
  exact h.clean

theorem fns (h : Wrote n ws s t) : t.fns = s.fns := by
  rw [h.only.1]

theorem quiet (h : Wrote n ws s t) (idle : quiet s n = true) : quiet t n = true := by
  have traps : (t.part n).traps = (s.part n).traps := by rw [h.record]
  simpa [Sys2Proof.quiet, State.ring, State.fn, h.fns, traps] using idle

theorem refl (clean : s.badSram = []) : Wrote n [] s s where
  clean := clean
  only := onlyPart.refl n s
  record := rfl
  wf := id
  low := List.forall_mem_nil _
  frame _ _ _ := rfl
  lands _ := List.forall_mem_nil _

theorem stepWrite (clean : s.badSram = []) (st : Option Nat) {a : Nat} (bs : List Byte) (fits : a + bs.length ≤ 2 ^ 29) :
    Wrote n [(a, bs)] s (stepWrite s n st a bs) := by
  have one : SramWrites n [(a, bs.length)] s (Machine.stepWrite s n st a bs) :=
    (SramWrites.refl clean).stepWrite st bs (by simpa using fits) ⟨_, List.mem_singleton_self _, Nat.le_refl _, Nat.le_refl _⟩
  refine ⟨clean, one.only, by rw [one.steps], fun wf => stepWrite_wf n st bs wf fits, by simpa using fits, fun x hx outside => ?_, fun wf => ?_⟩
  · exact one.frame x hx (by simpa using outside)
  · simpa using memRead_stepWrite_same n st bs wf fits

/-- A later write elsewhere does not touch what an earlier one wrote. -/
theorem trans (h : Wrote n ws s t) (k : Wrote n vs t u) : Wrote n (ws ++ vs) s u where
  clean := h.clean
  only := ⟨by rw [k.only.1, h.only.1], fun m other => (k.only.2 m other).trans (h.only.2 m other)⟩
  record := by rw [k.record, h.record]
  wf := k.wf ∘ h.wf
  low := List.forall_mem_append.2 ⟨h.low, k.low⟩
  frame x hx outside :=
    have ⟨outH, outK⟩ := List.forall_mem_append.1 outside
    (k.frame x hx outK).trans (h.frame x hx outH)
  lands wf w mem apart := by
    obtain ⟨apartH, apartK⟩ := List.forall_mem_append.1 apart
    by_cases again : w ∈ vs
    · exact k.lands (h.wf wf) w again apartK
    · have mem : w ∈ ws := (List.mem_append.1 mem).resolve_right again
      have fits := h.low w mem
      refine (memRead_congr fun x first last => k.frame x (by omega) fun v hv => ?_).trans (h.lands wf w mem apartH)
      rcases apartK v hv with rfl | apart
      · exact absurd hv again
      · unfold Apart at apart
        omega

/-- A change of the beats or counters alone writes nothing. -/
theorem modPart {f : Part → Part} (h : Wrote n ws s t)
    (counts : f (t.part n) = { t.part n with beats := (f (t.part n)).beats, counters := (f (t.part n)).counters }) :
    Wrote n ws s (t.modPart n f) := by
  have one : Wrote n [] t (t.modPart n f) :=
    { clean := h.bad
      only := modPart_only t n f
      record := by rw [State.part_modPart_same, counts]
      wf := id
      low := List.forall_mem_nil _
      frame := fun _ _ _ => readByte_congr (fun _ => rfl) (fun _ => rfl) fun _ => rfl
      lands := fun _ => List.forall_mem_nil _ }
  simpa using h.trans one

theorem addBeats (h : Wrote n ws s t) (b k : Nat) : Wrote n ws s (addBeats t n b k) := h.modPart rfl

theorem count (h : Wrote n ws s t) (i k : Nat) : Wrote n ws s (t.count n i k) := h.modPart rfl

/-- The writes of a fold are those of its steps. -/
theorem foldl {α : Type} {f : State → α → State} {l : List α} {ws : α → List (Nat × List Byte)} (clean : s.badSram = [])
    (each : ∀ t, ∀ x ∈ l, t.badSram = [] → Wrote n (ws x) t (f t x)) : Wrote n (l.flatMap ws) s (l.foldl f s) := by
  induction l generalizing s with
  | nil => exact refl clean
  | cons x l ih =>
    have first := each s x List.mem_cons_self clean
    exact first.trans (ih first.bad fun t y mem => each t y (List.mem_cons_of_mem x mem))

/-- A fold whose steps write once each. -/
theorem foldl_map {α : Type} {f : State → α → State} {l : List α} {w : α → Nat × List Byte} (clean : s.badSram = [])
    (each : ∀ t, ∀ x ∈ l, t.badSram = [] → Wrote n [w x] t (f t x)) : Wrote n (l.map w) s (l.foldl f s) := by
  rw [List.map_eq_flatMap]
  exact foldl clean each

/-- Writes of a partition do not see its rings: a descriptor that a ring took before them may be taken after them. -/
theorem of_push {r : Fin 8} {f : Flight} (h : Wrote n ws (push s n r f) t) : ∃ u, t = push u n r f ∧ Wrote n ws s u := by
  have eq : t = push { s with sram := t.sram, parts := t.parts } n r f := h.only.1
  refine ⟨{ s with sram := t.sram, parts := t.parts }, eq, h.clean, ⟨rfl, h.only.2⟩, h.record, fun wf => ?_, h.low, fun x hx outside => ?_,
    fun wf w mem apart => ?_⟩
  · have kept := h.wf wf
    rwa [eq] at kept
  · have same := h.frame x hx outside
    rwa [eq, readByte_push, readByte_push] at same
  · have back := h.lands wf w mem apart
    rwa [eq, memRead_push] at back

end Wrote

/-! ### Descriptors whose basins are free -/

/-- A slicing or strict descriptor that is alone on its ring begins at once where no basin drains (R89, R187). -/
theorem startOne_push_lanes {s : State} {n : Fin 16} {r : Fin 8} (empty : (s.ring n r).flights = []) {f : Flight}
    (op : dOpcode f.d = 0x13 ∨ dOpcode f.d = 0x14) (waits : f.phase = .waiting) (undrained : ∀ b, drainsOf s b = []) :
    startOne (push s n r f) n r f.seq = beginFlight (push s n r { f with phase := .running }) n r { f with phase := .running } := by
  have noDrain (b : Nat) : drainsOf (push s n r f) b = [] := undrained b
  have free : ready (push s n r f) n r f = true := by simp [ready, ahead_push_alone empty, basinsFree, noDrain]
  have noColl : isColl (dOpcode f.d) = false := by rcases op with op | op <;> simp [op, isColl]
  simp only [startOne, findFlight_push_alone empty, waits, noColl, free, modFlight_push_alone empty]
  rfl

/-- Such a descriptor, whose work is a run of writes, ends OK in the command that issues it. -/
theorem issueWork_lanes {s t : State} {n : Fin 16} {r : Fin 8} {row : Bool} {d : Desc} {own : Option (Nat × Nat)} {detail : BitVec 160}
    {ws : List (Nat × List Byte)} (may : mayIssue s n r = true) (idle : quiet s n = true) (undrained : ∀ b, drainsOf s b = [])
    (mine : row = true) (op : dOpcode d = 0x13 ∨ dOpcode d = 0x14) (accepted : evaluate s n r d own = none)
    (works : beginFlight (push s n r (newFlight s n r d .running .none)) n r (newFlight s n r d .running .none) =
      endFlight t n r (s.ring n r).issue stOk detail)
    (run : Wrote n ws (push s n r (newFlight s n r d .running .none)) t) :
    ∃ u, issueWork s n r row d .none own id = .next (push u n r { newFlight s n r d .done .none with detail := detail }) ∧ Wrote n ws s u := by
  obtain ⟨u, rfl, wrote⟩ := run.of_push
  have starts := startOne_push_lanes (f := newFlight s n r d .waiting .none) (quiet_flights idle r) op rfl undrained
  have ends := endFlight_push_alone (status := stOk) (quiet_flights (wrote.quiet idle) r) (f := newFlight s n r d .running .none) detail
    (by rcases op with op | op <;> simp [failingBits, newFlight, op, stOk, stAborted, stTimeout])
  have rest : atRest (push u n r { newFlight s n r d .done .none with detail := detail }) n = true :=
    atRest_push (quiet_atRest (wrote.quiet idle)) Phase.noConfusion Phase.noConfusion (by rcases op with op | op <;> simp [newFlight, op])
  refine ⟨u, ?_, wrote⟩
  rw [issueWork, issueWith_accepted _ may mine accepted]
  exact congrArg Host.Outcome.next ((congrArg (settle · n) (starts.trans (works.trans ends))).trans (settle_atRest rest))

/-! ### Writes of an element's copies -/

/-- An element's code in every copy of its tensor (R119). -/
def codeWrites (t : Tensor) (x : Idx) (v : Nat) : List (Nat × List Byte) :=
  (List.range t.copies).map fun c => (t.addr c x, toLE (elemSpan t.fmt) v)

theorem writeCode_wrote {s : State} (n : Fin 16) (st : Option Nat) {t : Tensor} {x : Idx} {v : Nat} (clean : s.badSram = [])
    (whole : t.fmt.elemBits % 8 = 0) (low : ∀ c, c < t.copies → t.addr c x + elemSpan t.fmt ≤ 2 ^ 29) :
    Wrote n (codeWrites t x v) s (writeCode s n st t x v) :=
  Wrote.foldl_map clean fun u c hc bad => by
    simp only [putBits_element whole]
    exact Wrote.stepWrite bad st _ (by simpa using low c (List.mem_range.1 hc))

theorem Tensor.rowOff_mono (t : Tensor) {x y : Idx} (h1 : x.i1 ≤ y.i1) (h2 : x.i2 ≤ y.i2) (h3 : x.i3 ≤ y.i3) (h4 : x.i4 ≤ y.i4) :
    t.rowOff x ≤ t.rowOff y := by
  have l1 : (if t.rank = 1 then 0 else x.i1 * t.stride 1) ≤ if t.rank = 1 then 0 else y.i1 * t.stride 1 := by
    split
    · exact Nat.le_refl 0
    · exact Nat.mul_le_mul_right _ h1
  exact Nat.add_le_add (Nat.add_le_add (Nat.add_le_add l1 (Nat.mul_le_mul_right _ h2)) (Nat.mul_le_mul_right _ h3)) (Nat.mul_le_mul_right _ h4)

/-- An element of the first planes of a tensor in basin SRAM lies in basin SRAM. -/
theorem Tensor.addr_low {t : Tensor} {c i0 i1 i2 : Nat} (low : ∀ y ∈ t.ranges, y.1 + y.2 ≤ 2 ^ 29) (hc : c < t.copies) (h0 : i0 < t.ext 0)
    (h1 : i1 < t.ext 1) (h2 : i2 ≤ t.ext 2 - 1) : t.addr c ⟨i0, i1, i2, 0, 0⟩ + elemSpan t.fmt ≤ 2 ^ 29 := by
  have row : t.rowOff ⟨i0, i1, i2, 0, 0⟩ ≤ t.rowOff ⟨0, t.ext 1 - 1, t.ext 2 - 1, t.ext 3 - 1, t.ext 4 - 1⟩ :=
    t.rowOff_mono (Nat.le_sub_one_of_lt h1) h2 (Nat.zero_le _) (Nat.zero_le _)
  have off := off0_mono t.fmt (Nat.le_sub_one_of_lt (t.lt_ext0p h0))
  have range := low _ (t.copy_mem_ranges hc)
  simp only [Tensor.addr, Tensor.lastOff] at *
  omega

/-! ### Frames -/

/-- Beside basin SRAM the machine has changed no more than ring r, which took flight f, and the step records, beats and counters of partition n. -/
def EndsOn (n : Fin 16) (r : Fin 8) (s t : State) (f : Flight) : Prop :=
  onlyRingPart n r { s with sram := t.sram } t ∧ t.ring n r = took (s.ring n r) f ∧
    t.part n = { s.part n with steps := (t.part n).steps, beats := (t.part n).beats, counters := (t.part n).counters }

theorem Wrote.push_frame {n : Fin 16} {r : Fin 8} {ws : List (Nat × List Byte)} {s u : State} (h : Wrote n ws s u) (f : Flight) :
    EndsOn n r s (push u n r f) f := by
  have ring : u.ring n r = s.ring n r := by rw [State.ring, State.fn, h.fns]; rfl
  exact ⟨⟨u, h.only, push_only u n r f⟩, by rw [push_ring_same, ring], h.record⟩

/-! ### Lists of checks and of index tuples -/

/-- A list of conditions passes where none of them fails. -/
theorem firstFail_eq_none {l : List (Bool × Nat × Nat)} : firstFail l = none ↔ ∀ c ∈ l, c.1 = false := by
  simp [firstFail]

theorem orElse_eq_none {a b : Option (Nat × Nat)} : orElse a b = none ↔ a = none ∧ b = none := by
  cases a <;> simp [orElse]

/-- The tuples of indices of two nested loops. -/
def indexPairs {α β : Type} (l : List α) (m : List β) : List (α × β) := l.flatMap fun a => m.map (Prod.mk a)

theorem mem_indexPairs {α β : Type} {l : List α} {m : List β} {a : α} {b : β} : (a, b) ∈ indexPairs l m ↔ a ∈ l ∧ b ∈ m := by
  simp only [indexPairs, List.mem_flatMap, List.mem_map, Prod.mk.injEq]
  constructor
  · rintro ⟨_, ha, _, hb, rfl, rfl⟩
    exact ⟨ha, hb⟩
  · rintro ⟨ha, hb⟩
    exact ⟨a, ha, b, hb, rfl, rfl⟩

/-- Nested loops that collect a value for each index are one loop over the tuples of indices. -/
theorem flatMap_map_eq_map_indexPairs {α β γ : Type} (l : List α) (m : List β) (f : α → β → γ) :
    (l.flatMap fun a => m.map (f a)) = (indexPairs l m).map fun x => f x.1 x.2 := by
  simp only [indexPairs, List.map_flatMap, List.map_map]
  rfl

/-- Where a symmetric relation holds between any two places of a list, it holds between any two different members. -/
theorem pairwise_of_ne {α : Type} {R : α → α → Prop} {l : List α} (pairwise : l.Pairwise R) (symm : ∀ x y, R x y → R y x) {x y : α}
    (hx : x ∈ l) (hy : y ∈ l) (ne : x ≠ y) : R x y := by
  induction pairwise with
  | nil => exact absurd hx List.not_mem_nil
  | cons head _ ih =>
    rcases List.mem_cons.1 hx with rfl | tailX <;> rcases List.mem_cons.1 hy with rfl | tailY
    · exact absurd rfl ne
    · exact head y tailY
    · exact symm _ _ (head x tailX)
    · exact ih tailX tailY

end Sys2Proof.Machine
end

section
/-! The SLICE phase of CASCADE_GEMM (R175 to R177): the slices and exponent entries that it writes. -/
namespace Sys2Proof.Machine

/-! ### What a row-chunk is sliced into -/

/-- Chunks of a row of the source, and elements of chunk c. -/
def sliceChunks (p : Part) (d : Desc) : Nat := ceilDiv ((tensorAt p (gA d)).ext 0) (chunkOf p)
def sliceLen (p : Part) (d : Desc) (c : Nat) : Nat := min (chunkOf p) ((tensorAt p (gA d)).ext 0 - c * chunkOf p)

/-- Special flag, exponent and slices of a row-chunk, from the source copy that is present in its unit's basin (R176, R177). -/
def chunkSlices (s : State) (p : Part) (d : Desc) (row c : Nat) : Bool × Int × List (List Nat) :=
  sliceChunk (gSlices d) ((List.range (sliceLen p d c)).map fun i =>
    elemVal s (tensorAt p (gA d)) (((tensorAt p (gA d)).copyIn (gFirst d + (row * sliceChunks p d + c) % gCount d)).getD 0)
      ⟨c * chunkOf p + i, row, 0, 0, 0⟩)

/-- Where copy k of slice j of an element stands, and copy k of the exponent entry of a row-chunk (R175). -/
def sliceCodeAt (p : Part) (d : Desc) (k row i j : Nat) : Nat := (tensorAt p (gB d)).addr k ⟨i, row, j, 0, 0⟩
def sliceExpAt (p : Part) (d : Desc) (k row c : Nat) : Nat := (tensorAt p (gB d)).fineBase + k * 0x400000 + 2 * (c + sliceChunks p d * row)

/-- The code of an element's slice, and the exponent entry. -/
def sliceCode (s : State) (p : Part) (d : Desc) (row c i j : Nat) : Nat := ((chunkSlices s p d row c).2.2.getD i []).getD j 0
def sliceExp (s : State) (p : Part) (d : Desc) (row c : Nat) : Nat := expWord p (chunkSlices s p d row c).1 (chunkSlices s p d row c).2.1

/-- The writes of a unit, and those of the phase: a unit for each row-chunk (R177). -/
def sliceUnitWrites (s : State) (p : Part) (d : Desc) (row c : Nat) : List (Nat × List Byte) :=
  ((List.range (sliceLen p d c)).flatMap fun i => (List.range (gSlices d)).flatMap fun j =>
    codeWrites (tensorAt p (gB d)) ⟨c * chunkOf p + i, row, j, 0, 0⟩ (sliceCode s p d row c i j)) ++
  (List.range (tensorAt p (gB d)).copies).map fun k => (sliceExpAt p d k row c, toLE 2 (sliceExp s p d row c))
def sliceWrites (s : State) (p : Part) (d : Desc) : List (Nat × List Byte) :=
  (List.range ((tensorAt p (gA d)).ext 1 * sliceChunks p d)).flatMap fun u => sliceUnitWrites s p d (u / sliceChunks p d) (u % sliceChunks p d)

theorem sliceLen_lt {p : Part} {d : Desc} {c i : Nat} (h : i < sliceLen p d c) : i < chunkOf p ∧ c * chunkOf p + i < (tensorAt p (gA d)).ext 0 := by
  unfold sliceLen at h
  omega

theorem chunkOf_pos (p : Part) : 0 < chunkOf p := Nat.mul_pos (by decide) (Nat.two_pow_pos _)

/-- Unit u of the phase is that of chunk u mod nc of row u / nc. -/
theorem unit_row_chunk {u rows nc : Nat} (h : u < rows * nc) : u / nc < rows ∧ u % nc < nc := by
  have chunks : 0 < nc := Nat.pos_of_ne_zero fun zero => by simp [zero] at h
  exact ⟨Nat.div_lt_of_lt_mul (Nat.mul_comm _ _ ▸ h), Nat.mod_lt u chunks⟩

theorem row_chunk_unit {row c rows nc : Nat} (hrow : row < rows) (hc : c < nc) : ∃ u, u < rows * nc ∧ u / nc = row ∧ u % nc = c := by
  have last : (row + 1) * nc ≤ rows * nc := Nat.mul_le_mul_right nc hrow
  rw [Nat.succ_mul] at last
  exact ⟨nc * row + c, by rw [Nat.mul_comm]; omega, by rw [Nat.mul_add_div (by omega), Nat.div_eq_of_lt hc]; rfl,
    by rw [Nat.mul_add_mod, Nat.mod_eq_of_lt hc]⟩

theorem element_of_chunk {p : Part} {c i : Nat} (h : i < chunkOf p) : (c * chunkOf p + i) / chunkOf p = c ∧ (c * chunkOf p + i) % chunkOf p = i := by
  rw [Nat.mul_comm, Nat.mul_add_div (chunkOf_pos p), Nat.div_eq_of_lt h, Nat.mul_add_mod, Nat.mod_eq_of_lt h]
  exact ⟨rfl, rfl⟩

/-- Element i of a row lies in chunk i / CHUNK, at i mod CHUNK. -/
theorem chunk_of_element {p : Part} {d : Desc} {i : Nat} (h : i < (tensorAt p (gA d)).ext 0) :
    i / chunkOf p < sliceChunks p d ∧ i % chunkOf p < sliceLen p d (i / chunkOf p) := by
  have chunk := chunkOf_pos p
  have split := Nat.div_add_mod' i (chunkOf p)
  have inChunk := Nat.mod_lt i chunk
  constructor
  · calc i / chunkOf p
      _ < (i + chunkOf p) / chunkOf p := by rw [Nat.add_div_right i chunk]; exact Nat.lt_succ_self _
      _ ≤ sliceChunks p d := Nat.div_le_div_right (by omega)
  · exact Nat.lt_min.2 ⟨inChunk, by omega⟩

/-! ### The writes are done -/

/-- The slice tensor holds INT8 codes, and all that the phase writes lies in basin SRAM. -/
structure SliceFits (p : Part) (d : Desc) : Prop where
  fmt : (tensorAt p (gB d)).fmt = .int8
  codes : ∀ k row i j, k < (tensorAt p (gB d)).copies → row < (tensorAt p (gA d)).ext 1 → i < (tensorAt p (gA d)).ext 0 → j < gSlices d →
    sliceCodeAt p d k row i j < 2 ^ 29
  exps : ∀ k row c, k < (tensorAt p (gB d)).copies → row < (tensorAt p (gA d)).ext 1 → c < sliceChunks p d →
    sliceExpAt p d k row c + 1 < 2 ^ 29

theorem sliceUnit_wrote {s0 s : State} {n : Fin 16} {f : Flight} (fits : SliceFits (s0.part n) f.d) (clean : s.badSram = []) {row c : Nat}
    (hrow : row < (tensorAt (s0.part n) (gA f.d)).ext 1) (hc : c < sliceChunks (s0.part n) f.d) :
    Wrote n (sliceUnitWrites s0 (s0.part n) f.d row c) s (sliceUnit s0 n f s row c) := by
  have shape : (tensorAt (s0.part n) (gB f.d)).fmt.elemBits % 8 = 0 ∧ elemSpan (tensorAt (s0.part n) (gB f.d)).fmt = 1 := by
    rw [fits.fmt]
    decide
  have codes (t : State) (bad : t.badSram = []) : Wrote n _ t _ :=
    Wrote.foldl (l := List.range (sliceLen (s0.part n) f.d c)) bad fun t i hi bad =>
      Wrote.foldl (l := List.range (gSlices f.d)) bad fun t j hj bad =>
        writeCode_wrote (t := tensorAt (s0.part n) (gB f.d)) (x := ⟨c * chunkOf (s0.part n) + i, row, j, 0, 0⟩)
          (v := sliceCode s0 (s0.part n) f.d row c i j) n f.step bad shape.1 fun k hk => by
            have := fits.codes k row _ j hk hrow (sliceLen_lt (List.mem_range.1 hi)).2 (List.mem_range.1 hj)
            rw [shape.2]
            exact this
  have exps (t : State) (bad : t.badSram = []) : Wrote n _ t _ :=
    Wrote.foldl_map (l := List.range (tensorAt (s0.part n) (gB f.d)).copies)
      (w := fun k => (sliceExpAt (s0.part n) f.d k row c, toLE 2 (sliceExp s0 (s0.part n) f.d row c))) bad fun t k hk bad =>
        Wrote.stepWrite bad f.step _ (fits.exps k row c (List.mem_range.1 hk) hrow hc)
  have all := (codes s clean).trans (exps _ (codes s clean).bad)
  exact all.addBeats _ _

/-- The elements that the phase reads do not depend on the rings. -/
theorem sliceWrites_push (s : State) (n : Fin 16) (r : Fin 8) (f : Flight) (p : Part) (d : Desc) :
    sliceWrites (push s n r f) p d = sliceWrites s p d := by
  simp only [sliceWrites, sliceUnitWrites, sliceCode, sliceExp, chunkSlices, elemVal_push]

/-- Without a fault the phase does its writes, and its descriptor ends OK. -/
theorem beginSlice_wrote {s : State} {n : Fin 16} (r : Fin 8) {f : Flight} (fits : SliceFits (s.part n) f.d) (clean : s.badSram = [])
    (faultless : f.fault = .none) :
    ∃ t, beginSlice s n r f = endFlight t n r f.seq stOk 0 ∧ Wrote n (sliceWrites s (s.part n) f.d) s t := by
  refine ⟨_, by simp only [beginSlice, faultless, readFault_clean n _ clean]; rfl, Wrote.foldl clean fun t u hu bad => ?_⟩
  obtain ⟨hrow, hc⟩ := unit_row_chunk (List.mem_range.1 hu)
  exact sliceUnit_wrote fits bad hrow hc

/-- An accepted SLICE phase on a quiet partition, where no basin drains, ends OK in its command (R177). -/
theorem exec_cascadeSlice {s : State} {n : Fin 16} {r : Fin 8} {d : Desc} (may : mayIssue s n r = true) (idle : quiet s n = true)
    (clean : s.badSram = []) (undrained : ∀ b, drainsOf s b = []) (op : dOpcode d = 0x13) (phase : gPhase d = false)
    (accepted : evaluate s n r d (checkCascade s n r d) = none) (fits : SliceFits (s.part n) d) :
    ∃ u, exec (.cascadeSlice n ⟨r, .none⟩ d) s = .next (push u n r (newFlight s n r d .done .none)) ∧
      Wrote n (sliceWrites s (s.part n) d) s u := by
  obtain ⟨t, works, wrote⟩ := beginSlice_wrote (s := push s n r (newFlight s n r d .running .none)) (f := newFlight s n r d .running .none) r
    fits clean rfl
  rw [sliceWrites_push] at wrote
  have begins : beginFlight (push s n r (newFlight s n r d .running .none)) n r (newFlight s n r d .running .none) =
      beginSlice (push s n r (newFlight s n r d .running .none)) n r (newFlight s n r d .running .none) := by
    simp [beginFlight, newFlight, op, phase]
  exact issueWork_lanes may idle undrained (by simp [op, phase]) (.inl op) accepted (begins.trans works) wrote

/-! ### The writes do not meet -/

/-- What the phase writes to: a code for each copy, row, element and slice, and an exponent entry for each copy, row and chunk. -/
def sliceCodeKeys (p : Part) (d : Desc) : List (Nat × Nat × Nat × Nat) :=
  indexPairs (List.range (tensorAt p (gB d)).copies) (indexPairs (List.range ((tensorAt p (gA d)).ext 1))
    (indexPairs (List.range ((tensorAt p (gA d)).ext 0)) (List.range (gSlices d))))
def sliceExpKeys (p : Part) (d : Desc) : List (Nat × Nat × Nat) :=
  indexPairs (List.range (tensorAt p (gB d)).copies) (indexPairs (List.range ((tensorAt p (gA d)).ext 1)) (List.range (sliceChunks p d)))

def sliceCodeWrite (s : State) (p : Part) (d : Desc) (x : Nat × Nat × Nat × Nat) : Nat × List Byte :=
  (sliceCodeAt p d x.1 x.2.1 x.2.2.1 x.2.2.2,
    toLE (elemSpan (tensorAt p (gB d)).fmt) (sliceCode s p d x.2.1 (x.2.2.1 / chunkOf p) (x.2.2.1 % chunkOf p) x.2.2.2))
def sliceExpWrite (s : State) (p : Part) (d : Desc) (x : Nat × Nat × Nat) : Nat × List Byte :=
  (sliceExpAt p d x.1 x.2.1 x.2.2, toLE 2 (sliceExp s p d x.2.1 x.2.2))

theorem mem_sliceCodeKeys {p : Part} {d : Desc} {k row i j : Nat} : (k, row, i, j) ∈ sliceCodeKeys p d ↔
    k < (tensorAt p (gB d)).copies ∧ row < (tensorAt p (gA d)).ext 1 ∧ i < (tensorAt p (gA d)).ext 0 ∧ j < gSlices d := by
  simp only [sliceCodeKeys, mem_indexPairs, List.mem_range]

theorem mem_sliceExpKeys {p : Part} {d : Desc} {k row c : Nat} : (k, row, c) ∈ sliceExpKeys p d ↔
    k < (tensorAt p (gB d)).copies ∧ row < (tensorAt p (gA d)).ext 1 ∧ c < sliceChunks p d := by
  simp only [sliceExpKeys, mem_indexPairs, List.mem_range]

/-- The phase writes these and nothing else. -/
theorem mem_sliceWrites {s : State} {p : Part} {d : Desc} {w : Nat × List Byte} :
    w ∈ sliceWrites s p d ↔ (∃ x ∈ sliceCodeKeys p d, sliceCodeWrite s p d x = w) ∨ ∃ x ∈ sliceExpKeys p d, sliceExpWrite s p d x = w := by
  simp only [sliceWrites, sliceUnitWrites, codeWrites, List.mem_flatMap, List.mem_append, List.mem_map, List.mem_range, Prod.exists,
    mem_sliceCodeKeys, mem_sliceExpKeys]
  constructor
  · rintro ⟨u, hu, ⟨i, hi, j, hj, k, hk, rfl⟩ | ⟨k, hk, rfl⟩⟩
    all_goals obtain ⟨hrow, hc⟩ := unit_row_chunk hu
    · obtain ⟨inChunk, inRow⟩ := sliceLen_lt hi
      obtain ⟨div, mod⟩ := element_of_chunk (c := u % sliceChunks p d) inChunk
      exact .inl ⟨k, _, _, j, ⟨hk, hrow, inRow, hj⟩, by rw [sliceCodeWrite, div, mod]; rfl⟩
    · exact .inr ⟨k, _, _, ⟨hk, hrow, hc⟩, rfl⟩
  · rintro (⟨k, row, i, j, ⟨hk, hrow, hi, hj⟩, rfl⟩ | ⟨k, row, c, ⟨hk, hrow, hc⟩, rfl⟩)
    · obtain ⟨inRow, inChunk⟩ := chunk_of_element hi
      obtain ⟨u, hu, div, mod⟩ := row_chunk_unit hrow inRow
      refine ⟨u, hu, .inl ⟨_, mod ▸ inChunk, j, hj, k, hk, ?_⟩⟩
      rw [div, mod, Nat.div_add_mod']
      rfl
    · obtain ⟨u, hu, div, mod⟩ := row_chunk_unit hrow hc
      exact ⟨u, hu, .inr ⟨k, hk, by rw [div, mod]; rfl⟩⟩

/-- The addresses of all bytes that the phase writes. -/
def sliceCodeAddrs (p : Part) (d : Desc) : List Nat := (sliceCodeKeys p d).map fun x => sliceCodeAt p d x.1 x.2.1 x.2.2.1 x.2.2.2
def sliceExpBytes (p : Part) (d : Desc) (x : Nat × Nat × Nat) : List Nat := [sliceExpAt p d x.1 x.2.1 x.2.2, sliceExpAt p d x.1 x.2.1 x.2.2 + 1]
def sliceExpAddrs (p : Part) (d : Desc) : List Nat := (sliceExpKeys p d).flatMap (sliceExpBytes p d)

theorem sliceCodeAddrs_eq (p : Part) (d : Desc) : sliceCodeAddrs p d =
    (List.range (tensorAt p (gB d)).copies).flatMap fun k => (List.range ((tensorAt p (gA d)).ext 1)).flatMap fun row =>
      (List.range ((tensorAt p (gA d)).ext 0)).flatMap fun i => (List.range (gSlices d)).map fun j => sliceCodeAt p d k row i j := by
  simp only [flatMap_map_eq_map_indexPairs]
  rfl

theorem sliceExpAddrs_eq (p : Part) (d : Desc) : sliceExpAddrs p d =
    (List.range (tensorAt p (gB d)).copies).flatMap fun k => (List.range ((tensorAt p (gA d)).ext 1)).flatMap fun row =>
      (List.range (sliceChunks p d)).flatMap fun c => [sliceExpAt p d k row c, sliceExpAt p d k row c + 1] := by
  simp only [sliceExpAddrs, sliceExpKeys, sliceExpBytes, indexPairs, List.flatMap_assoc, List.flatMap_map]

theorem sliceFits_of_addrs {p : Part} {d : Desc} (fmt : (tensorAt p (gB d)).fmt = .int8)
    (low : ∀ a ∈ sliceCodeAddrs p d ++ sliceExpAddrs p d, a < 2 ^ 29) : SliceFits p d := by
  obtain ⟨codes, exps⟩ := List.forall_mem_append.1 low
  refine ⟨fmt, fun k row i j hk hrow hi hj => codes _ ?_, fun k row c hk hrow hc => exps _ ?_⟩
  · exact List.mem_map.2 ⟨_, mem_sliceCodeKeys.2 ⟨hk, hrow, hi, hj⟩, rfl⟩
  · exact List.mem_flatMap.2 ⟨_, mem_sliceExpKeys.2 ⟨hk, hrow, hc⟩, by simp [sliceExpBytes]⟩

/-- Where those bytes are all different, any two writes of the phase are the same or do not meet. -/
theorem sliceWrites_apart {s : State} {p : Part} {d : Desc} (fmt : (tensorAt p (gB d)).fmt = .int8)
    (nodup : (sliceCodeAddrs p d ++ sliceExpAddrs p d).Nodup) {w v : Nat × List Byte} (hw : w ∈ sliceWrites s p d) (hv : v ∈ sliceWrites s p d) :
    v = w ∨ Apart w v := by
  have span : elemSpan (tensorAt p (gB d)).fmt = 1 := by rw [fmt]; rfl
  obtain ⟨codes, exps, disjoint⟩ := List.nodup_append.1 nodup
  have codesApart := @pairwise_of_ne _ _ _ (List.pairwise_map.1 codes) fun _ _ => Ne.symm
  have expsApart := @pairwise_of_ne _ _ _ (List.pairwise_flatMap.1 exps).2 fun _ _ apart a ha b hb => (apart b hb a ha).symm
  have mixed : ∀ x ∈ sliceCodeKeys p d, ∀ y ∈ sliceExpKeys p d, Apart (sliceCodeWrite s p d x) (sliceExpWrite s p d y) := by
    intro x hx y hy
    have other := fun e he => disjoint _ (List.mem_map_of_mem hx) e (List.mem_flatMap.2 ⟨y, hy, he⟩)
    simp only [sliceExpBytes, List.forall_mem_cons] at other
    simp only [Apart, sliceCodeWrite, sliceExpWrite, toLE_length, span]
    omega
  rcases mem_sliceWrites.1 hw with ⟨x, hx, rfl⟩ | ⟨x, hx, rfl⟩ <;> rcases mem_sliceWrites.1 hv with ⟨y, hy, rfl⟩ | ⟨y, hy, rfl⟩
  · by_cases same : y = x
    · exact .inl (congrArg _ same)
    · have other := codesApart hy hx same
      simp only [Apart, sliceCodeWrite, toLE_length, span]
      omega
  · exact .inr (mixed x hx y hy)
  · exact .inr (mixed y hy x hx).symm
  · by_cases same : y = x
    · exact .inl (congrArg _ same)
    · have other := expsApart hy hx same
      simp only [sliceExpBytes, List.forall_mem_cons] at other
      simp only [Apart, sliceExpWrite, toLE_length]
      omega

/-- Where the bytes written do not meet, every exponent entry and every code reads back. -/
theorem slice_readBack {s u : State} {n : Fin 16} {p : Part} {d : Desc} (wf : Memory.wf s = true) (wrote : Wrote n (sliceWrites s p d) s u)
    (fmt : (tensorAt p (gB d)).fmt = .int8) (nodup : (sliceCodeAddrs p d ++ sliceExpAddrs p d).Nodup) {k row c : Nat}
    (hk : k < (tensorAt p (gB d)).copies) (hrow : row < (tensorAt p (gA d)).ext 1) (hc : c < sliceChunks p d) :
    memRead u (sliceExpAt p d k row c) 2 = toLE 2 (sliceExp s p d row c) ∧
      ∀ i j, i < sliceLen p d c → j < gSlices d →
        readByte u (sliceCodeAt p d k row (c * chunkOf p + i) j) = BitVec.ofNat 8 (sliceCode s p d row c i j) := by
  have back (w) (mem : w ∈ sliceWrites s p d) := wrote.lands wf w mem fun v hv => sliceWrites_apart fmt nodup mem hv
  refine ⟨?_, fun i j hi hj => ?_⟩
  · simpa [sliceExpWrite] using back _ (mem_sliceWrites.2 (.inr ⟨(k, row, c), mem_sliceExpKeys.2 ⟨hk, hrow, hc⟩, rfl⟩))
  · obtain ⟨inChunk, inRow⟩ := sliceLen_lt hi
    have code := back _ (mem_sliceWrites.2 (.inl ⟨(k, row, _, j), mem_sliceCodeKeys.2 ⟨hk, hrow, inRow, hj⟩, rfl⟩))
    have span : elemSpan (tensorAt p (gB d)).fmt = 1 := by rw [fmt]; rfl
    obtain ⟨div, mod⟩ := element_of_chunk (c := c) inChunk
    simpa [sliceCodeWrite, div, mod, span, memRead, toLE] using code
end Sys2Proof.Machine
end

section
/-! STRICT_GEMM (R185 to R187): the dot products that it writes, their flags, and O48. -/
namespace Sys2Proof.Machine

/-! ### A strict dot product -/

/-- One more term is one more fused step on the result so far, its flags ORed in (R185, R186). -/
theorem strictDot_append (f : Ieee) (xs : List (Nat × Nat)) (a b : Nat) : strictDot f (xs ++ [(a, b)]) =
    ((fmaFlags f a b (strictDot f xs).1).1, (strictDot f xs).2 ||| (fmaFlags f a b (strictDot f xs).1).2) := by
  simp [strictDot]

/-! ### The writes -/

/-- The dot product of row m of A and column c of B over K, read from the copies that are present in the row's basin (R185, R187). -/
def strictElement (s : State) (p : Part) (d : Desc) (ie : Ieee) (m c : Nat) : Nat × Nat :=
  strictDot ie ((List.range (gKTotal d)).map fun k =>
    ((aOpnd s p d (tensorAt p (gA d)) (((tensorAt p (gA d)).copyIn (gFirst d + m % gCount d)).getD 0) 0 1 m k).1,
      (bOpnd s d (tensorAt p (gB d)) (((tensorAt p (gB d)).copyIn (gFirst d + m % gCount d)).getD 0) 0 1 k c).1))

/-- The writes of an output row, those of the descriptor, and the OR of all flags. -/
def strictRowWrites (s : State) (p : Part) (d : Desc) (ie : Ieee) (m : Nat) : List (Nat × List Byte) :=
  (List.range (gN d)).flatMap fun c => codeWrites (tensorAt p (gDst d % 4096)) ⟨c, m, 0, 0, 0⟩ (strictElement s p d ie m c).1
def strictWrites (s : State) (p : Part) (d : Desc) (ie : Ieee) : List (Nat × List Byte) :=
  (List.range (gM d)).flatMap fun m => strictRowWrites s p d ie m
def strictFlags (s : State) (p : Part) (d : Desc) (ie : Ieee) : Nat :=
  (List.range (gM d)).foldl (fun a m => (List.range (gN d)).foldl (fun a c => a ||| (strictElement s p d ie m c).2) a) 0

/-- The output's elements are whole bytes, and all of them lie in basin SRAM. -/
structure StrictFits (p : Part) (d : Desc) : Prop where
  whole : (tensorAt p (gDst d % 4096)).fmt.elemBits % 8 = 0
  low : ∀ k m c, k < (tensorAt p (gDst d % 4096)).copies → m < gM d → c < gN d →
    (tensorAt p (gDst d % 4096)).addr k ⟨c, m, 0, 0, 0⟩ + elemSpan (tensorAt p (gDst d % 4096)).fmt ≤ 2 ^ 29

/-- A loop over pairs whose parts do not see each other is two loops. -/
theorem foldl_pair {α β γ : Type} (f : β → α → β) (g : γ → α → γ) (l : List α) (b : β) (c : γ) :
    l.foldl (fun x a => (f x.1 a, g x.2 a)) (b, c) = (l.foldl f b, l.foldl g c) := by
  induction l generalizing b c with
  | nil => rfl
  | cons a l ih => exact ih (f b a) (g c a)

/-- The state after an output row. -/
def strictRowState (s0 : State) (n : Fin 16) (f : Flight) (ie : Ieee) (s : State) (m : Nat) : State :=
  addBeats ((List.range (gN f.d)).foldl (fun s c =>
      writeCode s n f.step (tensorAt (s0.part n) (gDst f.d % 4096)) ⟨c, m, 0, 0, 0⟩ (strictElement s0 (s0.part n) f.d ie m c).1) s)
    n (gFirst f.d + m % gCount f.d)
    ((if (tensorAt (s0.part n) (gA f.d)).fmt = .fp64 then gN f.d else ceilDiv (gN f.d) 2) * gKTotal f.d + if m < gCount f.d then 8 else 0)

theorem strictRow_eq (s0 : State) (n : Fin 16) (f : Flight) (ie : Ieee) (x : State × Nat) (m : Nat) :
    strictRow s0 n f ie x m = (strictRowState s0 n f ie x.1 m,
      (List.range (gN f.d)).foldl (fun a c => a ||| (strictElement s0 (s0.part n) f.d ie m c).2) x.2) := by
  have split := foldl_pair (fun s c => writeCode s n f.step (tensorAt (s0.part n) (gDst f.d % 4096)) ⟨c, m, 0, 0, 0⟩ (strictElement s0 (s0.part n) f.d ie m c).1)
    (fun a c => a ||| (strictElement s0 (s0.part n) f.d ie m c).2) (List.range (gN f.d)) x.1 x.2
  exact congrArg (fun y : State × Nat => (addBeats y.1 n (gFirst f.d + m % gCount f.d)
    ((if (tensorAt (s0.part n) (gA f.d)).fmt = .fp64 then gN f.d else ceilDiv (gN f.d) 2) * gKTotal f.d + if m < gCount f.d then 8 else 0), y.2)) split

theorem strictRowState_wrote {s0 s : State} {n : Fin 16} {f : Flight} (ie : Ieee) (fits : StrictFits (s0.part n) f.d) (clean : s.badSram = [])
    {m : Nat} (hm : m < gM f.d) : Wrote n (strictRowWrites s0 (s0.part n) f.d ie m) s (strictRowState s0 n f ie s m) :=
  (Wrote.foldl clean fun _ c hc bad =>
    writeCode_wrote n f.step bad fits.whole fun k hk => fits.low k m c hk hm (List.mem_range.1 hc)).addBeats _ _

/-- Without a fault the descriptor writes its dot products and ends OK with the OR of their flags. -/
theorem beginStrict_wrote {s : State} {n : Fin 16} (r : Fin 8) {f : Flight} {ie : Ieee} (fits : StrictFits (s.part n) f.d) (clean : s.badSram = [])
    (faultless : f.fault = .none) (format : (tensorAt (s.part n) (gA f.d)).fmt.ieee.getD fp64 = ie) :
    ∃ t, beginStrict s n r f = endFlight t n r f.seq stOk (BitVec.ofNat 160 (strictFlags s (s.part n) f.d ie)) ∧
      Wrote n (strictWrites s (s.part n) f.d ie) s t := by
  have split := foldl_pair (strictRowState s n f ie)
    (fun a m => (List.range (gN f.d)).foldl (fun a c => a ||| (strictElement s (s.part n) f.d ie m c).2) a) (List.range (gM f.d)) s 0
  refine ⟨((List.range (gM f.d)).foldl (strictRowState s n f ie) s).count n 5 (gM f.d * gN f.d * gKTotal f.d), ?_, ?_⟩
  · simp only [beginStrict, faultless, readFault_clean n _ clean, format, funext fun x => funext (strictRow_eq s n f ie x), split]
    rfl
  · exact (Wrote.foldl clean fun t m hm bad => strictRowState_wrote ie fits bad (List.mem_range.1 hm)).count _ _

/-- The operands of a strict dot product do not depend on the rings. -/
@[simp] theorem strictElement_push (s : State) (n : Fin 16) (r : Fin 8) (f : Flight) (p : Part) (d : Desc) (ie : Ieee) (m c : Nat) :
    strictElement (push s n r f) p d ie m c = strictElement s p d ie m c := by
  simp only [strictElement, aOpnd, bOpnd, opndAt, elemCode, fineCode, memRead_push, readByte_push]

/-- An accepted STRICT_GEMM on a quiet partition, where no basin drains, ends OK in its command (R187). -/
theorem exec_strictGemm {s : State} {n : Fin 16} {r : Fin 8} {d : Desc} {ie : Ieee} (may : mayIssue s n r = true) (idle : quiet s n = true)
    (clean : s.badSram = []) (undrained : ∀ b, drainsOf s b = []) (op : dOpcode d = 0x14)
    (accepted : evaluate s n r d (checkStrict s n r d) = none) (fits : StrictFits (s.part n) d)
    (format : (tensorAt (s.part n) (gA d)).fmt.ieee.getD fp64 = ie) :
    ∃ u, exec (.strictGemm n r d .none) s =
        .next (push u n r { newFlight s n r d .done .none with detail := BitVec.ofNat 160 (strictFlags s (s.part n) d ie) }) ∧
      Wrote n (strictWrites s (s.part n) d ie) s u := by
  obtain ⟨t, works, wrote⟩ := beginStrict_wrote (s := push s n r (newFlight s n r d .running .none)) (f := newFlight s n r d .running .none) r
    fits clean rfl format
  simp only [strictFlags, strictWrites, strictRowWrites, strictElement_push] at works wrote
  have begins : beginFlight (push s n r (newFlight s n r d .running .none)) n r (newFlight s n r d .running .none) =
      beginStrict (push s n r (newFlight s n r d .running .none)) n r (newFlight s n r d .running .none) := by
    simp [beginFlight, newFlight, op]
  exact issueWork_lanes may idle undrained (by simp [op]) (.inr op) accepted (begins.trans works) wrote

/-! ### The writes do not meet -/

/-- Copy, row and column of every element that the descriptor writes, and where it stands. -/
def strictKeys (p : Part) (d : Desc) : List (Nat × Nat × Nat) :=
  indexPairs (List.range (tensorAt p (gDst d % 4096)).copies) (indexPairs (List.range (gM d)) (List.range (gN d)))
def strictSlot (p : Part) (d : Desc) (x : Nat × Nat × Nat) : Nat := (tensorAt p (gDst d % 4096)).addr x.1 ⟨x.2.2, x.2.1, 0, 0, 0⟩
def strictWrite (s : State) (p : Part) (d : Desc) (ie : Ieee) (x : Nat × Nat × Nat) : Nat × List Byte :=
  (strictSlot p d x, toLE (elemSpan (tensorAt p (gDst d % 4096)).fmt) (strictElement s p d ie x.2.1 x.2.2).1)

theorem strictSlots_eq (p : Part) (d : Desc) : (strictKeys p d).map (strictSlot p d) =
    (List.range (tensorAt p (gDst d % 4096)).copies).flatMap fun k => (List.range (gM d)).flatMap fun m => (List.range (gN d)).map fun c =>
      (tensorAt p (gDst d % 4096)).addr k ⟨c, m, 0, 0, 0⟩ := by
  simp only [flatMap_map_eq_map_indexPairs]
  rfl

theorem mem_strictKeys {p : Part} {d : Desc} {k m c : Nat} :
    (k, m, c) ∈ strictKeys p d ↔ k < (tensorAt p (gDst d % 4096)).copies ∧ m < gM d ∧ c < gN d := by
  simp only [strictKeys, mem_indexPairs, List.mem_range]

theorem mem_strictWrites {s : State} {p : Part} {d : Desc} {ie : Ieee} {w : Nat × List Byte} :
    w ∈ strictWrites s p d ie ↔ ∃ x ∈ strictKeys p d, strictWrite s p d ie x = w := by
  simp only [strictWrites, strictRowWrites, codeWrites, List.mem_flatMap, List.mem_map, List.mem_range, Prod.exists, mem_strictKeys]
  constructor
  · rintro ⟨m, hm, c, hc, k, hk, rfl⟩
    exact ⟨k, m, c, ⟨hk, hm, hc⟩, rfl⟩
  · rintro ⟨k, m, c, ⟨hk, hm, hc⟩, rfl⟩
    exact ⟨m, hm, c, hc, k, hk, rfl⟩

/-- Where the elements do not meet, every dot product reads back. -/
theorem strict_readBack {s u : State} {n : Fin 16} {p : Part} {d : Desc} {ie : Ieee} (wf : Memory.wf s = true)
    (wrote : Wrote n (strictWrites s p d ie) s u)
    (apart : ((strictKeys p d).map (strictSlot p d)).Pairwise fun x y =>
      x + elemSpan (tensorAt p (gDst d % 4096)).fmt ≤ y ∨ y + elemSpan (tensorAt p (gDst d % 4096)).fmt ≤ x)
    {x : Nat × Nat × Nat} (hx : x ∈ strictKeys p d) :
    memRead u (strictSlot p d x) (elemSpan (tensorAt p (gDst d % 4096)).fmt) =
      toLE (elemSpan (tensorAt p (gDst d % 4096)).fmt) (strictElement s p d ie x.2.1 x.2.2).1 := by
  have apart : (strictKeys p d).Pairwise fun x y => Apart (strictWrite s p d ie x) (strictWrite s p d ie y) := by
    simpa [List.pairwise_map, Apart, strictWrite] using apart
  have back := wrote.lands wf (strictWrite s p d ie x) (mem_strictWrites.2 ⟨x, hx, rfl⟩) fun v hv => by
    obtain ⟨y, hy, rfl⟩ := mem_strictWrites.1 hv
    by_cases same : y = x
    · exact .inl (congrArg _ same)
    · exact .inr (pairwise_of_ne apart (fun _ _ => Or.symm) hx hy (Ne.symm same))
  simpa [strictWrite] using back

/-! ### What acceptance says -/

/-- The extents and formats that R177 demands of a SLICE phase. -/
theorem checkCascade_slice {s : State} {n : Fin 16} {r : Fin 8} {d : Desc} (phase : gPhase d = false) (h : checkCascade s n r d = none) :
    (tensorAt (s.part n) (gB d)).fmt = .int8 ∧ (tensorAt (s.part n) (gA d)).ext 0 = (tensorAt (s.part n) (gB d)).ext 0 ∧
      (tensorAt (s.part n) (gA d)).ext 1 = (tensorAt (s.part n) (gB d)).ext 1 ∧ gSlices d ≤ (tensorAt (s.part n) (gB d)).ext 2 := by
  simp only [checkCascade, phase, Bool.false_eq_true, if_false, orElse_eq_none] at h
  obtain ⟨-, -, checks⟩ := h
  simp only [checkSlice, firstFail_eq_none, List.forall_mem_cons] at checks
  obtain ⟨-, -, formats, -, -, extents, -, slices, -⟩ := checks
  simp only [Bool.or_eq_false_iff, bne_eq_false_iff_eq, decide_eq_false_iff_not, Nat.not_lt] at formats extents slices
  exact ⟨formats.2, extents.1, extents.2, slices⟩

/-- The formats and extents that R184 demands of a STRICT_GEMM. -/
theorem checkStrict_output {s : State} {n : Fin 16} {r : Fin 8} {d : Desc} (h : checkStrict s n r d = none) :
    (tensorAt (s.part n) (gA d)).fmt = (tensorAt (s.part n) (gDst d % 4096)).fmt ∧
      ((tensorAt (s.part n) (gDst d % 4096)).fmt = .fp32 ∨ (tensorAt (s.part n) (gDst d % 4096)).fmt = .fp64) ∧
      gM d ≤ (tensorAt (s.part n) (gDst d % 4096)).ext 1 ∧ gN d ≤ (tensorAt (s.part n) (gDst d % 4096)).ext 0 := by
  simp only [checkStrict, checkTensors, orElse_eq_none, firstFail_eq_none, List.forall_mem_cons] at h
  obtain ⟨-, -, ⟨-, -, -, formats, -⟩, ⟨-, -, -, -, -, -, -, -, rows, -, cols, -⟩, -⟩ := h
  simp only [Bool.or_eq_false_iff, Bool.and_eq_false_iff, bne_eq_false_iff_eq, Bool.not_eq_false', decide_eq_true_eq] at formats rows cols
  obtain ⟨⟨-, same⟩, float⟩ := formats
  exact ⟨same, same ▸ float, rows, cols⟩

theorem sliceFits_of_ranges {p : Part} {d : Desc} (fmt : (tensorAt p (gB d)).fmt = .int8) (ext0 : (tensorAt p (gA d)).ext 0 = (tensorAt p (gB d)).ext 0)
    (ext1 : (tensorAt p (gA d)).ext 1 = (tensorAt p (gB d)).ext 1) (slices : gSlices d ≤ (tensorAt p (gB d)).ext 2)
    (low : ∀ x ∈ (tensorAt p (gB d)).ranges ++ expRanges p (tensorAt p (gB d)), x.1 + x.2 ≤ 2 ^ 29) : SliceFits p d := by
  obtain ⟨codes, exps⟩ := List.forall_mem_append.1 low
  refine ⟨fmt, fun k row i j hk hrow hi hj => ?_, fun k row c hk hrow hc => ?_⟩
  · have span : elemSpan (tensorAt p (gB d)).fmt = 1 := by rw [fmt]; rfl
    have fits := Tensor.addr_low (i2 := j) codes hk (ext0 ▸ hi) (ext1 ▸ hrow) (by omega)
    rw [span] at fits
    exact fits
  · have range := exps ((tensorAt p (gB d)).fineBase + k * 0x400000, expLen p (tensorAt p (gB d))) (List.mem_map.2 ⟨k, List.mem_range.2 hk, rfl⟩)
    have last : (row + 1) * sliceChunks p d ≤ (tensorAt p (gA d)).ext 1 * sliceChunks p d := Nat.mul_le_mul_right _ hrow
    have len : expLen p (tensorAt p (gB d)) = 2 * ((tensorAt p (gA d)).ext 1 * sliceChunks p d) := by
      rw [expLen, ← ext0, ← ext1, Nat.mul_assoc, Nat.mul_comm (ceilDiv _ _)]
      rfl
    rw [Nat.succ_mul, Nat.mul_comm row] at last
    simp only [len] at range
    unfold sliceExpAt
    omega

/-- An output format of R184 has whole bytes. -/
theorem elemBits_whole {f : Fmt} (float : f = .fp32 ∨ f = .fp64) : f.elemBits % 8 = 0 := by
  rcases float with rfl | rfl <;> rfl

theorem strictFits_of_ranges {p : Part} {d : Desc} (float : (tensorAt p (gDst d % 4096)).fmt = .fp32 ∨ (tensorAt p (gDst d % 4096)).fmt = .fp64)
    (rows : gM d ≤ (tensorAt p (gDst d % 4096)).ext 1) (cols : gN d ≤ (tensorAt p (gDst d % 4096)).ext 0)
    (low : ∀ x ∈ (tensorAt p (gDst d % 4096)).ranges, x.1 + x.2 ≤ 2 ^ 29) : StrictFits p d :=
  ⟨elemBits_whole float, fun _ _ _ hk hm hc => Tensor.addr_low low hk (by omega) (by omega) (Nat.zero_le _)⟩

theorem strictFits_of_slots {p : Part} {d : Desc} (float : (tensorAt p (gDst d % 4096)).fmt = .fp32 ∨ (tensorAt p (gDst d % 4096)).fmt = .fp64)
    (low : ∀ x ∈ (strictKeys p d).map (strictSlot p d), x + elemSpan (tensorAt p (gDst d % 4096)).fmt ≤ 2 ^ 29) : StrictFits p d :=
  ⟨elemBits_whole float, fun _ _ _ hk hm hc => low _ (List.mem_map.2 ⟨_, mem_strictKeys.2 ⟨hk, hm, hc⟩, rfl⟩)⟩

/-! ### The statement -/

section
variable {s : State} {n : Fin 16} {r : Fin 8} {d : Desc} (may : mayIssue s n r = true) (idle : quiet s n = true) (clean : s.badSram = [])
  (undrained : ∀ b, drainsOf s b = [])
include may idle clean undrained

/-- A SLICE phase whose bytes do not meet: its exponent entries and its slices read back (R175 to R177). -/
theorem exec_cascadeSlice_readBack (wf : Memory.wf s = true) (op : dOpcode d = 0x13) (phase : gPhase d = false)
    (accepted : evaluate s n r d (checkCascade s n r d) = none) (fmt : (tensorAt (s.part n) (gB d)).fmt = .int8)
    (nodup : (sliceCodeAddrs (s.part n) d ++ sliceExpAddrs (s.part n) d).Nodup)
    (low : ∀ a ∈ sliceCodeAddrs (s.part n) d ++ sliceExpAddrs (s.part n) d, a < 2 ^ 29) :
    ∃ t, exec (.cascadeSlice n ⟨r, .none⟩ d) s = .next t ∧ ∀ k row c, k < (tensorAt (s.part n) (gB d)).copies →
      row < (tensorAt (s.part n) (gA d)).ext 1 → c < sliceChunks (s.part n) d →
        memRead t (sliceExpAt (s.part n) d k row c) 2 = toLE 2 (sliceExp s (s.part n) d row c) ∧
        ∀ i j, i < sliceLen (s.part n) d c → j < gSlices d →
          readByte t (sliceCodeAt (s.part n) d k row (c * chunkOf (s.part n) + i) j) = BitVec.ofNat 8 (sliceCode s (s.part n) d row c i j) := by
  obtain ⟨u, run, wrote⟩ := exec_cascadeSlice may idle clean undrained op phase accepted (sliceFits_of_addrs fmt low)
  refine ⟨_, run, fun k row c hk hrow hc => ?_⟩
  simp only [memRead_push, readByte_push]
  exact slice_readBack wf wrote fmt nodup hk hrow hc

/-- A STRICT_GEMM whose elements do not meet: its dot products read back, and its detail is the OR of their flags (R185 to R187). -/
theorem exec_strictGemm_readBack {ie : Ieee} (wf : Memory.wf s = true) (op : dOpcode d = 0x14)
    (accepted : evaluate s n r d (checkStrict s n r d) = none) (format : (tensorAt (s.part n) (gDst d % 4096)).fmt.ieee = some ie)
    (apart : ((strictKeys (s.part n) d).map (strictSlot (s.part n) d)).Pairwise fun x y =>
      x + elemSpan (tensorAt (s.part n) (gDst d % 4096)).fmt ≤ y ∨ y + elemSpan (tensorAt (s.part n) (gDst d % 4096)).fmt ≤ x)
    (low : ∀ x ∈ (strictKeys (s.part n) d).map (strictSlot (s.part n) d), x + elemSpan (tensorAt (s.part n) (gDst d % 4096)).fmt ≤ 2 ^ 29) :
    ∃ t, exec (.strictGemm n r d .none) s = .next t ∧
      (∀ k m c, k < (tensorAt (s.part n) (gDst d % 4096)).copies → m < gM d → c < gN d →
        memRead t (strictSlot (s.part n) d (k, m, c)) (elemSpan (tensorAt (s.part n) (gDst d % 4096)).fmt) =
          toLE (elemSpan (tensorAt (s.part n) (gDst d % 4096)).fmt) (strictElement s (s.part n) d ie m c).1) ∧
      ∀ f ∈ (t.ring n r).flights, f.detail = BitVec.ofNat 160 (strictFlags s (s.part n) d ie) := by
  obtain ⟨same, float, -, -⟩ := checkStrict_output (own_of_evaluate accepted)
  obtain ⟨u, run, wrote⟩ := exec_strictGemm (ie := ie) may idle clean undrained op accepted (strictFits_of_slots float low)
    (by rw [same, format]; rfl)
  refine ⟨_, run, fun k m c hk hm hc => ?_, fun f hf => ?_⟩
  · rw [memRead_push]
    exact strict_readBack wf wrote apart (mem_strictKeys.2 ⟨hk, hm, hc⟩)
  · rw [push_ring_same, took, quiet_flights (wrote.quiet idle) r] at hf
    rw [List.mem_singleton.1 hf]

/-- A SLICE phase changes nothing but its ring, basin SRAM and the records of its partition. -/
theorem exec_cascadeSlice_frame (op : dOpcode d = 0x13) (phase : gPhase d = false) (accepted : evaluate s n r d (checkCascade s n r d) = none)
    (low : ∀ x ∈ (tensorAt (s.part n) (gB d)).ranges ++ expRanges (s.part n) (tensorAt (s.part n) (gB d)), x.1 + x.2 ≤ 2 ^ 29) :
    ∃ t, exec (.cascadeSlice n ⟨r, .none⟩ d) s = .next t ∧ EndsOn n r s t (newFlight s n r d .done .none) := by
  obtain ⟨fmt, ext0, ext1, slices⟩ := checkCascade_slice phase (own_of_evaluate accepted)
  obtain ⟨u, run, wrote⟩ := exec_cascadeSlice may idle clean undrained op phase accepted (sliceFits_of_ranges fmt ext0 ext1 slices low)
  exact ⟨_, run, wrote.push_frame _⟩

/-- So does a STRICT_GEMM, but for its detail. -/
theorem exec_strictGemm_frame (op : dOpcode d = 0x14) (accepted : evaluate s n r d (checkStrict s n r d) = none)
    (low : ∀ x ∈ (tensorAt (s.part n) (gDst d % 4096)).ranges, x.1 + x.2 ≤ 2 ^ 29) :
    ∃ t detail, exec (.strictGemm n r d .none) s = .next t ∧ EndsOn n r s t { newFlight s n r d .done .none with detail := detail } := by
  obtain ⟨-, float, rows, cols⟩ := checkStrict_output (own_of_evaluate accepted)
  obtain ⟨u, run, wrote⟩ := exec_strictGemm may idle clean undrained op accepted (strictFits_of_ranges float rows cols low) rfl
  exact ⟨_, _, run, wrote.push_frame _⟩

end

/-- Settles O48: both descriptors are runs of writes whose bytes the model fixes; where the bytes do not meet, all of them read back. -/
theorem sliceAndStrictWriteTheirOutputs : Obligations.SliceAndStrictWriteTheirOutputs := by
  refine ⟨fun s n r d c may idle clean undrained low rows => ?_,
    fun s n r d wf may idle clean undrained op phase accepted => ?_,
    fun s n r d ie wf may idle clean undrained op accepted => ?_,
    fun f xs a b => ⟨rfl, strictDot_append f xs a b⟩⟩
  · rcases rows with ⟨rfl, op, phase, accepted⟩ | ⟨rfl, op, accepted⟩
    · rw [if_pos op] at low
      obtain ⟨t, run, only, ring, part⟩ := exec_cascadeSlice_frame may idle clean undrained op phase accepted low
      exact ⟨t, _, run, only, ring, rfl, part, fun _ => rfl⟩
    · rw [if_neg (by omega)] at low
      obtain ⟨t, detail, run, only, ring, part⟩ := exec_strictGemm_frame may idle clean undrained op accepted (List.forall_mem_append.1 low).1
      exact ⟨t, _, run, only, ring, rfl, part, nofun⟩
  · intro p src dst cl nc x expAt codes exps fmt nodup low
    have addrs : codes ++ exps = sliceCodeAddrs p d ++ sliceExpAddrs p d := by
      rw [sliceCodeAddrs_eq, sliceExpAddrs_eq]
      rfl
    rw [addrs] at nodup low
    exact exec_cascadeSlice_readBack may idle clean undrained wf op phase accepted fmt nodup low
  · intro p ta tb o es dot slots format apart low
    have keys : slots = (strictKeys p d).map (strictSlot p d) := (strictSlots_eq p d).symm
    rw [keys] at apart low
    exact exec_strictGemm_readBack may idle clean undrained wf op accepted format apart low

/-! ### Descriptors that meet the hypotheses -/

/-- The SLICE phase of tensor 0 into three slices of tensor 1, and the strict product of tensor 2 by itself into tensor 3; both on basin 0. -/
def sliceOne : Desc := packFields 512 [(0, 0, 8, 0x13), (10, 0, 12, 1), (18, 0, 4, 3), (33, 0, 8, 1)]
def strictOne : Desc :=
  packFields 512 [(0, 0, 8, 0x14), (8, 0, 12, 2), (10, 0, 12, 2), (12, 0, 24, 1), (15, 0, 24, 1), (20, 0, 32, 1), (28, 0, 32, 1), (33, 0, 8, 1),
    (36, 5, 2, 1), (40, 0, 32, 3)]

/-- A tensor of one row and one column at a base, by its format code, rank, planes and fine base. -/
def oneElement (base fmt rank planes fine : Nat) : Tensor :=
  packFields 512 [(0, 0, 48, base), (6, 0, 4, fmt), (6, 4, 3, rank), (6, 7, 1, 1), (8, 0, 24, 1), (11, 0, 24, 1), (14, 0, 24, planes), (17, 0, 24, 1),
    (20, 0, 24, 1), (24, 0, 32, 64), (28, 0, 32, 64), (44, 0, 48, fine)]

/-- The powered machine in step 1 with a descriptor waiting; tensor 0 is 1.0 in FP64, tensor 2 is 3.0 in FP32. -/
def lanesReady : State :=
  { (poweredUp.modRing 0 0 fun x => { x with ctl := 0xD, tail := 1, openStep := some 1 }).modPart 0 fun p => { p with
      plan := some { heldGemmPlan with
        tensors := [oneElement 0 3 2 1 0, oneElement 64 4 3 3 512, oneElement 1024 0 2 1 0, oneElement 1088 0 2 1 0], manifest := [manifestOf sliceOne] } } with
    sram := [(6, 0xF0), (7, 0x3F), (1026, 0x40), (1027, 0x40)] }

/-- O48's hypotheses are met by a SLICE phase: 1.0 has exponent 1, and its slices are 64 and twice 0. -/
theorem sliceOne_slices :
    ∃ t, exec (.cascadeSlice 0 ⟨0, .none⟩ sliceOne) lanesReady = .next t ∧ memRead t 512 2 = toLE 2 0x2001 ∧
      ∀ j, j < 3 → readByte t (64 + 64 * j) = BitVec.ofNat 8 ([64, 0, 0].getD j 0) := by
  obtain ⟨t, run, back⟩ := exec_cascadeSlice_readBack (s := lanesReady) (n := 0) (r := 0) (d := sliceOne) (by decide +kernel) (by decide +kernel)
    rfl (fun _ => rfl) (by decide +kernel) (by decide +kernel) (by decide +kernel) (by decide +kernel) (by decide +kernel) (by decide +kernel)
    (by decide +kernel)
  have entry : sliceExpAt (lanesReady.part 0) sliceOne 0 0 0 = 512 ∧ sliceExp lanesReady (lanesReady.part 0) sliceOne 0 0 = 0x2001 := by
    decide +kernel
  have slots : ∀ j, j < 3 → 0 < sliceLen (lanesReady.part 0) sliceOne 0 ∧ j < gSlices sliceOne ∧
      sliceCodeAt (lanesReady.part 0) sliceOne 0 0 (0 * chunkOf (lanesReady.part 0) + 0) j = 64 + 64 * j ∧
      sliceCode lanesReady (lanesReady.part 0) sliceOne 0 0 0 j = [64, 0, 0].getD j 0 := by decide +kernel
  obtain ⟨exponent, codes⟩ := back 0 0 0 (by decide +kernel) (by decide +kernel) (by decide +kernel)
  rw [entry.1, entry.2] at exponent
  refine ⟨t, run, exponent, fun j hj => ?_⟩
  obtain ⟨inChunk, inSlices, slot, code⟩ := slots j hj
  rw [← slot, ← code]
  exact codes 0 j inChunk inSlices

/-- The hypotheses of its frame are met too: the SLICE phase stands done in its ring, and the cistern is as it was. -/
theorem sliceOne_ends :
    ∃ t f, exec (.cascadeSlice 0 ⟨0, .none⟩ sliceOne) lanesReady = .next t ∧ (t.ring 0 0).flights = [f] ∧ f.phase = .done ∧ f.detail = 0 ∧
      t.cistern = [] := by
  obtain ⟨t, f, run, ⟨u, only, ring, -⟩, taken, done, -, detail⟩ := sliceAndStrictWriteTheirOutputs.1 lanesReady 0 0 sliceOne _ (by decide +kernel)
    (by decide +kernel) rfl (fun _ => rfl) (by decide +kernel) (.inl ⟨rfl, by decide +kernel, by decide +kernel, by decide +kernel⟩)
  exact ⟨t, f, run, by rw [taken]; rfl, by rw [done]; rfl, detail rfl, by rw [ring.1, only.1]; rfl⟩

/-- O48's hypotheses are met by a STRICT_GEMM: 3.0 by 3.0 is 9.0, and no flag is raised. -/
theorem strictOne_multiplies :
    ∃ t, exec (.strictGemm 0 0 strictOne .none) lanesReady = .next t ∧ memRead t 1088 4 = toLE 4 0x41100000 ∧
      ∀ f ∈ (t.ring 0 0).flights, f.detail = 0 := by
  obtain ⟨t, run, back, flags⟩ := exec_strictGemm_readBack (s := lanesReady) (n := 0) (r := 0) (d := strictOne) (ie := fp32) (by decide +kernel)
    (by decide +kernel) rfl (fun _ => rfl) (by decide +kernel) (by decide +kernel) (by decide +kernel) (by decide +kernel) (by decide +kernel)
    (by decide +kernel)
  have dot : strictSlot (lanesReady.part 0) strictOne (0, 0, 0) = 1088 ∧
      (strictElement lanesReady (lanesReady.part 0) strictOne fp32 0 0).1 = 0x41100000 ∧
      elemSpan (tensorAt (lanesReady.part 0) (gDst strictOne % 4096)).fmt = 4 ∧
      strictFlags lanesReady (lanesReady.part 0) strictOne fp32 = 0 := by decide +kernel
  obtain ⟨slot, code, span, noFlag⟩ := dot
  have element := back 0 0 0 (by decide +kernel) (by decide +kernel) (by decide +kernel)
  rw [slot, code, span] at element
  exact ⟨t, run, element, fun f hf => (flags f hf).trans (congrArg (BitVec.ofNat 160) noFlag)⟩

end Sys2Proof.Machine
end

section
/-! Partitions at rest: what that says of the rings, and what keeps it. -/
namespace Sys2Proof.Machine

theorem part_of_parts {s t : State} (parts : t.parts = s.parts) (m : Fin 16) : t.part m = s.part m := by simp only [State.part, parts]

theorem atRest_iff {s : State} {n : Fin 16} : atRest s n = true ↔ (s.part n).traps = [] ∧
    ∀ r, ∀ f ∈ (s.ring n r).flights, f.phase ≠ .waiting ∧ f.phase ≠ .gate ∧ dOpcode f.d ≠ 0x01 :=
  ⟨fun rest => ⟨atRest_traps rest, fun r _ mem => atRest_flight rest r mem⟩, fun ⟨traps, flights⟩ => by
    simp only [atRest, Bool.and_eq_true, List.all_eq_true]
    exact ⟨by simp [traps], fun r _ g mem => by simpa [and_assoc] using flights r g mem⟩⟩

/-- Being at rest depends on the traps that wait and on what is in flight. -/
theorem atRest_congr {s t : State} {n : Fin 16} (traps : (t.part n).traps = (s.part n).traps)
    (flights : ∀ r, (t.ring n r).flights = (s.ring n r).flights) : atRest t n = true ↔ atRest s n = true := by
  simp only [atRest_iff, traps, flights]

theorem calm_atRest {s : State} (h : calm s = true) (m : Fin 16) : atRest s m = true := by
  simp only [calm, Bool.and_eq_true, List.all_eq_true] at h
  exact (h.1.1 m (mem_allParts m)).1

/-- Where every partition is at rest and one takes a descriptor that is done, no gate holds a STEP_OPEN. -/
theorem releaseHeld_push {s : State} {n : Fin 16} {r : Fin 8} {f : Flight} (rest : ∀ m, atRest s m = true) (done : f.phase = .done)
    (notFence : dOpcode f.d ≠ 0x01) : releaseHeld (push s n r f) = push s n r f := by
  refine releaseHeld_same fun m k => ?_
  by_cases same : m = n
  · subst same
    exact atRest_heldOpen (atRest_push (rest m) (by simp [done]) (by simp [done]) notFence) k
  · rw [push, State.ring_modRing_otherFn s r k _ same]
    exact atRest_heldOpen (rest m) k

end Sys2Proof.Machine
end

section
/-! Writes to the host (completions, entries of the event ring, messages): what they leave alone, and the completions of a step's seals (R33). -/
namespace Sys2Proof.Machine

/-! ### Writes to the host -/

/-- A change of a function that keeps its rings keeps every ring. -/
theorem State.ring_setFn_sameRings (s : State) {n : Fin 16} {f : Fn} (same : f.rings = (s.fn n).rings) (m : Fin 16) (k : Fin 8) :
    (s.setFn n f).ring m k = s.ring m k := by
  by_cases h : m = n
  · subst h
    simp [State.ring, same]
  · simp [State.ring, State.fn_setFn_other s f h]

/-- A change of one ring keeps whatever it keeps of that ring. -/
theorem State.ring_modRing_keeps {α : Type} (part : Ring → α) (s : State) (n : Fin 16) (r : Fin 8) {g : Ring → Ring}
    (keeps : ∀ x, part (g x) = part x) (m : Fin 16) (k : Fin 8) : part ((s.modRing n r g).ring m k) = part (s.ring m k) := by
  by_cases fn : m = n
  · subst fn
    by_cases ring : k = r
    · subst ring
      rw [State.ring_modRing_same, keeps]
    · rw [State.ring_modRing_other s m g ring]
  · rw [State.ring_modRing_otherFn s r k g fn]

/-- From `s` to `t` the machine has done no more than write to the host and keep account of it: what is in flight on the rings stands. -/
structure Reports (s t : State) : Prop where
  frame : t = { s with fns := t.fns, host := t.host, out := t.out }
  flights : ∀ m k, (t.ring m k).flights = (s.ring m k).flights

/-- The same, and every ring is still owed the completions of its STEP_SEALs. -/
structure Tells (s t : State) : Prop extends Reports s t where
  owed : ∀ m k, (t.ring m k).owed = (s.ring m k).owed

theorem Reports.refl (s : State) : Reports s s := ⟨rfl, fun _ _ => rfl⟩

theorem Reports.trans {s t u : State} (h : Reports s t) (k : Reports t u) : Reports s u :=
  ⟨by rw [k.frame, h.frame], fun m r => (k.flights m r).trans (h.flights m r)⟩

theorem Reports.part {s t : State} (h : Reports s t) (m : Fin 16) : t.part m = s.part m := by
  rw [h.frame]
  rfl

theorem Reports.parts {s t : State} (h : Reports s t) : t.parts = s.parts := by rw [h.frame]
theorem Reports.ras {s t : State} (h : Reports s t) : t.ras = s.ras := by rw [h.frame]
theorem Reports.cfg {s t : State} (h : Reports s t) : t.cfg = s.cfg := by rw [h.frame]
theorem Reports.sram {s t : State} (h : Reports s t) : t.sram = s.sram := by rw [h.frame]
theorem Reports.cistern {s t : State} (h : Reports s t) : t.cistern = s.cistern := by rw [h.frame]

theorem Reports.modRing {s t : State} (h : Reports s t) (n : Fin 16) (r : Fin 8) {g : Ring → Ring}
    (flights : ∀ x, (g x).flights = x.flights) : Reports s (t.modRing n r g) :=
  h.trans ⟨rfl, State.ring_modRing_keeps (fun x => x.flights) t n r flights⟩

namespace Tells

variable {s t u : State}

theorem refl (s : State) : Tells s s := ⟨.refl s, fun _ _ => rfl⟩

theorem trans (h : Tells s t) (k : Tells t u) : Tells s u :=
  ⟨h.toReports.trans k.toReports, fun m r => (k.owed m r).trans (h.owed m r)⟩

theorem setFn (h : Tells s t) {n : Fin 16} {f : Fn} (same : f.rings = (t.fn n).rings) : Tells s (t.setFn n f) :=
  h.trans ⟨⟨rfl, fun m k => by rw [State.ring_setFn_sameRings t same]⟩, fun m k => by rw [State.ring_setFn_sameRings t same]⟩

theorem modFn (h : Tells s t) (n : Fin 16) {g : Fn → Fn} (same : ∀ f, (g f).rings = f.rings) : Tells s (t.modFn n g) := h.setFn (same _)

theorem post (h : Tells s t) (n : Fin 16) (relaxed : Bool) (k : PostKind) (a : Nat) (bs : List Byte) : Tells s (t.post n relaxed k a bs) :=
  h.trans ⟨⟨rfl, fun _ _ => rfl⟩, fun _ _ => rfl⟩

theorem hostWrite (h : Tells s t) (a : Nat) (bs : List Byte) : Tells s (hostWrite t a bs) := by
  induction bs generalizing t a with
  | nil => exact h
  | cons b bs ih =>
    exact ih (t := { t with host := Sparse.put 0 t.host (a % 2 ^ 64) b }) (h.trans ⟨⟨rfl, fun _ _ => rfl⟩, fun _ _ => rfl⟩) (a + 1)

theorem modRing (h : Tells s t) (n : Fin 16) (r : Fin 8) {g : Ring → Ring} (flights : ∀ x, (g x).flights = x.flights)
    (owed : ∀ x, (g x).owed = x.owed) : Tells s (t.modRing n r g) :=
  h.trans ⟨(Reports.refl t).modRing n r flights, State.ring_modRing_keeps (fun x => x.owed) t n r owed⟩

theorem sendVector (h : Tells s t) (n : Fin 16) (v : Nat) : Tells s (sendVector t n v) := by
  unfold Machine.sendVector
  dsimp only
  split
  · exact h.setFn rfl
  · exact h.post ..

theorem eventIrq (h : Tells s t) (n : Fin 16) : Tells s (eventIrq t n) := by
  unfold Machine.eventIrq
  dsimp only
  split
  · exact (h.sendVector n _).modFn n fun _ => rfl
  · exact h

/-- An entry of the event ring (R386), written or dropped. -/
theorem event (h : Tells s t) (n : Fin 16) (code ring step : Nat) (detail : List (Nat × Nat × Nat × Nat)) :
    Tells s (event t n code ring step detail) := by
  unfold Machine.event
  dsimp only
  split
  · refine Tells.eventIrq (Tells.modFn ?_ n ?_) n
    · exact (h.hostWrite _ _).post ..
    · exact fun _ => rfl
  · exact h.modFn n fun _ => rfl

theorem moderate (h : Tells s t) (n : Fin 16) (r : Fin 8) (irq : Bool) : Tells s (moderate t n r irq) := by
  unfold Machine.moderate
  dsimp only
  split
  · refine Tells.sendVector ?_ n _
    exact h.modRing n r (fun _ => rfl) fun _ => rfl
  · exact h.modRing n r (fun _ => rfl) fun _ => rfl

/-- A completion (R380), where it may be written. -/
theorem complete (h : Tells s t) (n : Fin 16) (r : Fin 8) (seq status opcode : Nat) (step : Option Nat) (detail : BitVec 160) (irq : Bool) :
    Tells s (complete t n r seq status opcode step detail irq) := by
  unfold Machine.complete
  dsimp only
  split
  · refine Tells.moderate (Tells.modRing ?_ n r ?_ ?_) n r irq
    · exact (h.hostWrite _ _).post ..
    all_goals exact fun _ => rfl
  · exact h

end Tells

/-! ### The completions of a step's seals (R33) -/

/-- One ring: the completions due are written, and it is owed them no more. -/
theorem completeSealsRing_tells (s : State) (n : Fin 16) (r : Fin 8) (k status : Nat) (detail : BitVec 160) :
    Tells (s.modRing n r fun x => { x with owed := x.owed.filter fun o => o.2.1 != k }) (completeSealsRing s n r k status detail) :=
  List.foldlRecOn _ _ (Tells.refl _) fun _ told _ _ => told.complete ..

theorem completeSealsRing_reports (s : State) (n : Fin 16) (r : Fin 8) (k status : Nat) (detail : BitVec 160) :
    Reports s (completeSealsRing s n r k status detail) := by
  refine Reports.trans ?_ (completeSealsRing_tells s n r k status detail).toReports
  exact (Reports.refl s).modRing n r fun _ => rfl

theorem completeSeals_reports (s : State) (n : Fin 16) (k status : Nat) (detail : BitVec 160) :
    Reports s (completeSeals s n k status detail) :=
  List.foldlRecOn _ _ (Reports.refl s) fun _ told _ _ => told.trans (completeSealsRing_reports ..)

/-- Once the rings of a list have had their completions, each of them is owed none of that step; the others are owed what they were. -/
theorem foldl_completeSealsRing_owed (rs : List (Fin 8)) (s : State) (n : Fin 16) (k status : Nat) (detail : BitVec 160) (r : Fin 8) :
    ((rs.foldl (fun s r => completeSealsRing s n r k status detail) s).ring n r).owed =
      if r ∈ rs then (s.ring n r).owed.filter fun o => o.2.1 != k else (s.ring n r).owed := by
  induction rs generalizing s with
  | nil => simp
  | cons q rs ih =>
    rw [List.foldl_cons, ih, (completeSealsRing_tells s n q k status detail).owed]
    by_cases same : r = q
    · subst same
      simp [List.filter_filter]
    · simp [State.ring_modRing_other s n _ same, same]

theorem completeSeals_owed (s : State) (n : Fin 16) (k status : Nat) (detail : BitVec 160) (r : Fin 8) :
    ((completeSeals s n k status detail).ring n r).owed = (s.ring n r).owed.filter fun o => o.2.1 != k := by
  rw [completeSeals, foldl_completeSealsRing_owed, if_pos (mem_allRings r)]

end Sys2Proof.Machine
end

section
/-! The RAS log (R351, R353): what an entry leaves alone, and O15. -/
namespace Sys2Proof.Machine

/-! ### Entries -/

/-- An entry of the RAS log (R351): the log takes it where it has room, and the host is told; partitions and what is in flight stand. -/
theorem rasLog_logs (s : State) (cause action : Nat) (part : Option (Fin 16)) (addr unit : Nat) :
    let t := rasLog s cause action part addr unit
    t.parts = s.parts ∧ (∀ m r, (t.ring m r).flights = (s.ring m r).flights) ∧ (s.ras.length < 256 → t.ras.length = s.ras.length + 1) := by
  unfold rasLog
  dsimp only [State.draw]
  split
  next room =>
    have told (u : State) (step : Nat) (detail : List (Nat × Nat × Nat × Nat)) : Reports u (event u 0 evRasEntry 0xF step detail) :=
      ((Tells.refl u).event ..).toReports
    refine ⟨?_, fun m r => ?_, fun _ => ?_⟩
    · rw [(told _ _ _).parts]
      split <;> rfl
    · rw [(told _ _ _).flights]
      split <;> rfl
    · rw [(told _ _ _).ras]
      split <;> simp
  next full => exact ⟨rfl, fun _ _ => rfl, fun room => absurd room full⟩

/-! ### RAS_LOG_POP -/

/-- Settles O15: the host reaches the log, and the write of 1 drops its first entry. -/
theorem rasLogPopRemovesTheOldest : Obligations.RasLogPopRemovesTheOldest := by
  intro s reaches
  have run : exec (.rasLogPop 1) s = .next (served s .host fun s => popRas s 1) := rfl
  refine ⟨_, run, ?_⟩
  simp [served, reaches, popRas]

/-- O15's hypothesis is met: of two entries the first goes. -/
theorem poweredUp_popsRas : ∃ t, exec (.rasLogPop 1) { poweredUp with ras := [1, 2] } = .next t ∧ t.ras = [2] := by
  obtain ⟨t, run, popped⟩ := rasLogPopRemovesTheOldest { poweredUp with ras := [1, 2] } (by decide +kernel)
  exact ⟨t, run, by rw [popped]; rfl⟩

end Sys2Proof.Machine
end

section
/-! The ledger (R327, R330, R331): the issue of a LEDGER_RELEASE without a local store, the seal of a step, and O54. -/
namespace Sys2Proof.Machine

/-! ### LEDGER_RELEASE -/

/-- The steps that stay in the ledger of partition n after a release up to `upto`: under AUTO release all of them, since none is the driver's to free (R330, R331). -/
def keptSteps (s : State) (n : Fin 16) (upto : Nat) : List StepRec :=
  if driverRelease s n.val then (s.part n).steps.filter fun x => decide (upto < x.n) else (s.part n).steps

/-- The state after a release of the ledger's steps alone. -/
def released (s : State) (n : Fin 16) (upto : Nat) : State := s.modPart n fun p => { p with steps := keptSteps s n upto }

/-- Where the ledger keeps all its steps the release changes nothing. -/
theorem released_same {s : State} {n : Fin 16} {upto : Nat} (kept : keptSteps s n upto = (s.part n).steps) : released s n upto = s := by
  rw [released, kept]
  exact State.setPart_self s n

/-- Without a local store a release frees the steps and folds no record (R331). -/
theorem applyRelease_noStore {s : State} {n : Fin 16} {d : Desc} (noStore : ∀ m, mirrorTable (s.part n) = some m → storeOn m = false) :
    applyRelease s n d = (released s n (lrUpto d), stOk, 0) := by
  by_cases frees : driverRelease s n.val = true ∧ ((s.part n).steps.any fun r => decide (r.n ≤ lrUpto d)) = true
  · obtain ⟨driver, held⟩ := frees
    have same : released s n (lrUpto d) = s.modPart n fun p => { p with steps := p.steps.filter fun r => decide (lrUpto d < r.n) } := by
      simp [released, keptSteps, driver, State.modPart]
    simp only [applyRelease, driver, held, same]
    cases table : mirrorTable (s.part n) with
    | none => rfl
    | some m => simp [noStore m table]
  · have kept : keptSteps s n (lrUpto d) = (s.part n).steps := by
      unfold keptSteps
      split
      next driver =>
        refine List.filter_eq_self.2 fun x mem => ?_
        have above := not_and.1 frees driver
        simp only [List.any_eq_true, decide_eq_true_eq, not_exists, not_and] at above
        simpa using above x mem
      next => rfl
    rw [released_same kept]
    have nothing : (!driverRelease s n.val || !(s.part n).steps.any fun r => decide (r.n ≤ lrUpto d)) = true := by
      cases driver : driverRelease s n.val with
      | false => rfl
      | true =>
        rw [eq_false_of_ne_true (not_and.1 frees driver)]
        rfl
    simp only [applyRelease, nothing, if_true]

/-- A ring that takes a descriptor does not see the release. -/
theorem released_push (s : State) (n : Fin 16) (r : Fin 8) (f : Flight) (upto : Nat) :
    released (push s n r f) n upto = push (released s n upto) n r f := rfl

theorem released_only (s : State) (n : Fin 16) (upto : Nat) : onlyPart n s (released s n upto) := modPart_only s n _

theorem released_part (s : State) (n : Fin 16) (upto : Nat) :
    (released s n upto).part n = { s.part n with steps := keptSteps s n upto } := State.part_modPart_same s n _

theorem released_atRest {s : State} {n : Fin 16} (upto : Nat) (rest : ∀ m, atRest s m = true) (m : Fin 16) :
    atRest (released s n upto) m = true := by
  refine (atRest_congr ?_ ?_).2 (rest m)
  · by_cases h : m = n
    · subst h
      rw [released_part]
    · rw [(released_only s n upto).2 m h]
  · exact fun _ => rfl

/-- An accepted LEDGER_RELEASE without a local store frees its steps, and stands done in its ring's next slot. -/
theorem exec_ledgerRelease {s : State} {n : Fin 16} {r : Fin 8} {d : Desc} (may : mayIssue s n r = true) (still : calm s = true)
    (idle : quiet s n = true) (op : dOpcode d = 0x40) (accepted : evaluate s n r d (checkRelease s n d) = none)
    (noStore : ∀ m, mirrorTable (s.part n) = some m → storeOn m = false) :
    exec (.ledgerRelease n r d) s = .next (push (released s n (lrUpto d)) n r (newFlight s n r d .done .none)) := by
  have notFence : dOpcode (newFlight s n r d .done .none).d ≠ 0x01 := by simp [newFlight, op]
  have rest := released_atRest (n := n) (lrUpto d) (calm_atRest still)
  have acts : applyRelease (push s n r (newFlight s n r d .running .none)) n d =
      (push (released s n (lrUpto d)) n r (newFlight s n r d .running .none), stOk, 0) := by
    rw [applyRelease_noStore (by rw [push_part]; exact noStore), released_push]
  have ends : endFlight (push (released s n (lrUpto d)) n r (newFlight s n r d .running .none)) n r (s.ring n r).issue stOk 0 =
      push (released s n (lrUpto d)) n r (newFlight s n r d .done .none) :=
    endFlight_push_alone (s := released s n (lrUpto d)) (f := newFlight s n r d .running .none) (quiet_flights idle r) 0
      (by simp [failingBits, newFlight, op])
  calc exec (.ledgerRelease n r d) s
    _ = issueNow s n r (dOpcode d == 0x40) d (checkRelease s n d) (fun s f =>
          let x := applyRelease s n d
          releaseHeld (endFlight x.1 n r f.seq x.2.1 x.2.2)) := rfl
    _ = .next (settle (releaseHeld (endFlight (push (released s n (lrUpto d)) n r (newFlight s n r d .running .none)) n r
          (s.ring n r).issue stOk 0)) n) := by
      rw [issueNow, issueWith_accepted _ may (by simp [op]) accepted]
      dsimp only
      rw [acts]
      rfl
    _ = .next (push (released s n (lrUpto d)) n r (newFlight s n r d .done .none)) := by
      rw [ends, releaseHeld_push rest rfl notFence, settle_atRest (atRest_push (rest n) Phase.noConfusion Phase.noConfusion notFence)]

/-! ### STEP_SEALED -/

/-- The ledger after step k has sealed: DRIVER release keeps its record, AUTO release drops it (R330). -/
def sealedSteps (s : State) (n : Fin 16) (k : Nat) : List StepRec :=
  if driverRelease s n.val then (s.part n).steps.map fun y => if y.n = k then { y with fate := .sealed } else y
  else (s.part n).steps.filter fun y => y.n != k

/-- Dropping the records of step k does not mind what has changed in them, so long as their number stands. -/
theorem filter_map_record (k : Nat) {f : StepRec → StepRec} (number : ∀ y, (f y).n = y.n) (l : List StepRec) :
    ((l.map fun y => if y.n = k then f y else y).filter fun y => y.n != k) = l.filter fun y => y.n != k := by
  induction l with
  | nil => rfl
  | cons y l ih => by_cases h : y.n = k <;> simp [h, number, ih]

/-- The machine once the STEP_SEALs of step k have their completions, with its record sealed (R33). -/
def sealsCompleted (s : State) (n : Fin 16) (k : Nat) : State :=
  completeSeals (modStep s n k fun r => { r with fate := .sealed }) n k stOk 0

theorem sealsCompleted_reports (s : State) (n : Fin 16) (k : Nat) :
    Reports (modStep s n k fun r => { r with fate := .sealed }) (sealsCompleted s n k) := completeSeals_reports ..

/-- The seal of a step (R33, R330): its completions, the number of the last sealed step, and the ledger. -/
theorem sealStep_eq (s : State) (n : Fin 16) (x : StepRec) :
    sealStep s n x = (sealsCompleted s n x.n).modPart n fun p => { p with
      sealed := x.n, sealedValid := true, steps := sealedSteps s n x.n } := by
  have told := sealsCompleted_reports s n x.n
  have release : driverRelease (sealsCompleted s n x.n) n.val = driverRelease s n.val := by
    simp only [driverRelease, State.force, told.cfg]
    rfl
  have steps : ((sealsCompleted s n x.n).part n).steps = (s.part n).steps.map fun y => if y.n = x.n then { y with fate := .sealed } else y := by
    rw [told.part, modStep, State.part_modPart_same]
    simp
  have kept : (if driverRelease (sealsCompleted s n x.n) n.val then ((sealsCompleted s n x.n).part n).steps
      else ((sealsCompleted s n x.n).part n).steps.filter fun y => y.n != x.n) = sealedSteps s n x.n := by
    rw [release, steps, filter_map_record x.n (f := fun y => { y with fate := .sealed }) fun _ => rfl]
    rfl
  rw [← kept, State.modPart, sealStep]
  rfl

/-- On a machine with nothing in flight STEP_SEALED seals the step, and no gate has anything to try. -/
theorem exec_stepSealed {s : State} {n : Fin 16} {x : StepRec} (idle : ∀ m, quiet s m = true) (due : sealable s n = some x) :
    exec (.stepSealed n) s = .next (sealStep s n x) := by
  have empty (m : Fin 16) (r : Fin 8) : ((sealStep s n x).ring m r).flights = [] := by
    rw [sealStep_eq, State.modPart_ring, (sealsCompleted_reports s n x.n).flights]
    exact quiet_flights (idle m) r
  have still : releaseHeld (sealStep s n x) = sealStep s n x :=
    releaseHeld_same fun m r => heldOpen_none fun f mem => by simp [empty m r] at mem
  calc exec (.stepSealed n) s
    _ = .next (stepSealed s n) := rfl
    _ = .next (sealStep s n x) := by simp only [stepSealed, due, still]

/-! ### The statement -/

/-- Settles O54: a release changes the steps alone, and a seal its step, its completions and the ledger. -/
theorem theLedgerSealsAndReleases : Obligations.TheLedgerSealsAndReleases := by
  refine ⟨fun s n r d may still idle op accepted noStore => ?_, fun s n x idle due => ?_⟩
  · refine ⟨_, exec_ledgerRelease may still idle op accepted noStore, ⟨_, released_only s n (lrUpto d), push_only _ n r _⟩, ?_, ?_⟩
    · rw [push_ring_same]
      rfl
    · rw [push_part, released_part]
      rfl
  · have told := sealsCompleted_reports s n x.n
    refine ⟨_, exec_stepSealed idle due, ?_⟩
    rw [sealStep_eq, State.part_modPart_same]
    refine ⟨rfl, rfl, fun r => ?_, rfl, fun m other => ?_, ?_, ?_⟩
    · rw [State.modPart_ring]
      exact completeSeals_owed ..
    · rw [State.part_modPart_other _ _ other, told.part]
      exact State.part_modPart_other s _ other
    · rw [State.modPart_cistern, told.cistern, modStep, State.modPart_cistern]
    · rw [State.modPart_sram, told.sram, modStep, State.modPart_sram]

/-! ### A release and a seal that meet the hypotheses -/

/-- The record of a step that has retired and passed its checks. -/
def checkedStep (k : Nat) (fate : Fate) : StepRec :=
  { n := k, seed := 0, gen := 0, settings := ⟨0, 0, [], []⟩, runs := 1, touched := [], seals := 1, retired := true, fate := fate, failBits := 0,
    localDone := true, acked := true, handles := [], words := [], resid := [], bytes := 0, dirty := [] }

/-- LEDGER_RELEASE up to step 1. -/
def releaseOne : Desc := packFields 512 [(0, 0, 8, 0x40), (8, 0, 32, 1)]

/-- The powered machine under DRIVER release: steps 1 and 2 have sealed, step 3 may seal and ring 0 is owed its completion. -/
def ledgerReady : State :=
  { (poweredUp.modRing 0 0 fun x => { x with ctl := 0xD, tail := 1, owed := [(9, 3, false)] }).modPart 0 fun p => { p with
      plan := some { heldGemmPlan with manifest := [manifestOf releaseOne] }
      sealed := 2, sealedValid := true, steps := [checkedStep 1 .sealed, checkedStep 2 .sealed, checkedStep 3 .open_] } with
    cfg := { poweredUp.cfg with force := [(0x70100, 1)], committed := [(0x70100, 1)] } }

/-- O54's hypotheses are met by a release: step 1 leaves the ledger. -/
theorem ledgerReady_releases :
    ∃ t, exec (.ledgerRelease 0 0 releaseOne) ledgerReady = .next t ∧ (t.part 0).steps = [checkedStep 2 .sealed, checkedStep 3 .open_] := by
  have plain : mirrorTable (ledgerReady.part 0) = some 0 := by decide +kernel
  have noStore (m : MirrorTable) (table : mirrorTable (ledgerReady.part 0) = some m) : storeOn m = false := by
    obtain rfl : 0 = m := Option.some.inj (plain.symm.trans table)
    decide +kernel
  obtain ⟨t, run, -, -, part⟩ := theLedgerSealsAndReleases.1 ledgerReady 0 0 releaseOne (by decide +kernel) (by decide +kernel) (by decide +kernel)
    (by decide +kernel) (by decide +kernel) noStore
  exact ⟨t, run, by rw [part]; decide +kernel⟩

/-- O54's hypotheses are met by a seal: step 3 is the last sealed step, and ring 0 is owed nothing more. -/
theorem ledgerReady_seals :
    ∃ t, exec (.stepSealed 0) ledgerReady = .next t ∧ (t.part 0).sealed = 3 ∧ (t.ring 0 0).owed = [] := by
  obtain ⟨t, run, number, -, owed, -⟩ := theLedgerSealsAndReleases.2 ledgerReady 0 (checkedStep 3 .open_) (by decide +kernel) (by decide +kernel)
  exact ⟨t, run, number, (owed 0).trans (by decide +kernel)⟩

end Sys2Proof.Machine
end

section
/-! The timers of a mirror (R337, R338, R344, R348): what the loss of a shard and the end of a mirror job leave alone, and O59. -/
namespace Sys2Proof.Machine

/-! ### DETACHED -/

/-- What DETACHED leaves of the mirror's state (R338). -/
def detachedMirror (m : Mirror) : Mirror := { m with st := .detached, awaiting := [] }

/-- A mirror that detaches (R338): its state changes, and the event ring and the RAS log say so. -/
theorem detach_detaches (s : State) (n : Fin 16) :
    (detach s n).parts = (s.modPart n fun p => { p with mirror := detachedMirror p.mirror }).parts ∧
      (∀ m r, ((detach s n).ring m r).flights = (s.ring m r).flights) ∧
      (s.ras.length < 256 → (detach s n).ras.length = s.ras.length + 1) := by
  have told := ((Tells.refl (s.modPart n fun p => { p with mirror := detachedMirror p.mirror })).event n evMirrorDetached 0xF
    (stepNow (s.part n)) []).toReports
  obtain ⟨parts, flights, grows⟩ := rasLog_logs (event (s.modPart n fun p => { p with mirror := detachedMirror p.mirror }) n
    evMirrorDetached 0xF (stepNow (s.part n)) []) rasMirrorDetached actNone (some n) 0 0
  rw [told.ras] at grows
  exact ⟨parts.trans told.parts, fun m r => (flights m r).trans (told.flights m r), grows⟩

/-! ### What stands while a shard is lost -/

/-- From `s` to `t` partition n may have lost steps and memories may have been written, but the other partitions, its mirror and traps, and what is in flight stand. -/
structure WorkStands (n : Fin 16) (s t : State) : Prop where
  others : ∀ m, m ≠ n → t.part m = s.part m
  mirror : (t.part n).mirror = (s.part n).mirror
  traps : (t.part n).traps = (s.part n).traps
  noSteps : (s.part n).steps = [] → (t.part n).steps = []
  flights : ∀ r, (t.ring n r).flights = (s.ring n r).flights

namespace WorkStands

variable {n : Fin 16} {s t u : State}

theorem refl (s : State) : WorkStands n s s := ⟨fun _ _ => rfl, rfl, rfl, id, fun _ => rfl⟩

theorem trans (h : WorkStands n s t) (k : WorkStands n t u) : WorkStands n s u where
  others m other := (k.others m other).trans (h.others m other)
  mirror := k.mirror.trans h.mirror
  traps := k.traps.trans h.traps
  noSteps none := k.noSteps (h.noSteps none)
  flights r := (k.flights r).trans (h.flights r)

/-- Every record and everything in flight stands. -/
theorem of_same (parts : t.parts = s.parts) (flights : ∀ m r, (t.ring m r).flights = (s.ring m r).flights) : WorkStands n s t := by
  have part := part_of_parts parts
  exact ⟨fun m _ => part m, by rw [part], by rw [part], by rw [part]; exact id, flights n⟩

theorem of_units (parts : t.parts = s.parts) (fns : t.fns = s.fns) : WorkStands n s t :=
  of_same parts fun m r => by simp only [State.ring, State.fn, fns]

theorem of_reports (h : Reports s t) : WorkStands n s t := of_same h.parts h.flights

theorem modPart (s : State) {f : Part → Part} (mirror : ∀ p, (f p).mirror = p.mirror) (traps : ∀ p, (f p).traps = p.traps)
    (noSteps : ∀ p, p.steps = [] → (f p).steps = []) : WorkStands n s (s.modPart n f) where
  others m other := State.part_modPart_other s f other
  mirror := by rw [State.part_modPart_same, mirror]
  traps := by rw [State.part_modPart_same, traps]
  noSteps none := by rw [State.part_modPart_same, noSteps _ none]
  flights _ := rfl

/-- The same change of the mirror on both sides. -/
theorem setMirror (h : WorkStands n s t) (f : Mirror → Mirror) :
    WorkStands n (s.modPart n fun p => { p with mirror := f p.mirror }) (t.modPart n fun p => { p with mirror := f p.mirror }) where
  others m other := by rw [State.part_modPart_other _ _ other, State.part_modPart_other _ _ other, h.others m other]
  mirror := by simp only [State.part_modPart_same, h.mirror]
  traps := by simp only [State.part_modPart_same, h.traps]
  noSteps none := by
    rw [State.part_modPart_same] at none ⊢
    exact h.noSteps none
  flights := h.flights

end WorkStands

/-! ### SHARD_LOST (R348) -/

theorem writeByte_units (s : State) (a : Nat) (b : Byte) : (writeByte s a b).parts = s.parts ∧ (writeByte s a b).fns = s.fns := by
  unfold writeByte
  split
  · split <;> exact ⟨rfl, rfl⟩
  all_goals exact ⟨rfl, rfl⟩

theorem memWrite_workStands {n : Fin 16} (s : State) (a : Nat) (bs : List Byte) : WorkStands n s (memWrite s a bs) := by
  induction bs generalizing s a with
  | nil => exact .refl s
  | cons b bs ih =>
    obtain ⟨parts, fns⟩ := writeByte_units s a b
    exact (WorkStands.of_units parts fns).trans (ih (writeByte s a b) (a + 1))

theorem lstoreFault_workStands {n : Fin 16} (s : State) (m : Fin 16) (a : Nat) : WorkStands n s (lstoreFault s m a) := by
  obtain ⟨parts, flights, -⟩ := rasLog_logs s rasLstoreFault actFailed (some m) a 0
  exact .of_same parts flights

theorem abortStep_workStands (s : State) (n : Fin 16) (k : Nat) : WorkStands n s (abortStep s n k) := by
  unfold abortStep
  split
  · split
    · have marked : WorkStands n s (modStep s n k fun r => { r with fate := .aborted }) :=
        WorkStands.modPart s (fun _ => rfl) (fun _ => rfl) fun p none => by simp [none]
      exact marked.trans (.of_reports (completeSeals_reports ..))
    · exact .refl s
  · exact .refl s

theorem discardHeld_workStands (s : State) (n : Fin 16) (keep : Nat) : WorkStands n s (discardHeld s n keep) := by
  refine List.foldlRecOn _ _ (.refl s) fun t stands q _ => ?_
  split
  · refine List.foldlRecOn _ _ (stands.trans (.of_units rfl rfl)) fun u stands x _ => ?_
    exact stands.trans (.of_units rfl rfl)
  · exact stands

/-- A restore that discards the steps of partition n leaves none in its ledger (R343, R493). -/
theorem dropSteps_drops (s : State) (n : Fin 16) : WorkStands n s (dropSteps s n) ∧ ((dropSteps s n).part n).steps = [] := by
  have aborted : WorkStands n s (abortSteps s n fun _ => true) :=
    List.foldlRecOn _ _ (.refl s) fun t stands r _ => stands.trans (abortStep_workStands t n r.n)
  have cleared : WorkStands n s (clearPlanes (abortSteps s n fun _ => true) n) :=
    aborted.trans (WorkStands.modPart _ (fun _ => rfl) (fun _ => rfl) fun _ => id)
  unfold dropSteps
  dsimp only
  generalize 2 ^ 32 = keep
  refine ⟨(cleared.trans (discardHeld_workStands _ n keep)).trans ?_, ?_⟩
  · exact WorkStands.modPart _ (fun _ => rfl) (fun _ => rfl) fun _ _ => rfl
  · rw [State.part_modPart_same]

/-- What SHARD_LOST leaves of the mirror's state (R348). -/
def lostMirror (m : Mirror) : Mirror :=
  { m with st := .lost, records := [], awaiting := [], base := noStep, shardLost := true, restore := Record.empty, damaged := [] }

/-- Once the steps are gone and the regions emptied, the mirror's state and the log say that the shard is lost. -/
theorem lost_workStands {s t : State} {n : Fin 16} (emptied : WorkStands n (dropSteps s n) t) :
    let u := rasLog (t.modPart n fun p => { p with mirror := lostMirror p.mirror }) rasShardLost actNone (some n) 0 0
    WorkStands n (s.modPart n fun p => { p with mirror := lostMirror p.mirror }) u ∧ (u.part n).steps = [] := by
  obtain ⟨dropped, noSteps⟩ := dropSteps_drops s n
  obtain ⟨parts, flights, -⟩ := rasLog_logs (t.modPart n fun p => { p with mirror := lostMirror p.mirror }) rasShardLost actNone (some n) 0 0
  have logged := WorkStands.of_same (n := n) parts flights
  refine ⟨((dropped.trans emptied).setMirror lostMirror).trans logged, logged.noSteps ?_⟩
  rw [State.part_modPart_same]
  exact emptied.noSteps noSteps

/-- A shard that is lost (R348): the steps go, the mirror's state says so, and the descriptor of the restore ends SHARD_LOST. -/
theorem shardLost_ends (s : State) (n : Fin 16) :
    ∃ u, shardLost s n = endJob u n stShardLost (BitVec.ofNat 160 (s.part n).mirror.vouch) ∧
      WorkStands n (s.modPart n fun p => { p with mirror := lostMirror p.mirror }) u ∧ (u.part n).steps = [] := by
  unfold shardLost
  dsimp only
  rw [(dropSteps_drops s n).1.mirror]
  refine ⟨_, rfl, lost_workStands ?_⟩
  have zeroed (gs : List Nat) :
      WorkStands n (dropSteps s n) (gs.foldl (fun s g => memWrite s (8192 * g) (List.replicate 8192 0)) (dropSteps s n)) :=
    List.foldlRecOn _ _ (.refl _) fun t stands g _ => stands.trans (memWrite_workStands t _ _)
  have cleared (hs : List Handle) (t : State) :
      WorkStands n t (hs.foldl (fun s h => h.words.foldl (fun s w => putWord s w wordZero) s) t) :=
    List.foldlRecOn _ _ (.refl _) fun t stands h _ =>
      List.foldlRecOn _ _ stands fun u stands w _ => stands.trans (.of_units rfl rfl)
  cases mirrorTable ((dropSteps s n).part n) with
  | none => exact (zeroed _).trans (cleared _ _)
  | some m =>
    dsimp only
    split
    · exact ((zeroed _).trans (cleared _ _)).trans (lstoreFault_workStands ..)
    · exact ((zeroed _).trans (cleared _ _)).trans (memWrite_workStands ..)

/-! ### The end of a mirror job -/

/-- The state once the descriptor of a mirror job has ended. -/
def jobEnded (s : State) (n : Fin 16) (r : Fin 8) (seq status : Nat) (detail : BitVec 160) : State :=
  modFlight (s.modPart n fun p => { p with mirror := { p.mirror with job := none } }) n r seq fun g =>
    { g with phase := .done, status := status, detail := detail }

section
variable {s : State} {n : Fin 16} {r : Fin 8} {f : Flight} {status : Nat} {detail : BitVec 160}

/-- The job's descriptor ends; a MIRROR_SYNC and a SHARD_RESTORE fail no step (R327). -/
theorem endJob_eq (job : (s.part n).mirror.job = some ⟨n.val, r.val, f.seq⟩) (mem : f ∈ (s.ring n r).flights)
    (unique : ∀ g ∈ (s.ring n r).flights, g.seq = f.seq → g = f) (passes : failingBits (dOpcode f.d) status = 0) :
    endJob s n status detail = jobEnded s n r f.seq status detail := by
  have ring : fin8 r.val = r := Fin.ext (fin8_val r.isLt)
  have found : findFlight (s.modPart n fun p => { p with mirror := { p.mirror with job := none } }) n r f.seq = some f := by
    rw [findFlight, State.modPart_ring]
    cases first : (s.ring n r).flights.find? fun g => g.seq == f.seq with
    | none => simpa using List.find?_eq_none.1 first f mem
    | some g => rw [unique g (List.mem_of_find?_eq_some first) (by simpa using List.find?_some first)]
  simp only [endJob, job, ring, endFlight, found, passes]
  rfl

theorem jobEnded_part (m : Fin 16) :
    (jobEnded s n r f.seq status detail).part m = (s.modPart n fun p => { p with mirror := { p.mirror with job := none } }).part m := rfl

theorem jobEnded_flights : ((jobEnded s n r f.seq status detail).ring n r).flights = (s.ring n r).flights.map fun g =>
    if g.seq = f.seq then { g with phase := .done, status := status, detail := detail } else g := by
  simp [jobEnded, modFlight, modFlights]

/-- A partition at rest stays so when a descriptor of its ends. -/
theorem jobEnded_atRest (rest : atRest s n = true) : atRest (jobEnded s n r f.seq status detail) n = true := by
  obtain ⟨traps, flights⟩ := atRest_iff.1 rest
  refine atRest_iff.2 ⟨?_, fun k g mem => ?_⟩
  · rw [jobEnded_part, State.part_modPart_same]
    exact traps
  · by_cases same : k = r
    · subst same
      rw [jobEnded_flights, List.mem_map] at mem
      obtain ⟨e, old, rfl⟩ := mem
      obtain ⟨notWaiting, notGate, notFence⟩ := flights k e old
      split <;> simp [notWaiting, notGate, notFence]
    · rw [jobEnded, modFlight, modFlights, State.ring_modRing_other _ n _ same] at mem
      exact flights k g mem

/-- Nothing follows where a partition at rest loses its mirror job. -/
theorem jobEnded_settles (rest : atRest s n = true) :
    settle (tryOpen (jobEnded s n r f.seq status detail) n) n = jobEnded s n r f.seq status detail := by
  rw [tryOpen_atRest (jobEnded_atRest rest), settle_atRest (jobEnded_atRest rest)]

end

/-! ### The timers -/

/-- What `MirrorTimersDetachOrLose` assumes of a partition's rings leaves it at rest. -/
theorem atRest_of_running {s : State} {n : Fin 16}
    (running : ∀ r, ∀ f ∈ (s.ring n r).flights, f.phase = .running ∧ dOpcode f.d ≠ 0x01 ∧ dOpcode f.d ≠ 0x03) (traps : (s.part n).traps = []) :
    atRest s n = true :=
  atRest_iff.2 ⟨traps, fun r f mem => by simp [running r f mem]⟩

/-- The timer of a record takes a live mirror to DETACHED (R338). -/
theorem exec_mirrorDetached {s : State} {n : Fin 16} (live : mirrorLive (s.part n) = true) (noJob : (s.part n).mirror.job = none)
    (waits : (s.part n).mirror.awaiting ≠ []) : exec (.mirrorDetached n) s = .next (detach s n) := by
  have due : (mirrorLive (s.part n) && (s.part n).mirror.job.isNone &&
      (!(s.part n).mirror.awaiting.isEmpty || allDown s (mirrorPorts (s.part n)))) = true := by
    simp [live, noJob, waits]
  exact congrArg Host.Outcome.next (if_pos due)

section
variable {s : State} {n : Fin 16} {r : Fin 8} {f : Flight} (rest : atRest s n = true) (job : (s.part n).mirror.job = some ⟨n.val, r.val, f.seq⟩)
  (mem : f ∈ (s.ring n r).flights) (unique : ∀ g ∈ (s.ring n r).flights, g.seq = f.seq → g = f)
include rest job mem unique

/-- The timer of a running MIRROR_SYNC detaches the mirror and ends the descriptor TIMEOUT (R337, R350). -/
theorem exec_mirrorSyncTimeout (st : (s.part n).mirror.st = .syncing) (op : dOpcode f.d = 0x41) :
    exec (.mirrorSyncTimeout n) s = .next (jobEnded (detach s n) n r f.seq stTimeout 0) := by
  obtain ⟨parts, flights, -⟩ := detach_detaches s n
  have part := part_of_parts parts n
  rw [State.part_modPart_same] at part
  have ends : endJob (detach s n) n stTimeout 0 = jobEnded (detach s n) n r f.seq stTimeout 0 :=
    endJob_eq (by rw [part]; exact job) (by rw [flights]; exact mem) (by rw [flights]; exact unique) (by simp [failingBits, op])
  have still : atRest (detach s n) n = true := (atRest_congr (by rw [part]) (flights n)).2 rest
  calc exec (.mirrorSyncTimeout n) s
    _ = .next (settle (tryOpen (endJob (detach s n) n stTimeout 0) n) n) := congrArg Host.Outcome.next (if_pos (by simp [syncing, st, job]))
    _ = .next (jobEnded (detach s n) n r f.seq stTimeout 0) := by rw [ends, jobEnded_settles still]

/-- The timer of a running SHARD_RESTORE loses the shard (R344, R348). -/
theorem exec_shardRestoreTimeout (st : (s.part n).mirror.st = .restoring) (op : dOpcode f.d = 0x43) :
    ∃ u, exec (.shardRestoreTimeout n) s = .next (jobEnded u n r f.seq stShardLost (BitVec.ofNat 160 (s.part n).mirror.vouch)) ∧
      WorkStands n (s.modPart n fun p => { p with mirror := lostMirror p.mirror }) u ∧ (u.part n).steps = [] := by
  obtain ⟨u, lost, stands, noSteps⟩ := shardLost_ends s n
  refine ⟨u, ?_, stands, noSteps⟩
  have mirror := stands.mirror
  have traps := stands.traps
  have flights (k : Fin 8) : (u.ring n k).flights = (s.ring n k).flights := stands.flights k
  rw [State.part_modPart_same] at mirror traps
  have ends : endJob u n stShardLost (BitVec.ofNat 160 (s.part n).mirror.vouch) =
      jobEnded u n r f.seq stShardLost (BitVec.ofNat 160 (s.part n).mirror.vouch) :=
    endJob_eq (by rw [mirror]; exact job) (by rw [flights]; exact mem) (by rw [flights]; exact unique) (by simp [failingBits, op])
  have still : atRest u n = true := (atRest_congr traps flights).2 rest
  calc exec (.shardRestoreTimeout n) s
    _ = .next (settle (tryOpen (shardLost s n) n) n) := congrArg Host.Outcome.next (if_pos (by simp [restoring, st, job]))
    _ = .next (jobEnded u n r f.seq stShardLost (BitVec.ofNat 160 (s.part n).mirror.vouch)) := by rw [lost, ends, jobEnded_settles still]

end

/-- No step opens on a partition that has lost its shard (R348). -/
theorem openVerdict_shardLost {s : State} {n : Fin 16} (lost : (s.part n).mirror.shardLost = true) (r : Fin 8) (f : Flight) :
    openVerdict s n r f ≠ none := by
  unfold openVerdict
  dsimp only
  split
  · nofun
  split
  · nofun
  split
  · nofun
  simp [lost]

/-! ### The statement -/

/-- Settles O59: each timer ends in DETACHED or SHARD_LOST, where the job's descriptor is the only one to end. -/
theorem mirrorTimersDetachOrLose : Obligations.MirrorTimersDetachOrLose := by
  intro s n running traps
  have rest := atRest_of_running running traps
  obtain ⟨parts, flights, grows⟩ := detach_detaches s n
  have detached := part_of_parts parts
  refine ⟨fun live noJob waits => ?_, fun r f job mem unique => ⟨fun st op => ?_, fun st op => ?_⟩⟩
  · refine ⟨_, exec_mirrorDetached live noJob waits, ?_, grows, fun m other => ?_⟩
    · rw [detached, State.part_modPart_same]
      rfl
    · rw [detached, State.part_modPart_other s _ other]
  · refine ⟨_, exec_mirrorSyncTimeout rest job mem unique st op, ?_, ?_, fun m other => ?_⟩
    · rw [jobEnded_part, State.part_modPart_same, detached, State.part_modPart_same]
      rfl
    · rw [jobEnded_flights, flights]
      rfl
    · rw [jobEnded_part, State.part_modPart_other _ _ other, detached, State.part_modPart_other s _ other]
  · obtain ⟨u, run, stands, noSteps⟩ := exec_shardRestoreTimeout rest job mem unique st op
    have mirror := stands.mirror
    have shard : (jobEnded u n r f.seq stShardLost (BitVec.ofNat 160 (s.part n).mirror.vouch)).part n =
        { u.part n with mirror := { lostMirror (s.part n).mirror with job := none } } := by
      rw [State.part_modPart_same] at mirror
      rw [jobEnded_part, State.part_modPart_same, mirror]
    refine ⟨_, run, ?_, ?_, ?_, ?_, ?_, fun m other => ?_, fun k g => openVerdict_shardLost ?_ k g⟩
    · rw [shard]
      rfl
    · rw [shard]
      rfl
    · rw [shard]
    · rw [shard]
      exact noSteps
    · rw [jobEnded_flights, stands.flights]
      rfl
    · rw [jobEnded_part, State.part_modPart_other _ _ other, stands.others m other, State.part_modPart_other s _ other]
    · rw [shard]
      rfl

/-! ### Mirrors that meet the hypotheses -/

/-- A descriptor of an opcode, as it runs on ring 0 of the powered machine. -/
def mirrorFlight (op : Nat) : Flight := newFlight poweredUp 0 0 (packFields 512 [(0, 0, 8, op)]) .running .none

/-- The powered machine with that descriptor running for the mirror of partition 0, step 4 unacknowledged and VOUCH_STEP at 7. -/
def mirrorRuns (st : MirrorSt) (op : Nat) : State :=
  (push poweredUp 0 0 (mirrorFlight op)).modPart 0 fun p => { p with
    mirror := { Mirror.reset with st := st, awaiting := [4], job := some ⟨0, 0, 0⟩, vouch := 7 } }

/-- O59's hypotheses are met by a record that waits too long: the mirror detaches, and the log says so. -/
theorem mirror_detaches :
    ∃ t, exec (.mirrorDetached 0) (poweredUp.modPart 0 fun p => { p with mirror := { Mirror.reset with st := .synced, awaiting := [4] } }) = .next t ∧
      (t.part 0).mirror = { Mirror.reset with st := .detached } ∧ t.ras.length = 1 := by
  obtain ⟨t, run, mirror, logged, -⟩ := (mirrorTimersDetachOrLose
    (poweredUp.modPart 0 fun p => { p with mirror := { Mirror.reset with st := .synced, awaiting := [4] } }) 0 (by decide +kernel) (by decide +kernel)).1
    (by decide +kernel) (by decide +kernel) (by decide +kernel)
  exact ⟨t, run, mirror.trans (by decide +kernel), logged (by decide +kernel)⟩

/-- O59's hypotheses are met by a MIRROR_SYNC: it ends TIMEOUT. -/
theorem mirrorSync_timesOut :
    ∃ t, exec (.mirrorSyncTimeout 0) (mirrorRuns .syncing 0x41) = .next t ∧ (t.ring 0 0).flights.map (fun g => (g.phase, g.status)) = [(.done, 0x08)] := by
  obtain ⟨t, run, -, flights, -⟩ := ((mirrorTimersDetachOrLose (mirrorRuns .syncing 0x41) 0 (by decide +kernel) (by decide +kernel)).2 0
    (mirrorFlight 0x41) (by decide +kernel) (by decide +kernel) (by decide +kernel)).1 (by decide +kernel) (by decide +kernel)
  exact ⟨t, run, by rw [flights]; decide +kernel⟩

/-- O59's hypotheses are met by a SHARD_RESTORE: it ends SHARD_LOST with VOUCH_STEP 7, and no STEP_OPEN is let through. -/
theorem shardRestore_timesOut :
    ∃ t, exec (.shardRestoreTimeout 0) (mirrorRuns .restoring 0x43) = .next t ∧
      (t.ring 0 0).flights.map (fun g => (g.status, g.detail)) = [(stShardLost, 7)] ∧ ∀ k g, openVerdict t 0 k g ≠ none := by
  obtain ⟨t, run, -, -, -, -, flights, -, shut⟩ := ((mirrorTimersDetachOrLose (mirrorRuns .restoring 0x43) 0 (by decide +kernel) (by decide +kernel)).2 0
    (mirrorFlight 0x43) (by decide +kernel) (by decide +kernel) (by decide +kernel)).2 (by decide +kernel) (by decide +kernel)
  exact ⟨t, run, by rw [flights]; decide +kernel, shut⟩

end Sys2Proof.Machine
end

section
/-! The invariants of the whole machine (R351, R402, R403, R411, R461): every command advances it (Laws/Evolves.lean), hence every step keeps a sound state sound; O4, O2 and O5. -/
namespace Sys2Proof.Machine

/-! ### One command -/

/-- Whatever a command answers as a next state has advanced: all but the three that may bring the last word of a life-cycle token have evolved (R464). -/
theorem exec_advances (c : Instr) (s : State) : Advanced s (exec c s) := by
  have same := Evolves.refl s
  cases c with
  | nop => exact (execNop_evolves same).advanced
  | fence => exact (execFence_evolves same).advanced
  | fenceTimeout => exact (execFenceTimeout_evolves same).advanced
  | planLoad => exact (execPlanLoad_evolves same).advanced
  | stepOpen => exact (execStepOpen_evolves same).advanced
  | stepSeal => exact (execStepSeal_evolves same).advanced
  | copy => exact (execCopy_evolves same).advanced
  | gemm => exact (execGemm_evolves same).advanced
  | gemmPacked => exact (execGemmPacked_evolves same).advanced
  | conv => exact (execConv_evolves same).advanced
  | cascadeSlice => exact (execCascadeSlice_evolves same).advanced
  | cascadeMultiply => exact (execCascadeMultiply_evolves same).advanced
  | strictGemm => exact (execStrictGemm_evolves same).advanced
  | cstOpen => exact (execCstOpen_evolves same).advanced
  | cstAdd => exact (execCstAdd_evolves same).advanced
  | cstRead => exact (execCstRead_evolves same).advanced
  | cstClose => exact (execCstClose_evolves same).advanced
  | reduce => exact (execReduce_evolves same).advanced
  | allreduce => exact (execAllreduce_evolves same).advanced
  | reduceScatter => exact (execReduceScatter_evolves same).advanced
  | broadcast => exact (execBroadcast_evolves same).advanced
  | allgather => exact (execAllgather_evolves same).advanced
  | barrier => exact (execBarrier_evolves same).advanced
  | statsReduce => exact (execStatsReduce_evolves same).advanced
  | ledgerRelease => exact (execLedgerRelease_evolves same).advanced
  | mirrorSync => exact (execMirrorSync_evolves same).advanced
  | mirrorSyncTimeout => exact (execMirrorSyncTimeout_evolves same).advanced
  | replay => exact (execReplay_evolves same).advanced
  | shardRestore => exact (execShardRestore_evolves same).advanced
  | shardRestoreTimeout => exact (execShardRestoreTimeout_evolves same).advanced
  | epochAdvance => exact (execEpochAdvance_evolves same).advanced
  | portJoin => exact (execPortJoin_evolves same).advanced
  | portJoinTimeout => exact (execPortJoinTimeout_evolves same).advanced
  | portLeave => exact (execPortLeave_evolves same).advanced
  | portLeaveDrained => exact (execPortLeaveDrained_evolves same).advanced
  | descriptorRetire => exact (execDescriptorRetire_evolves same).advanced
  | arrayUnitBegin => exact (execArrayUnitBegin_evolves same).advanced
  | sumpRowDrain => exact (execSumpRowDrain_evolves same).advanced
  | cisternLaneOp => exact (execCisternLaneOp_evolves same).advanced
  | scrubOp => exact (execScrubOp_evolves same).advanced
  | stepGateOpen => exact (execStepGateOpen_evolves same).advanced
  | partitionIdle => exact (execPartitionIdle_evolves same).advanced
  | stepSealed => exact (execStepSealed_evolves same).advanced
  | collectiveBegin => exact (execCollectiveBegin_evolves same).advanced
  | upSegmentSend => exact (execUpSegmentSend_evolves same).advanced
  | collectiveTimeout => exact (execCollectiveTimeout_evolves same).advanced
  | parcelReceived => exact (execParcelReceived_evolves same).advanced
  | mirrorDetached => exact (execMirrorDetached_evolves same).advanced
  | flitReceived => exact (execFlitReceived_evolves same).advanced
  | nakReceived => exact (execNakReceived_evolves same).advanced
  | ackTimeout => exact (execAckTimeout_evolves same).advanced
  | stateFlitReceived => exact (execStateFlitReceived_evolves same).advanced
  | laneFailed => exact (execLaneFailed_evolves same).advanced
  | laneDegraded => exact (execLaneDegraded_evolves same).advanced
  | laneCmdEffective => exact (execLaneCmdEffective_evolves same).advanced
  | trainingWindow => exact (execTrainingWindow_evolves same).advanced
  | partnerDetected => exact (execPartnerDetected_evolves same).advanced
  | trainingComplete => exact (execTrainingComplete_evolves same).advanced
  | trainingTimeout => exact (execTrainingTimeout_evolves same).advanced
  | quarantineEnd => exact (execQuarantineEnd_evolves same).advanced
  | beaconTick => exact (execBeaconTick_evolves same).advanced
  | beaconSample => exact (execBeaconSample_evolves same).advanced
  | optPoll => exact (execOptPoll_evolves same).advanced
  | optIntAssert => exact (execOptIntAssert_evolves same).advanced
  | optStuck => exact (execOptStuck_evolves same).advanced
  | shutterQuiesced => exact (execShutterQuiesced_evolves same).advanced
  | wipeComplete => exact (execWipeComplete_evolves same).advanced
  | shutterOpen => exact (execShutterOpen_evolves same).advanced
  | functionLevelReset => exact (execFunctionLevelReset_evolves same).advanced
  | fnReset => exact (execFnReset_evolves same).advanced
  | doorbell => exact (execDoorbell_evolves same).advanced
  | ringEnable => exact (execRingEnable_evolves same).advanced
  | resume => exact (execResume_evolves same).advanced
  | evtRingEnable => exact (execEvtRingEnable_evolves same).advanced
  | evtHeadWrite => exact (execEvtHeadWrite_evolves same).advanced
  | irqModerationTimer => exact (execIrqModerationTimer_evolves same).advanced
  | msixUnmask => exact (execMsixUnmask_evolves same).advanced
  | commit => exact (execCommit_evolves same).advanced
  | stagedRegisterWrite => exact execStagedRegisterWrite_advances
  | registerWrite => exact execRegisterWrite_advances
  | rasLogPop => exact (execRasLogPop_evolves same).advanced
  | mbxNop => exact (execMbxNop_evolves same).advanced
  | mbxAbort => exact (execMbxAbort_evolves same).advanced
  | snapInfo => exact (execSnapInfo_evolves same).advanced
  | snapRead => exact (execSnapRead_evolves same).advanced
  | snapRequest => exact (execSnapRequest_evolves same).advanced
  | ageLog => exact (execAgeLog_evolves same).advanced
  | faultRecord => exact (execFaultRecord_evolves same).advanced
  | fwUpdate => exact (execFwUpdate_evolves same).advanced
  | fwActivate => exact (execFwActivate_evolves same).advanced
  | lcsToken => exact (execLcsToken_evolves same).advanced
  | mbxDataWrite => exact execMbxDataWrite_advances
  | mbxDataRead => exact (execMbxDataRead_evolves same).advanced
  | porstAssert => exact (execPorstAssert_evolves same).advanced
  | porstRelease => exact (execPorstRelease_evolves same).advanced
  | perstAssert => exact (execPerstAssert_evolves same).advanced
  | perstDeassert => exact (execPerstDeassert_evolves same).advanced
  | hostConfigRequest => exact (execHostConfigRequest_evolves same).advanced
  | hostLinkDown => exact (execHostLinkDown_evolves same).advanced
  | hostRequestFailure => exact (execHostRequestFailure_evolves same).advanced
  | vfEnableClear => exact (execVfEnableClear_evolves same).advanced
  | d3hotToD0 => exact (execD3hotToD0_evolves same).advanced
  | transomTransaction => exact (execTransomTransaction_evolves same).advanced
  | transomRetrain => exact (execTransomRetrain_evolves same).advanced
  | cdcStall => exact (execCdcStall_evolves same).advanced
  | crossingRelease => exact (execCrossingRelease_evolves same).advanced
  | crossingDrained => exact (execCrossingDrained_evolves same).advanced
  | haltInChange => exact (execHaltInChange_evolves same).advanced
  | tapReset => exact (execTapReset_evolves same).advanced
  | thermalEmergency => exact (execThermalEmergency_evolves same).advanced
  | emergencyStep => exact (execEmergencyStep_evolves same).advanced
  | emergencyEnd => exact (execEmergencyEnd_evolves same).advanced
  | thermtrip => exact (execThermtrip_evolves same).advanced
  | powerSample => exact (execPowerSample_evolves same).advanced
  | sentinelMeasure => exact (execSentinelMeasure_evolves same).advanced
  | phaseFault => exact (execPhaseFault_evolves same).advanced
  | vcoreUndervoltage => exact (execVcoreUndervoltage_evolves same).advanced
  | inputFault => exact (execInputFault_evolves same).advanced
  | vinLow => exact (execVinLow_evolves same).advanced
  | vddio18Fall => exact (execVddio18Fall_evolves same).advanced
  | registerRead => exact (execRegisterRead_evolves same).advanced
  | vfEnableSet => exact (execVfEnableSet_evolves same).advanced
  | d0ToD3hot => exact (execD0ToD3hot_evolves same).advanced
  | hostLinkUp => exact (execHostLinkUp_evolves same).advanced
  | transomModuleTrained => exact (execTransomModuleTrained_evolves same).advanced
  | optIntDeassert => exact (execOptIntDeassert_evolves same).advanced
  | firmwareStop => exact (execFirmwareStop_evolves same).advanced

/-- Settles O2: it is part of what a command advances. -/
theorem execLeavesQueueSerialAndSvn : Obligations.ExecLeavesQueueSerialAndSvn := by
  intro c s t run
  obtain ⟨-, queue, serial, svn, -⟩ := exec_advances c s t run
  exact ⟨queue, serial, svn⟩

/-! ### Sound states -/

/-- Settles O4: at reset every memory, log and image is empty. -/
theorem resetIsSound : Obligations.ResetIsSound where
  mem := rfl
  ras := Nat.zero_le _
  clamp := Nat.zero_le _
  committed := rfl
  force := rfl

/-- The commands that wait are no part of what makes a state sound. -/
theorem sound_pending {s : State} (sound : Sound s) (commands : List Instr) : Sound { s with pending := commands } :=
  sound_congr sound rfl rfl rfl rfl rfl rfl

/-- Settles O5: a step idles, or it takes a command off the queue and the command advances the rest. -/
theorem everyStepKeepsSound : Obligations.EveryStepKeepsSound := by
  intro s t sound run
  unfold step at run
  split at run
  next idle =>
    cases run
    exact sound
  next c rest waits => exact (exec_advances c _ t run).sound (sound_pending sound rest)

/-! ### States that meet the hypotheses -/

/-- The machine right after reset, with a write to the Transom window at the front of its queue. -/
def transomWaits : State := { State.reset with pending := [.transomTransaction ⟨0, 1, some [1]⟩, .beaconTick] }

/-- O5's hypotheses are met: the step answers the write NOT_READY, and its next state is sound. -/
theorem transomWaits_steps_sound : ∃ t, step transomWaits = .next t ∧ t.out.answer = 3 ∧ Sound t := by
  have run : step transomWaits = .next (transomTransaction { transomWaits with pending := [.beaconTick] } ⟨0, 1, some [1]⟩) := rfl
  exact ⟨_, run, rfl, everyStepKeepsSound _ _ (sound_pending resetIsSound _) run⟩

/-- The powered machine with a serial and a minimum SVN in its fuses, and a command waiting. -/
def fused : State := { poweredUp with pending := [.beaconTick], lcs := { Lcs.reset with serial := 9, svnMin := 4 } }

/-- O2's hypothesis is met: VF_ENABLE_SET leaves the queue and both fuses. -/
theorem fused_stands : ∃ t, exec .vfEnableSet fused = .next t ∧ t.sys.vfEnable = true ∧ t.pending = [.beaconTick] ∧ t.lcs.serial = 9 ∧ 4 ≤ t.lcs.svnMin := by
  have run : exec .vfEnableSet fused = .next { fused with sys := { fused.sys with vfEnable := true } } := rfl
  exact ⟨_, run, rfl, execLeavesQueueSerialAndSvn _ _ _ run⟩

end Sys2Proof.Machine
end

section
/-! The Transom window (R413, R445): what bytes of it read back after a write, what a write leaves alone, and O28. -/
namespace Sys2Proof.Machine

/-! ### A range of the window -/

theorem windowWrite_transom (s : State) (a : Nat) (bs : List Byte) :
    windowWrite s a bs = { s with transom := (windowWrite s a bs).transom } := by
  induction bs generalizing s a with
  | nil => rfl
  | cons b bs ih => rw [windowWrite, ih]

/-- Within the window, a write leaves every byte outside its range as it was. -/
theorem windowWrite_outside (s : State) {a x : Nat} (bs : List Byte) (fits : a + bs.length ≤ 2 ^ 44) (outside : x < a ∨ a + bs.length ≤ x) :
    Sparse.get 0 (windowWrite s a bs).transom x = Sparse.get 0 s.transom x := by
  induction bs generalizing s a with
  | nil => rfl
  | cons b bs ih =>
    rw [List.length_cons] at fits outside
    have offset : a % 2 ^ 44 = a := Nat.mod_eq_of_lt (by omega)
    rw [windowWrite, ih _ (by omega) (by omega), offset]
    exact Sparse.get_put_other _ _ _ (by omega)

/-- A range reads back in order. -/
theorem windowWrite_inside (s : State) {a i : Nat} (bs : List Byte) (wf : Sparse.wf 0 s.transom = true) (fits : a + bs.length ≤ 2 ^ 44)
    (inside : i < bs.length) : Sparse.get 0 (windowWrite s a bs).transom (a + i) = bs.getD i 0 := by
  induction bs generalizing s a i with
  | nil => exact absurd inside (Nat.not_lt_zero i)
  | cons b bs ih =>
    rw [List.length_cons] at fits inside
    have offset : a % 2 ^ 44 = a := Nat.mod_eq_of_lt (by omega)
    rw [windowWrite, offset]
    cases i with
    | zero =>
      rw [windowWrite_outside _ bs (by omega) (by omega)]
      exact Sparse.get_put_same _ _ wf
    | succ i =>
      have rest := ih (i := i) { s with transom := Sparse.put 0 s.transom a b } (a := a + 1) (Sparse.put_wf _ _ wf) (by omega) (by omega)
      rwa [Nat.add_assoc, Nat.add_comm 1 i] at rest

@[simp] theorem windowRead_length (s : State) (a k : Nat) : (windowRead s a k).length = k := by
  induction k generalizing a with
  | zero => rfl
  | succ k ih => exact congrArg (· + 1) (ih (a + 1))

theorem windowRead_getD (s : State) {a k i : Nat} (fits : a + k ≤ 2 ^ 44) (inside : i < k) :
    (windowRead s a k).getD i 0 = Sparse.get 0 s.transom (a + i) := by
  induction k generalizing a i with
  | zero => exact absurd inside (Nat.not_lt_zero i)
  | succ k ih =>
    have offset : a % 2 ^ 44 = a := Nat.mod_eq_of_lt (by omega)
    rw [windowRead, offset]
    cases i with
    | zero => rfl
    | succ i =>
      rw [List.getD_cons_succ, ih (by omega) (by omega), Nat.add_assoc, Nat.add_comm 1 i]

/-! ### Transactions -/

/-- With every Shutter OPEN no byte of the window is shut (R23). -/
theorem windowClosed_of_open {s : State} (opened : ∀ n, (s.part n).shutter = .open_) (a len : Nat) : windowClosed s a len = false := by
  simp [windowClosed, opened]

theorem transomTransaction_notReady {s : State} (x : Transaction) (notReady : s.sys.d2dReady = false) :
    transomTransaction s x = { s with out := { s.out with answer := 3, bytes := [] } } :=
  if_pos (by simp [notReady])

section
variable {s : State} (ready : s.sys.d2dReady = true) (opened : ∀ n, (s.part n).shutter = .open_)
include ready opened

theorem transomTransaction_write (a len : Nat) (bs : List Byte) :
    transomTransaction s ⟨a, len, some bs⟩ =
      { windowWrite s a bs with out := { (windowWrite s a bs).out with answer := 5, bytes := [] } } :=
  if_neg (by simp [ready, windowClosed_of_open opened])

theorem transomTransaction_read (a len : Nat) :
    transomTransaction s ⟨a, len, none⟩ = { s with out := { s.out with answer := 5, bytes := windowRead s a len } } :=
  if_neg (by simp [ready, windowClosed_of_open opened])

end

/-- Settles O28: a served transaction writes or reads its range of the window, and before READY none is served. -/
theorem transomTransactions : Obligations.TransomTransactions := by
  refine ⟨fun s a wf ready opened => ⟨fun bs fits => ?_, fun len fits => ?_⟩, fun s x notReady => ?_⟩
  · obtain ⟨-, canonical, -, -⟩ := memory_wf_iff.1 wf
    have run : exec (.transomTransaction ⟨a, bs.length, some bs⟩) s = .next _ :=
      congrArg Host.Outcome.next (transomTransaction_write ready opened a bs.length bs)
    refine ⟨_, run, ?_, rfl, fun i inside => windowWrite_inside s bs canonical fits inside, fun x outside => windowWrite_outside s bs fits outside⟩
    rw [windowWrite_transom]
  · have run : exec (.transomTransaction ⟨a, len, none⟩) s = .next _ :=
      congrArg Host.Outcome.next (transomTransaction_read ready opened a len)
    exact ⟨_, run, rfl, rfl, windowRead_length s a len, fun i inside => windowRead_getD s fits inside⟩
  · exact congrArg Host.Outcome.next (transomTransaction_notReady x notReady)

/-! ### Windows that meet the hypotheses -/

/-- The powered machine with a Transom module trained. -/
def transomReady : State := { poweredUp with sys := { poweredUp.sys with d2dTrained := 1, d2dReady := true }, transom := [(7, 9)] }

/-- O28's hypotheses are met: two bytes are written below one that stands, and the three read back. -/
theorem transomReady_writesAndReads :
    (∃ t, exec (.transomTransaction ⟨5, 2, some [1, 2]⟩) transomReady = .next t ∧ Sparse.get 0 t.transom 6 = 2 ∧ Sparse.get 0 t.transom 7 = 9) ∧
      ∃ t, exec (.transomTransaction ⟨7, 1, none⟩) transomReady = .next t ∧ t.out.bytes.getD 0 0 = 9 := by
  obtain ⟨writes, reads⟩ := transomTransactions.1 transomReady 5 (by decide +kernel) rfl (by decide +kernel)
  obtain ⟨t, wrote, -, -, inside, outside⟩ := writes [1, 2] (by decide)
  obtain ⟨u, read, -, -, -, bytes⟩ := (transomTransactions.1 transomReady 7 (by decide +kernel) rfl (by decide +kernel)).2 1 (by decide)
  exact ⟨⟨t, wrote, inside 1 (by decide), outside 7 (by decide)⟩, u, read, bytes 0 (by decide)⟩

/-- Before READY the same write is turned away. -/
theorem transomNotReady_answers :
    exec (.transomTransaction ⟨5, 2, some [1, 2]⟩) poweredUp = .next { poweredUp with out := { poweredUp.out with answer := 3, bytes := [] } } :=
  transomTransactions.2 poweredUp _ rfl

end Sys2Proof.Machine
end

section
/-! Resets of the device core and its way back (R405, R440, R443, R444): what PERST_ASSERT leaves in the register images, what a power-up without a mismatch changes, and O23. -/
namespace Sys2Proof.Machine

/-! ### Register images -/

/-- Entries chosen by their keys: a chosen key reads as before, every other one reads as an unlisted key. -/
theorem Sparse.get_filter_keys {α : Type} (d : α) (l : List (Nat × α)) (p : Nat → Bool) (k : Nat) :
    Sparse.get d (l.filter fun e => p e.1) k = if p k then Sparse.get d l k else d := by
  induction l with
  | nil => simp [Sparse.get]
  | cons e l ih =>
    obtain ⟨a, v⟩ := e
    by_cases same : k = a
    · subst same
      by_cases chosen : p k = true
      · simp [chosen, Sparse.get]
      · simpa [chosen] using ih
    · by_cases chosen : p a = true
      · simpa [chosen, Sparse.get, same] using ih
      · simpa [chosen, Sparse.get, same] using ih

/-- The image that a reset of the core leaves: PWR registers stand, every other reads its reset value (R405). -/
theorem regGet_keepPwr (m : RegMap) (off : Nat) : regGet (keepPwr m) off = if off / 0x10000 = 2 then regGet m off else resetValue off := by
  simpa [regGet, keepPwr] using Sparse.get_filter_keys (resetValue off) m (fun a => a / 0x10000 == 2) off

/-! ### PERST_ASSERT -/

/-- With power up and both resets deasserted, the core and the mailbox are reset and the cause is PERST_N's. -/
theorem perstAssert_powered {s : State} (perst : s.sys.perst = false) (porst : s.sys.porst = false) (rails : s.sys.rails = true) :
    perstAssert s = endMailbox (coreReset (recordCause { s with sys := { s.sys with perst := true } } 2)) := by
  simp [perstAssert, perst, porst, rails]

/-! ### Power-up -/

/-- A fold whose every step changes the sluices alone changes the sluices alone. -/
theorem foldl_ports {α : Type} {f : State → α → State} (only : ∀ s a, f s a = { s with ports := (f s a).ports }) (l : List α) (s : State) :
    l.foldl f s = { s with ports := (l.foldl f s).ports } := by
  induction l generalizing s with
  | nil => rfl
  | cons a l ih =>
    rw [List.foldl_cons, ih, only]

/-- The optical bus comes up; beside it only the sluices' engines change. -/
theorem bootEngines_ports (s : State) (env : BootEnv) :
    bootEngines s env = { s with ports := (bootEngines s env).ports, sys := { s.sys with optUp := true } } := by
  refine foldl_ports (fun t e => ?_) env.engines { s with sys := { s.sys with optUp := true } }
  split <;> rfl

/-- A wipe without a mismatch opens every Shutter and logs nothing. -/
theorem bootWipe_clean {s : State} {env : BootEnv} (clean : env.wipeMismatch = []) (top : Nat) :
    bootWipe s env top = { s with
      lcs := (bootWipe s env top).lcs, parts := s.parts.map fun p => { p with shutter := .open_, reason := .none } } := by
  unfold bootWipe
  rw [clean]
  rfl

/-- What steps 3 to 5 and 7 leave of a core that is ready in time, after a wipe without a mismatch. -/
theorem coreBoot_clean {s : State} {env : BootEnv} (clean : env.wipeMismatch = []) (perst : s.sys.perst = false) (inTime : env.coreReady = true) (top : Nat) :
    ∃ l ports, coreBoot s env top = coreReady { s with
      lcs := l, ports := ports, parts := s.parts.map fun p => { p with shutter := .open_, reason := .none },
      spares := (bootBasins s env).spares, sys := { s.sys with optUp := true, coreUp := true } } := by
  unfold coreBoot
  rw [bootEngines_ports, bootWipe_clean clean]
  simp only [bootBasins, perst, inTime]
  exact ⟨_, _, rfl⟩

/-! ### The statement -/

/-- PERST_ASSERT on a powered core (R405, R440, R443). -/
theorem exec_perstAssert {s : State} (perst : s.sys.perst = false) (porst : s.sys.porst = false) (rails : s.sys.rails = true) :
    exec .perstAssert s = .next (endMailbox (coreReset (recordCause { s with sys := { s.sys with perst := true } } 2))) :=
  congrArg Host.Outcome.next (perstAssert_powered perst porst rails)

section
variable {s : State} {env : BootEnv}

/-- While PORST_N is asserted only the level of PERST_N is taken. -/
theorem perstDeassert_porst (porst : s.sys.porst = true) : perstDeassert s env = { s with sys := { s.sys with perst := false } } :=
  if_pos (by simp [porst])

/-- A core that is up, and ready in time, becomes ready. -/
theorem perstDeassert_up (porst : s.sys.porst = false) (rails : s.sys.rails = true) (up : s.sys.coreUp = true) (inTime : env.coreReady = true) :
    perstDeassert s env = coreReady { s with sys := { s.sys with perst := false } } := by
  simp [perstDeassert, porst, rails, up, inTime]

/-- A core that was reset is brought up, its memories wiped up to class 7. -/
theorem perstDeassert_reset (porst : s.sys.porst = false) (rails : s.sys.rails = true) (down : s.sys.coreUp = false) :
    perstDeassert s env = coreBoot { s with sys := { s.sys with perst := false } } env 7 := by
  simp [perstDeassert, porst, rails, down]

end

/-- A core that was not ready trains its link as it becomes ready, where the crossing is out of reset (R441). -/
theorem coreReady_trains {s : State} (notReady : s.sys.ready = false) (crossing : .pcie ∉ s.sys.stalled) :
    coreReady s = { s with sys := { s.sys with ready := true, linkUp := true } } := by
  simp [coreReady, notReady, crossing]

/-- Settles O23: the assertion is the reset of the core and of the mailbox; the deassertion brings up what was reset, and readies the core. -/
theorem perstResetsAndReadiesTheCore : Obligations.PerstResetsAndReadiesTheCore := by
  refine ⟨fun s perst porst rails => ?_, fun s env => ⟨fun porst => ?_, fun porst rails up notReady inTime crossing => ?_,
    fun porst rails down notReady clean inTime crossing => ?_⟩⟩
  · have image (off : Nat) : regGet (keepPwr s.cfg.committed) off = if off / 0x10000 = 2 then regGet s.cfg.committed off else resetValue off :=
      regGet_keepPwr s.cfg.committed off
    refine ⟨_, exec_perstAssert perst porst rails, rfl, rfl, rails, rfl, rfl, rfl, rfl, rfl, fun off pwr => ?_, fun off other => ?_⟩
    · have stands := (image off).trans (if_pos pwr)
      exact ⟨stands, stands⟩
    · have returns := (image off).trans (if_neg other)
      exact ⟨returns, returns⟩
  · exact congrArg Host.Outcome.next (perstDeassert_porst porst)
  · refine ⟨_, congrArg Host.Outcome.next (perstDeassert_up porst rails up inTime), ?_⟩
    exact coreReady_trains notReady crossing
  · obtain ⟨l, ports, boots⟩ := coreBoot_clean (s := { s with sys := { s.sys with perst := false } }) clean rfl inTime 7
    have run : perstDeassert s env = _ := (perstDeassert_reset porst rails down).trans (boots.trans (coreReady_trains notReady crossing))
    refine ⟨_, congrArg Host.Outcome.next run, rfl, rfl, rfl, rfl, rfl, fun n => ?_, rfl, rfl⟩
    simp [State.part]

/-! ### Cores that meet the hypotheses -/

/-- The powered machine with its rails and its core up, with PWR_CAP at 800 W and D2D_CTL with one module enabled committed. -/
def coreRuns : State :=
  { poweredUp with
    sys := { poweredUp.sys with perst := false, rails := true, coreUp := true },
    cfg := { Cfg.reset with committed := [(0x20004, 0xA0320), (0x40000, 1)] } }

/-- What the power-up of a core finds where nothing is wrong. -/
def cleanBoot : BootEnv :=
  { powerSerial := 0, mgtClk := true, hot := false, railsUp := true, enabled := 120, spareBasins := 0, basinMap := [], bankMap := [],
    engines := [(3, 5)], wipeMismatch := [], coreReady := true }

/-- O23's hypotheses are met by a running core: PWR_CAP stands and comes into force, D2D_CTL is at its reset value. -/
theorem coreRuns_resets :
    ∃ t, exec .perstAssert coreRuns = .next t ∧ t.sys.coreUp = false ∧ t.force 0x20004 = 0xA0320 ∧ t.force 0x40000 = 0xFFFF := by
  obtain ⟨t, run, -, -, -, down, -, -, -, -, pwr, others⟩ := perstResetsAndReadiesTheCore.1 coreRuns rfl rfl rfl
  exact ⟨t, run, down, (pwr 0x20004 rfl).2, (others 0x40000 (by decide)).2⟩

/-- O23's hypotheses are met by that core as its reset ends: it comes up with the basins of its self-test. -/
theorem coreRuns_returns :
    ∃ t, exec (.perstDeassert cleanBoot) (coreReset coreRuns) = .next t ∧ t.sys.ready = true ∧ t.spares.enabled = 120 ∧ (t.part 5).shutter = .open_ := by
  obtain ⟨t, run, -, ready, -, -, basins, shutters, -, -⟩ :=
    (perstResetsAndReadiesTheCore.2 (coreReset coreRuns) cleanBoot).2.2 rfl rfl rfl rfl rfl rfl (by decide)
  exact ⟨t, run, ready, basins, shutters 5⟩

/-- And by a core that came up before PERST_N did: it becomes ready. -/
theorem coreUp_becomesReady :
    ∃ t, exec (.perstDeassert cleanBoot) { coreRuns with sys := { coreRuns.sys with perst := true, ready := false, linkUp := false } } = .next t ∧
      t.sys.ready = true ∧ t.sys.linkUp = true := by
  obtain ⟨t, run, ready⟩ := (perstResetsAndReadiesTheCore.2
    { coreRuns with sys := { coreRuns.sys with perst := true, ready := false, linkUp := false } } cleanBoot).2.1 rfl rfl rfl rfl rfl (by decide)
  exact ⟨t, run, by rw [ready], by rw [ready]⟩

end Sys2Proof.Machine
end

section
/-! The mailbox (R453, R454, R461, R470): what a write of MBX_CMD does, the commands that end at once, those that are turned away, and O17 and O18. -/
namespace Sys2Proof.Machine

/-! ### A write of MBX_CMD -/

/-- The rows that write MBX_CMD. -/
def commandRows (src : Src) (cmd : Word) : List Instr :=
  [.mbxNop src cmd, .mbxAbort src cmd, .snapInfo src cmd, .snapRead src cmd, .snapRequest src cmd, .ageLog src cmd, .faultRecord src cmd,
    .fwUpdate src cmd, .fwActivate src cmd, .lcsToken src cmd]

/-- The next state of a served access: its sender is told where it is the management port (R451). -/
def answered (src : Src) (s : State) : State := { s with out := { s.out with answer := if src = .port then 2 else s.out.answer } }

/-- The mailbox as a command takes it (R453, R470). -/
def mbxTaken (s : State) (src : Src) (cmd : Word) : State :=
  { s with mbx := { s.mbx with cmd := cmd, source := srcBit src, result := 0, words := 0, buf := [], st := .busy } }

section
variable {s : State} {src : Src} {cmd : Word}

/-- Each of these rows is a write of its word to MBX_CMD. -/
theorem exec_commandRow {c : Instr} (row : c ∈ commandRows src cmd) (may : mayServe s src = true) :
    exec c s = .next (answered src (writeCommand s src cmd)) := by
  have run : exec c s = .next (served s src fun s => writeCommand s src cmd) := by
    simp only [commandRows, List.mem_cons, List.not_mem_nil, or_false] at row
    rcases row with rfl | rfl | rfl | rfl | rfl | rfl | rfl | rfl | rfl | rfl <;> rfl
  rw [run, served_of_mayServe _ may]
  rfl

theorem writeCommand_starts (free : mbxRunning s = false) (fits : cmd.toNat / 2 ^ 13 = 0) :
    writeCommand s src cmd = startCommand (mbxTaken s src cmd) := by
  simp only [writeCommand, free, fits, mbxTaken, Bool.false_and, Bool.false_eq_true, ne_eq, not_true_eq_false, if_false]

/-- The other source's command is turned away with MBX_BUSY, the owner's with MBX_STATE unless it is ABORT. -/
theorem writeCommand_running (running : mbxRunning s = true) (fits : cmd.toNat / 2 ^ 13 = 0) (notAbort : wbits cmd 7 0 ≠ 0x01) :
    writeCommand s src cmd = mbxError s src (if s.mbx.source = srcBit src then errMbxState else errMbxBusy) 0xB0000 := by
  by_cases own : s.mbx.source = srcBit src
  · simp only [writeCommand, running, own, fits, notAbort, bne_self_eq_false, Bool.and_false, Bool.false_eq_true, ne_eq, not_true_eq_false,
      if_false, if_true]
  · simp [writeCommand, running, own]

theorem writeCommand_aborts (running : mbxRunning s = true) (own : s.mbx.source = srcBit src) (fits : cmd.toNat / 2 ^ 13 = 0)
    (abort : wbits cmd 7 0 = 0x01) :
    writeCommand s src cmd = { abortCommand s with mbx := { (abortCommand s).mbx with cmd := cmd } } := by
  simp only [writeCommand, running, own, fits, abort, bne_self_eq_false, Bool.and_false, Bool.false_eq_true, ne_eq, not_true_eq_false,
    if_false, if_true]

/-- What MBX_ERROR takes of a rejection (R470). -/
theorem mbxError_eq (src : Src) {code off : Nat} (short : code < 256) (inside : off < 2 ^ 20) :
    mbxError s src code off = { s with mbx := { s.mbx with
      error := BitVec.ofNat 32 (code + off * 256 + (if srcBit src then 2 ^ 28 else 0) + 2 ^ 31) } } := by
  simp only [mbxError, Nat.mod_eq_of_lt short, Nat.mod_eq_of_lt inside]

/-- Without a read to end, a command that ends changes MBX_STATUS and its buffer alone. -/
theorem mbxEnd_notRead (reads : s.mbx.st ≠ .read) (st : MbxSt) (result : Nat) :
    mbxEnd s st result = { s with mbx := { s.mbx with st := st, result := result, words := 0, buf := [] } } := by
  simp [mbxEnd, releaseSlot, reads]

/-- A command that ends releases at most the slot that it was reading. -/
theorem mbxEnd_slots (s : State) (st : MbxSt) (result : Nat) :
    mbxEnd s st result = { s with
      slots := (mbxEnd s st result).slots, mbx := { s.mbx with st := st, result := result, words := 0, buf := [] } } := by
  simp only [mbxEnd, releaseSlot]
  split <;> rfl

/-- A command that ends as it starts, by a row that writes MBX_CMD. -/
theorem exec_endsAtOnce {c : Instr} {st : MbxSt} {result : Nat} (row : c ∈ commandRows src cmd) (may : mayServe s src = true)
    (free : mbxRunning s = false) (fits : cmd.toNat / 2 ^ 13 = 0)
    (ends : startCommand (mbxTaken s src cmd) = mbxEnd (mbxTaken s src cmd) st result) :
    ∃ t, exec c s = .next t ∧ mailboxOnly s t ∧ t.mbx = { s.mbx with
      cmd := cmd, st := st, source := srcBit src, result := result, words := 0, buf := [] } := by
  have notRead : (mbxTaken s src cmd).mbx.st ≠ .read := MbxSt.noConfusion
  refine ⟨_, exec_commandRow row may, ?_⟩
  rw [writeCommand_starts free fits, ends, mbxEnd_notRead notRead]
  exact ⟨rfl, rfl⟩

end

/-! ### Starts by opcode -/

/-- The opcodes that the boot ROM knows (R461). -/
theorem startCommand_unknown {s : State} (recovery : s.lcs.recovery = true) (unknown : mbxOp s ∉ [0x00, 0x01, 0x30, 0x31]) :
    startCommand s = mbxEnd s .error 1 := by
  simp only [startCommand, recovery, Bool.true_and, Bool.not_eq_true', List.contains_eq_mem]
  exact if_pos (decide_eq_false unknown)

/-- NOP, and ABORT with nothing to abort, end at once; so they do in recovery mode. -/
theorem startCommand_nop {s : State} (op : mbxOp s = 0x00 ∨ mbxOp s = 0x01) : startCommand s = mbxEnd s .done 0 := by
  rcases op with op | op <;> simp [startCommand, op]

/-! ### O17 and O18 -/

/-- Settles O17: both commands end as they start; ABORT of a running command ends that one. -/
theorem mailboxNopAndAbort : Obligations.MailboxNopAndAbort := by
  refine ⟨fun s src cmd may free fits => ⟨fun op => ?_, fun op => ?_⟩, fun s src cmd may running own abort notSnapshot => ?_⟩
  · exact exec_endsAtOnce (by simp [commandRows]) may free fits (startCommand_nop (.inl op))
  · exact exec_endsAtOnce (by simp [commandRows]) may free fits (startCommand_nop (.inr op))
  · have op : wbits cmd 7 0 = 0x01 := by simp [wbits, bits, abort]
    have aborts : abortCommand s = mbxEnd s .error 6 := by simp [abortCommand, notSnapshot]
    refine ⟨_, exec_commandRow (src := src) (cmd := cmd) (by simp [commandRows]) may, ?_⟩
    rw [writeCommand_aborts running own (by simp [abort]) op, aborts, mbxEnd_slots]
    exact ⟨rfl, rfl⟩

/-- Settles O18: a running command turns others away, and the boot ROM all that it does not know. -/
theorem mailboxRejections : Obligations.MailboxRejections := by
  refine ⟨fun s src cmd c may running fits row notAbort => ?_, fun s src cmd c may free fits recovery unknown row => ?_⟩
  · have rows : c ∈ commandRows src cmd := ((List.sublist_cons_self _ _).cons_cons _).subset row
    refine ⟨_, exec_commandRow rows may, ?_⟩
    rw [writeCommand_running running fits notAbort]
    rw [mbxError_eq src (by split <;> decide) (by decide)]
    refine ⟨rfl, ?_⟩
    split <;> rfl
  · have rows : c ∈ commandRows src cmd := by
      simp only [List.mem_cons, List.not_mem_nil, or_false] at row
      rcases row with rfl | rfl | rfl | rfl | rfl | rfl <;> simp only [commandRows, List.mem_cons, true_or, or_true]
    exact exec_endsAtOnce rows may free fits (startCommand_unknown recovery unknown)

/-! ### Mailboxes that meet the hypotheses -/

/-- The powered machine with a FW_UPDATE of the host running, one word taken. -/
def updateRuns : State := { poweredUp with mbx := { Mbx.reset with cmd := 0x30, arg := 40, st := .write, words := 39, buf := [7] } }

/-- O17's hypotheses are met: NOP ends DONE on the free mailbox, and ABORT ends the running FW_UPDATE. -/
theorem mailbox_endsCommands :
    (∃ t, exec (.mbxNop .port 0) poweredUp = .next t ∧ t.mbx.st = .done) ∧
      ∃ t, exec (.mbxAbort .host 1) updateRuns = .next t ∧ t.mbx.st = .error ∧ t.mbx.result = 6 ∧ t.mbx.buf = [] := by
  obtain ⟨t, nop, -, ended⟩ := (mailboxNopAndAbort.1 poweredUp .port 0 rfl rfl rfl).1 rfl
  obtain ⟨u, abort, -, aborted⟩ := mailboxNopAndAbort.2 updateRuns .host 1 rfl rfl rfl rfl (by decide)
  exact ⟨⟨t, nop, by rw [ended]⟩, u, abort, by rw [aborted], by rw [aborted], by rw [aborted]⟩

/-- O18's hypotheses are met: the running FW_UPDATE turns the port's AGE_LOG away, and so does a controller in recovery mode. -/
theorem mailbox_rejects :
    (∃ t, exec (.ageLog .port 0x20) updateRuns = .next t ∧ t.mbx.st = .write ∧ t.mbx.error = 0x9B000009) ∧
      ∃ t, exec (.ageLog .port 0x20) { poweredUp with lcs := { Lcs.reset with recovery := true } } = .next t ∧ t.mbx.st = .error ∧ t.mbx.result = 1 := by
  obtain ⟨t, busy, -, told⟩ := mailboxRejections.1 updateRuns .port 0x20 (.ageLog .port 0x20) rfl rfl rfl (by simp) (by decide)
  obtain ⟨u, unknown, -, ended⟩ := mailboxRejections.2 { poweredUp with lcs := { Lcs.reset with recovery := true } } .port 0x20 (.ageLog .port 0x20)
    rfl rfl rfl rfl (by decide) (by simp)
  exact ⟨⟨t, busy, by rw [told]; rfl, by rw [told]; rfl⟩, u, unknown, by rw [ended], by rw [ended]⟩

end Sys2Proof.Machine
end

section
/-! The commands of the mailbox that deliver words (R455, R458, R459), and O19. -/
namespace Sys2Proof.Machine

/-! ### Starts by opcode -/

section
variable {s : State} (known : s.lcs.recovery = false)
include known

theorem startCommand_snapInfo (op : mbxOp s = 0x10) : startCommand s = runSnapInfo s := by simp [startCommand, known, op]
theorem startCommand_snapRead (op : mbxOp s = 0x11) : startCommand s = runSnapRead s := by simp [startCommand, known, op]
theorem startCommand_snapRequest (op : mbxOp s = 0x12) : startCommand s = runSnapRequest s := by simp [startCommand, known, op]
theorem startCommand_ageLog (op : mbxOp s = 0x20) : startCommand s = runAgeLog s := by simp [startCommand, known, op]
theorem startCommand_faultRecord (op : mbxOp s = 0x21) : startCommand s = runFaultRecord s := by simp [startCommand, known, op]

end

/-- A row that writes MBX_CMD on a free mailbox starts its command. -/
theorem exec_commandRow_starts {s : State} {src : Src} {cmd : Word} {c : Instr} (row : c ∈ commandRows src cmd) (may : mayServe s src = true)
    (free : mbxRunning s = false) (fits : cmd.toNat / 2 ^ 13 = 0) {t : State} (starts : startCommand (mbxTaken s src cmd) = t) :
    exec c s = .next (answered src t) := by
  rw [exec_commandRow row may, writeCommand_starts free fits, starts]

/-! ### Snapshots -/

/-- SNAP_INFO of a partition with a plan. -/
theorem runSnapInfo_plan {s : State} (plan : (s.part (mbxPart s)).plan.isSome = true) :
    runSnapInfo s = mbxGive s (((List.range 4).map fun i => s.slots[mbxPart s].1.words.getD i 0) ++
      (List.range 4).map fun i => s.slots[mbxPart s].2.words.getD i 0) :=
  if_pos plan

theorem runSnapInfo_noPlan {s : State} (plan : ¬ (s.part (mbxPart s)).plan.isSome = true) : runSnapInfo s = mbxEnd s .error 5 :=
  if_neg plan

@[simp] theorem getSlot_putSlot (x : Slot × Slot) (b : Bool) (v : Slot) : getSlot (putSlot x b v) b = v := by cases b <;> rfl

/-- The words of a slot are delivered, and it is in use until they have been read (R458). -/
def slotRead (s : State) (n : Fin 16) (b : Bool) : State :=
  mbxGive (s.modSlots n fun y => putSlot y b { getSlot s.slots[n] b with inUse := true }) (getSlot s.slots[n] b).words

theorem slotRead_inUse (s : State) (n : Fin 16) (b : Bool) : (getSlot (slotRead s n b).slots[n] b).inUse = true := by
  simp [slotRead, mbxGive, State.modSlots]

theorem slotRead_other (s : State) {n m : Fin 16} (b : Bool) (other : m ≠ n) : (slotRead s n b).slots[m] = s.slots[m] := by
  simp only [slotRead, mbxGive, State.modSlots, Fin.getElem_fin]
  exact Vector.getElem_set_ne _ _ fun same => other (Fin.ext same.symm)

theorem runSnapRead_valid {s : State} (plan : (s.part (mbxPart s)).plan.isSome = true)
    (valid : (getSlot s.slots[mbxPart s] (mbxSlot s)).valid = true) : runSnapRead s = slotRead s (mbxPart s) (mbxSlot s) :=
  if_pos (Bool.and_eq_true_iff.2 ⟨plan, valid⟩)

/-- The command waits for the gate of partition n, which owes it a snapshot (R31). -/
def awaitsGate (s : State) (n : Fin 16) : State := { s with mbx := { s.mbx with st := .busy } }.modPart n fun p => { p with snapPending := true }

theorem awaitsGate_part (s : State) (n : Fin 16) : (awaitsGate s n).part n = { s.part n with snapPending := true } := by
  rw [awaitsGate, State.part_modPart_same]
  rfl

theorem awaitsGate_other (s : State) {n m : Fin 16} (other : m ≠ n) : (awaitsGate s n).part m = s.part m :=
  State.part_modPart_other { s with mbx := { s.mbx with st := .busy } } _ other

section
variable {s : State} (plan : (s.part (mbxPart s)).plan.isSome = true)
include plan

/-- SNAP_REQUEST behind a Shutter that is not OPEN leaves the last image. -/
theorem runSnapRequest_shut (shut : (s.part (mbxPart s)).shutter ≠ .open_) : runSnapRequest s = mbxEnd s .done 0 := by
  simp [runSnapRequest, hasPlan, plan, shut]

/-- SNAP_REQUEST in an open step waits for the step's gate (R31). -/
theorem runSnapRequest_waits (opened : (s.part (mbxPart s)).shutter = .open_) (step : (s.part (mbxPart s)).openStep.isSome = true) :
    runSnapRequest s = awaitsGate s (mbxPart s) := by
  have notIdle : idle (awaitsGate s (mbxPart s)) (mbxPart s) = false := by
    rw [idle, awaitsGate_part]
    exact Bool.and_eq_false_imp.2 fun noStep => by simp_all
  simp only [awaitsGate] at notIdle
  simp [runSnapRequest, hasPlan, plan, opened, gateIfIdle, bumpIf, notIdle, awaitsGate]

end

/-! ### Logs -/

@[simp] theorem wordsLE_length (k x : Nat) : (wordsLE k x).length = k := by
  induction k generalizing x with
  | zero => rfl
  | succ k ih => exact congrArg (· + 1) (ih _)

/-- Words that the manual leaves open count as many draws, and change nothing else. -/
theorem openWords_draws (k : Nat) (s : State) : (openWords k s).2 = { s with draws := (openWords k s).2.draws } := by
  induction k generalizing s with
  | zero => rfl
  | succ k ih => exact ih s.draw.2

theorem openWords_length (k : Nat) (s : State) : (openWords k s).1.length = k := by
  induction k generalizing s with
  | zero => rfl
  | succ k ih => exact congrArg (· + 1) (ih s.draw.2)

/-- AGE_LOG has 72 words, the last 64 of them one a sentinel (R459). -/
theorem ageWords_length (s : State) : (ageWords s).length = 72 := by simp [ageWords]

theorem ageWords_sentinel (s : State) {i : Nat} (inside : i < 64) :
    (ageWords s).getD (8 + i) 0 = BitVec.ofNat 32 (Sparse.get 0 s.power.sentinels i % 2 ^ 16 + Config.sentinelBasin i % 128 * 2 ^ 16) := by
  rw [ageWords, List.getD_eq_getElem?_getD, List.getElem?_append_right (Nat.le_add_right 8 i)]
  have later : 8 + i - 8 = i := Nat.add_sub_cancel_left 8 i
  simp [inside, later]

theorem recordWords_length (s : State) : (recordWords s).length = 256 := by
  rw [recordWords, List.length_flatMap]
  simp only [wordsLE_length]
  rfl

/-- FAULT_RECORD delivers its open header and the records. -/
theorem runFaultRecord_eq (s : State) :
    runFaultRecord s = mbxGive { s with draws := (openWords 8 s).2.draws } ((openWords 8 s).1 ++ recordWords s) := by
  rw [runFaultRecord, ← openWords_draws]

/-! ### O19 -/

/-- Settles O19: each command by what its start does. -/
theorem snapshotsAndLogsAreDelivered : Obligations.SnapshotsAndLogsAreDelivered := by
  refine ⟨fun s src cmd may free fits op known => ?_, fun s src cmd may free fits op known plan valid => ?_,
    fun s src cmd may free fits op known plan => ?_, fun s src cmd may free fits known => ⟨fun op => ?_, fun op => ?_⟩⟩
  · by_cases plan : (s.part (fin16 (wbits cmd 11 8))).plan.isSome = true
    · refine ⟨_, exec_commandRow_starts (by simp [commandRows]) may free fits
        ((startCommand_snapInfo (s := mbxTaken s src cmd) known op).trans (runSnapInfo_plan plan)), rfl, ?_⟩
      exact (if_pos plan).symm
    · refine ⟨_, exec_commandRow_starts (by simp [commandRows]) may free fits
        ((startCommand_snapInfo (s := mbxTaken s src cmd) known op).trans (runSnapInfo_noPlan plan)), rfl, ?_⟩
      exact (if_neg plan).symm
  · refine ⟨_, exec_commandRow_starts (by simp [commandRows]) may free fits
      ((startCommand_snapRead (s := mbxTaken s src cmd) known op).trans (runSnapRead_valid plan valid)), rfl, rfl, ?_, fun m other => ?_⟩
    · exact slotRead_inUse (mbxTaken s src cmd) _ _
    · exact slotRead_other (mbxTaken s src cmd) _ other
  · have starts := startCommand_snapRequest (s := mbxTaken s src cmd) known op
    by_cases opened : (s.part (fin16 (wbits cmd 11 8))).shutter = .open_
    · by_cases step : (s.part (fin16 (wbits cmd 11 8))).openStep.isSome = true
      · refine ⟨_, exec_commandRow_starts (by simp [commandRows]) may free fits (starts.trans (runSnapRequest_waits plan opened step)),
          fun shut => absurd opened shut, fun _ _ => ⟨rfl, rfl, fun m other => ?_, ?_⟩⟩
        · exact awaitsGate_other (mbxTaken s src cmd) other
        · exact awaitsGate_part (mbxTaken s src cmd) _
      · exact ⟨_, exec_commandRow_starts (by simp [commandRows]) may free fits starts, fun shut => absurd opened shut, fun _ inStep => absurd inStep step⟩
    · exact ⟨_, exec_commandRow_starts (by simp [commandRows]) may free fits (starts.trans (runSnapRequest_shut plan opened)),
          fun _ => ⟨rfl, rfl, rfl⟩, fun shut => absurd shut opened⟩
  · refine ⟨_, exec_commandRow_starts (by simp [commandRows]) may free fits (startCommand_ageLog (s := mbxTaken s src cmd) known op), rfl, rfl, ?_, ?_,
      fun i inside => ageWords_sentinel s inside⟩
    · exact ageWords_length s
    · exact ageWords_length s
  · refine ⟨_, exec_commandRow_starts (by simp [commandRows]) may free fits
      ((startCommand_faultRecord (s := mbxTaken s src cmd) known op).trans (runFaultRecord_eq _)), rfl, rfl, ?_, ?_⟩
    · exact (List.length_append ..).trans (by rw [openWords_length, recordWords_length])
    · exact List.drop_left' (openWords_length 8 _)

/-! ### Partitions that meet the hypotheses -/

/-- The powered machine with a plan, an open step and one valid snapshot on partition 3. -/
def snapshotKept : State :=
  { poweredUp with slots := poweredUp.slots.set 3 (⟨true, 1, [5, 6], false⟩, Slot.empty) }.modPart 3 fun p =>
    { p with plan := some heldGemmPlan, openStep := some 2 }

/-- O19's hypotheses are met: the snapshot is listed and read, and a new one waits for the gate; without a plan there is none. -/
theorem snapshotKept_delivers :
    (∃ t, exec (.snapInfo .host 0x310) snapshotKept = .next t ∧ t.mbx.buf = [5, 6, 0, 0, 0, 0, 0, 0]) ∧
      (∃ t, exec (.snapRead .host 0x311) snapshotKept = .next t ∧ t.mbx.buf = [5, 6]) ∧
      (∃ t, exec (.snapRequest .host 0x312) snapshotKept = .next t ∧ t.mbx.st = .busy) ∧
      (∃ t, exec (.snapInfo .host 0x410) snapshotKept = .next t ∧ t.mbx.result = 5) := by
  obtain ⟨infos, reads, requests, -⟩ := snapshotsAndLogsAreDelivered
  obtain ⟨t, info, -, listed⟩ := infos snapshotKept .host 0x310 rfl rfl rfl rfl rfl
  obtain ⟨u, read, -, delivered, -⟩ := reads snapshotKept .host 0x311 rfl rfl rfl rfl rfl rfl rfl
  obtain ⟨v, request, -, waits⟩ := requests snapshotKept .host 0x312 rfl rfl rfl rfl rfl rfl
  obtain ⟨-, busy, -⟩ := waits rfl rfl
  obtain ⟨w, none, -, noData⟩ := infos snapshotKept .host 0x410 rfl rfl rfl rfl rfl
  exact ⟨⟨t, info, by rw [listed]; rfl⟩, ⟨u, read, by rw [delivered]; rfl⟩, ⟨v, request, busy⟩, w, none, by rw [noData]; rfl⟩

/-- Both logs are delivered by the powered machine. -/
theorem poweredUp_deliversLogs :
    (∃ t, exec (.ageLog .port 0x20) poweredUp = .next t ∧ t.mbx.words = 72) ∧
      ∃ t, exec (.faultRecord .port 0x21) poweredUp = .next t ∧ t.mbx.words = 264 := by
  obtain ⟨-, -, -, logs⟩ := snapshotsAndLogsAreDelivered
  obtain ⟨t, age, -, -, words, -⟩ := (logs poweredUp .port 0x20 rfl rfl rfl rfl).1 rfl
  obtain ⟨u, record, -, -, count, -⟩ := (logs poweredUp .port 0x21 rfl rfl rfl rfl).2 rfl
  exact ⟨⟨t, age, words⟩, u, record, count⟩

end Sys2Proof.Machine
end

section
/-! Firmware through the mailbox (R461), the words of MBX_DATA (R454, R455, R464), and O20 and O21. -/
namespace Sys2Proof.Machine

/-! ### Firmware banks -/

theorem startCommand_fwUpdate {s : State} (op : mbxOp s = 0x30) : startCommand s = runFwUpdate s := by simp [startCommand, op]
theorem startCommand_fwActivate {s : State} (op : mbxOp s = 0x31) : startCommand s = runFwActivate s := by simp [startCommand, op]

@[simp] theorem bankOf_setBank_same (l : Lcs) (b : Bool) (ws : List Word) : bankOf (setBank l b ws) b = ws := by cases b <;> rfl
@[simp] theorem bankOf_setBank_other (l : Lcs) (b : Bool) (ws : List Word) : bankOf (setBank l (!b) ws) b = bankOf l b := by cases b <;> rfl
@[simp] theorem setBank_active (l : Lcs) (b : Bool) (ws : List Word) : (setBank l b ws).active = l.active := by cases b <;> rfl
@[simp] theorem setBank_svnMin (l : Lcs) (b : Bool) (ws : List Word) : (setBank l b ws).svnMin = l.svnMin := by cases b <;> rfl
@[simp] theorem bankOf_noteOther (l : Lcs) (b : Bool) : bankOf (noteOther l) b = bankOf l b := rfl

/-- FW_UPDATE with a length that R461 allows empties the inactive bank. -/
theorem runFwUpdate_takes {s : State} (least : 40 ≤ s.mbx.arg.toNat) (most : s.mbx.arg.toNat ≤ 262128) :
    runFwUpdate s = mbxTake { s with lcs := noteOther (setBank s.lcs (!s.lcs.active) []) } s.mbx.arg.toNat :=
  if_neg (by omega)

section
variable {s : State} (bank : s.mbx.arg.toNat < 2)
include bank

/-- FW_ACTIVATE of a bank that passes its check, without a restart. -/
theorem runFwActivate_passes (passes : bankPasses s.lcs.svnMin (bankOf s.lcs (s.mbx.arg.getLsbD 0)) = true) :
    runFwActivate s = mbxEnd { s with lcs := noteOther { s.lcs with
      active := s.mbx.arg.getLsbD 0, svnMin := max s.lcs.svnMin (word (bankOf s.lcs (s.mbx.arg.getLsbD 0)) 2) } } .done 0 := by
  have stays : s.mbx.arg.getLsbD 1 = false := by
    rw [BitVec.getLsbD, Nat.testBit_lt_two_pow bank]
  exact (if_neg (by omega)).trans ((if_neg (by simpa using passes)).trans (if_neg (by simp only [stays, Bool.false_eq_true, not_false_eq_true])))

theorem runFwActivate_fails (fails : ¬ bankPasses s.lcs.svnMin (bankOf s.lcs (s.mbx.arg.getLsbD 0)) = true) :
    runFwActivate s = mbxEnd s .error 3 := by
  exact (if_neg (by omega)).trans (if_pos (by simpa using fails))

end

/-- Settles O20: FW_UPDATE changes the inactive bank alone, and FW_ACTIVATE no bank. -/
theorem firmwareIsUpdatedAndActivated : Obligations.FirmwareIsUpdatedAndActivated := by
  refine ⟨fun s src cmd may free fits op least most => ?_, fun s src cmd may free fits op bank => ?_⟩
  · refine ⟨_, exec_commandRow_starts (by simp [commandRows]) may free fits
      ((startCommand_fwUpdate (s := mbxTaken s src cmd) op).trans (runFwUpdate_takes least most)), rfl, rfl, ?_⟩
    exact ⟨bankOf_setBank_same s.lcs _ [], bankOf_setBank_other s.lcs _ [], setBank_active s.lcs _ [], setBank_svnMin s.lcs _ []⟩
  · have starts := startCommand_fwActivate (s := mbxTaken s src cmd) op
    have notRead (l : Lcs) : ({ mbxTaken s src cmd with lcs := l } : State).mbx.st ≠ .read := MbxSt.noConfusion
    by_cases passes : bankPasses s.lcs.svnMin (bankOf s.lcs (s.mbx.arg.getLsbD 0)) = true
    · refine ⟨_, exec_commandRow_starts (by simp [commandRows]) may free fits
        (starts.trans ((runFwActivate_passes (s := mbxTaken s src cmd) bank passes).trans (mbxEnd_notRead (notRead _) .done 0))), rfl, ?_⟩
      rw [if_pos passes]
      exact ⟨rfl, rfl, rfl, rfl, rfl, rfl⟩
    · refine ⟨_, exec_commandRow_starts (by simp [commandRows]) may free fits
        (starts.trans ((runFwActivate_fails (s := mbxTaken s src cmd) bank passes).trans (mbxEnd_notRead (notRead s.lcs) .error 3))), rfl, ?_⟩
      rw [if_neg passes]
      exact ⟨rfl, rfl, rfl⟩

/-! ### MBX_DATA -/

theorem startCommand_lcsToken {s : State} (known : s.lcs.recovery = false) (op : mbxOp s = 0x40) : startCommand s = mbxTake s 44 := by
  simp [startCommand, known, op]

/-- A write of MBX_DATA by the owner of a command in state WRITE. -/
theorem exec_mbxDataWrite {s : State} {src : Src} (may : mayServe s src = true) (st : s.mbx.st = .write) (own : s.mbx.source = srcBit src)
    (w : Word) : exec (.mbxDataWrite src w) s = .next (answered src (appendWord s w)) := by
  have run : exec (.mbxDataWrite src w) s = .next (served s src fun s => writeData s src w) := rfl
  have takes : writeData s src w = appendWord s w := by simp [writeData, own, st]
  rw [run, served_of_mayServe _ may, takes]
  rfl

/-- The first word of a token says how long it is (R464). -/
theorem tokenLength_eq (w : Word) : tokenLength w - 1 = if w.toNat / 2 ^ 24 = 1 ∨ w.toNat / 2 ^ 24 = 2 then 67 else 43 := by
  have keyId : wbits w 31 24 = w.toNat / 2 ^ 24 := by
    rw [wbits, bits, Nat.shiftRight_eq_div_pow]
    exact Nat.mod_eq_of_lt (by omega)
  rw [tokenLength, keyId]
  split <;> rfl

theorem appendWord_tokenFirst {s : State} (op : mbxOp s = 0x40) (first : s.mbx.buf = []) (w : Word) :
    appendWord s w = { s with mbx := { s.mbx with
      words := if w.toNat / 2 ^ 24 = 1 ∨ w.toNat / 2 ^ 24 = 2 then 67 else 43, buf := [w] } } := by
  have total : (if mbxOp s = 0x40 ∧ s.mbx.buf = [] then tokenLength w else s.mbx.words) = tokenLength w := if_pos ⟨op, first⟩
  have more : tokenLength w - 1 ≠ 0 := by
    rw [tokenLength_eq]
    split <;> decide
  simp only [appendWord, total, if_pos more]
  rw [first, tokenLength_eq]
  rfl

/-- A word that is neither the first nor the last only joins the buffer. -/
theorem appendWord_joins {s : State} (more : 1 < s.mbx.words) (later : s.mbx.buf ≠ []) (w : Word) :
    appendWord s w = { s with mbx := { s.mbx with buf := s.mbx.buf ++ [w], words := s.mbx.words - 1 } } := by
  simp [appendWord, later, show s.mbx.words - 1 ≠ 0 by omega]

/-- A read in state READ gives the next word. -/
theorem readData_next {s : State} {w v : Word} {ws : List Word} (st : s.mbx.st = .read) (buf : s.mbx.buf = w :: v :: ws) :
    readData s = { s with out := { s.out with readData := w.setWidth 64 }, mbx := { s.mbx with buf := v :: ws, words := ws.length + 1 } } := by
  simp [readData, st, buf]

/-- The read of the last word ends the command. -/
theorem readData_last {s : State} {w : Word} (st : s.mbx.st = .read) (buf : s.mbx.buf = [w]) :
    readData s = mbxEnd { s with out := { s.out with readData := w.setWidth 64 } } .done 0 := by
  simp [readData, st, buf]

/-- In any other state a read gives zero. -/
theorem readData_zero {s : State} (none : ¬ (s.mbx.st = .read ∧ s.mbx.buf ≠ [])) :
    readData s = { s with out := { s.out with readData := 0 } } := by
  unfold readData
  split
  next st buf => exact absurd ⟨st, by simp [buf]⟩ none
  next => rfl

/-- A read changes the mailbox, what the sender gets, and at most the slot that it has read to its end. -/
theorem readData_frame (s : State) : readData s = { s with mbx := (readData s).mbx, out := (readData s).out, slots := (readData s).slots } := by
  match buf : s.mbx.buf with
  | [] => rw [readData_zero (by simp [buf])]
  | w :: ws =>
    by_cases st : s.mbx.st = .read
    · match ws with
      | [] => rw [readData_last st buf, mbxEnd_slots]
      | v :: ws => rw [readData_next st buf]
    · rw [readData_zero fun read => st read.1]

/-- Settles O21: the words of a token, of any command in state WRITE, and of one in state READ. -/
theorem mailboxDataMovesInOrder : Obligations.MailboxDataMovesInOrder := by
  refine ⟨fun s src cmd w may free fits op known => ?_, fun s src w may st own more later => ?_, fun s src may => ?_⟩
  · have taken := exec_commandRow_starts (c := .lcsToken src cmd) (by simp [commandRows]) may free fits
      (startCommand_lcsToken (s := mbxTaken s src cmd) known op)
    have wrote := exec_mbxDataWrite (s := answered src (mbxTake (mbxTaken s src cmd) 44)) (src := src) may rfl rfl w
    rw [appendWord_tokenFirst (s := answered src (mbxTake (mbxTaken s src cmd) 44)) op rfl] at wrote
    exact ⟨_, _, taken, rfl, rfl, wrote, rfl, rfl⟩
  · refine ⟨_, exec_mbxDataWrite may st own w, ?_⟩
    rw [appendWord_joins more later]
    exact ⟨rfl, rfl⟩
  · have run : exec (.mbxDataRead src) s = .next (answered src (readData s)) := congrArg Host.Outcome.next (served_of_mayServe readData may)
    refine ⟨_, run, ?_, fun w v ws st buf => ?_, fun w st buf => ?_, fun st => ?_⟩
    · rw [readData_frame]
      rfl
    · rw [readData_next st buf]
      exact ⟨rfl, rfl, rfl⟩
    · rw [readData_last st buf, mbxEnd_slots]
      exact ⟨rfl, rfl⟩
    · rw [readData_zero fun read => st read.1]
      exact ⟨rfl, rfl, rfl⟩

/-! ### Mailboxes that meet the hypotheses -/

/-- O20's hypotheses are met: FW_UPDATE takes its 40 words, and an empty bank is not activated. -/
theorem mailbox_takesFirmware :
    (∃ t, exec (.fwUpdate .port 0x30) { poweredUp with mbx := { Mbx.reset with arg := 40 } } = .next t ∧ t.mbx.st = .write ∧ t.mbx.words = 40) ∧
      ∃ t, exec (.fwActivate .port 0x31) { poweredUp with mbx := { Mbx.reset with arg := 1 } } = .next t ∧ t.mbx.result = 3 ∧ t.lcs = Lcs.reset := by
  obtain ⟨updates, activates⟩ := firmwareIsUpdatedAndActivated
  obtain ⟨t, update, -, takes, -⟩ := updates { poweredUp with mbx := { Mbx.reset with arg := 40 } } .port 0x30 rfl rfl rfl rfl (by decide) (by decide)
  obtain ⟨u, activate, -, fails⟩ := activates { poweredUp with mbx := { Mbx.reset with arg := 1 } } .port 0x31 rfl rfl rfl rfl (by decide)
  have empty : ¬ bankPasses 0 [] = true := by simp [bankPasses, word]
  obtain ⟨-, refused, fuses⟩ := Eq.mp (if_neg empty) fails
  exact ⟨⟨t, update, by rw [takes], by rw [takes]; rfl⟩, u, activate, refused, fuses⟩

/-- O21's hypotheses are met: a token of the owner takes 68 words, FW_UPDATE its second word, and a read the last of two. -/
theorem mailbox_movesWords :
    (∃ t u, exec (.lcsToken .port 0x40) poweredUp = .next t ∧ exec (.mbxDataWrite .port 0x1030401) t = .next u ∧ u.mbx.words = 67) ∧
      (∃ t, exec (.mbxDataWrite .host 8) updateRuns = .next t ∧ t.mbx.buf = [7, 8]) ∧
      ∃ t, exec (.mbxDataRead .port) { poweredUp with mbx := { Mbx.reset with st := .read, words := 1, buf := [9] } } = .next t ∧
        t.out.readData = 9 ∧ t.mbx.st = .done := by
  obtain ⟨tokens, writes, reads⟩ := mailboxDataMovesInOrder
  obtain ⟨t, u, starts, -, -, wrote, -, first⟩ := tokens poweredUp .port 0x40 0x1030401 rfl rfl rfl rfl rfl
  obtain ⟨v, write, -, joined⟩ := writes updateRuns .host 8 rfl rfl rfl (by decide) (by decide)
  obtain ⟨x, read, -, -, last, -⟩ := reads { poweredUp with mbx := { Mbx.reset with st := .read, words := 1, buf := [9] } } .port rfl
  obtain ⟨nine, ended⟩ := last 9 rfl rfl
  exact ⟨⟨t, u, starts, wrote, by rw [first]; rfl⟩, ⟨v, write, by rw [joined]; rfl⟩, x, read, nine, by rw [ended]⟩

end Sys2Proof.Machine
end

section
/-! The step (O1), and the blocks that the management port reaches (R452): O16. -/
namespace Sys2Proof.Machine

/-- Settles O1: an empty queue idles, and a command at the front runs with the rest of the queue. -/
theorem stepRunsTheFrontCommand : Obligations.StepRunsTheFrontCommand := by
  refine ⟨fun s c rest waits => ?_, fun s empty => ?_⟩
  · simp only [step, waits]
  · simp only [step, empty]

/-! ### The management port -/

/-- While PORST_N is asserted the port answers with a NACK (R452). -/
theorem served_port_nack {s : State} (porst : s.sys.porst = true) (k : State → State) :
    served s .port k = { s with out := { s.out with answer := 4 } } :=
  if_pos porst

theorem portReaches_outside {off : Nat} (outside : off / 0x10000 ∉ [0x0, 0x2, 0xB, 0xC]) : portReaches off = false := by
  rw [portReaches, List.contains_eq_mem]
  exact decide_eq_false outside

section
variable {s : State} {off size : Nat} {e : Word} (released : s.sys.porst = false) (outside : off / 0x10000 ∉ [0x0, 0x2, 0xB, 0xC])
  (told : mbxError s .port errBadOffset off = { s with mbx := { s.mbx with error := e } })
include released outside told

/-- Outside its four blocks the port reads zero, and its access is recorded BAD_OFFSET. -/
theorem registerRead_port_outside : ∃ t, exec (.registerRead .port .bar0 off size) s = .next t ∧
    t = { s with mbx := { s.mbx with error := e }, out := t.out } ∧ t.out.readData = 0 := by
  have may : mayServe s .port = true := by simp [mayServe, released]
  have run : exec (.registerRead .port .bar0 off size) s = .next (served s .port fun s => bar0ReadBy s .port off size) := rfl
  rw [run, served_of_mayServe _ may]
  simp only [bar0ReadBy, portReaches_outside outside, Bool.false_eq_true, if_false, told]
  exact ⟨_, rfl, rfl, rfl⟩

/-- And it writes nothing. -/
theorem registerWrite_port_outside (v : BitVec 64) : ∃ t, exec (.registerWrite .port .bar0 off size v) s = .next t ∧
    t = { s with mbx := { s.mbx with error := e }, out := t.out } := by
  have may : mayServe s .port = true := by simp [mayServe, released]
  have run : exec (.registerWrite .port .bar0 off size v) s = .next (served s .port fun s => bar0Access s .port off size v) := rfl
  rw [run, served_of_mayServe _ may]
  simp only [bar0Access, portReaches_outside outside, Bool.false_eq_true, if_false, told]
  exact ⟨_, rfl, rfl⟩

end

/-- Settles O16: PORST_N turns every access away, and the list of blocks every other one. -/
theorem managementPortReachesFourBlocks : Obligations.ManagementPortReachesFourBlocks := by
  intro s off size v w
  refine ⟨fun porst c access => ?_, fun released inside outside => ?_⟩
  · have nack (k : State → State) : Host.Outcome.next (served s .port k) = (.next { s with out := { s.out with answer := 4 } } : Result) :=
      congrArg _ (served_port_nack porst k)
    simp only [List.mem_cons, List.not_mem_nil, or_false] at access
    rcases access with rfl | rfl | rfl | rfl | rfl | rfl | rfl | rfl | rfl | rfl | rfl | rfl | rfl | rfl <;> exact nack _
  · have told := mbxError_eq (s := s) (code := errBadOffset) .port (by decide) inside
    exact ⟨registerRead_port_outside released outside told, registerWrite_port_outside released outside told v⟩

/-- O1's hypotheses are met: the write at the front of the queue runs with BEACON_TICK left waiting, and the reset machine idles. -/
theorem transomWaits_runsItsWrite :
    step transomWaits = exec (.transomTransaction ⟨0, 1, some [1]⟩) { transomWaits with pending := [.beaconTick] } ∧
      step State.reset = .next State.reset :=
  ⟨stepRunsTheFrontCommand.1 transomWaits _ _ rfl, stepRunsTheFrontCommand.2 State.reset rfl⟩

/-- O16's hypotheses are met: the CFG block is out of the port's reach, and at reset every block is. -/
theorem port_isKeptOut :
    (∃ t, exec (.registerRead .port .bar0 0x10000 4) poweredUp = .next t ∧ t.out.readData = 0 ∧ t.mbx.error = 0x91000008) ∧
      exec (.mbxNop .port 0) State.reset = .next { State.reset with out := { State.reset.out with answer := 4 } } := by
  obtain ⟨-, outside⟩ := managementPortReachesFourBlocks poweredUp 0x10000 4 0 0
  obtain ⟨⟨t, run, told, zero⟩, -⟩ := outside rfl (by decide) (by decide)
  obtain ⟨nack, -⟩ := managementPortReachesFourBlocks State.reset 0 4 0 0
  exact ⟨⟨t, run, zero, by rw [told]; rfl⟩, nack rfl _ (by simp)⟩

end Sys2Proof.Machine
end

section
/-! Resets of every domain (R440, R443, R486), the release of PORST_N (R444, R461, R465), and O22 and O24. -/
namespace Sys2Proof.Machine

/-! ### The cause of a reset (R443, R459) -/

theorem shiftLeft_mod_byte (x : Nat) {k : Nat} (above : 8 ≤ k) : (x <<< k) % 2 ^ 8 = 0 := by
  rw [Nat.shiftLeft_eq]
  exact Nat.mod_eq_zero_of_dvd (Nat.dvd_trans (Nat.pow_dvd_pow 2 above) (Nat.dvd_mul_left (2 ^ k) x))

/-- Byte 0 of an image whose first field fills it. -/
theorem fld_packFields_cause (code a b c d : Nat) :
    fld (packFields 256 [(0, 0, 8, code), (1, 0, 8, a), (2, 7, 1, b), (4, 0, 32, c), (24, 0, 64, d)]) 0 0 8 = code % 2 ^ 8 := by
  have low (x : Nat) : x % 2 ^ 256 % 2 ^ 8 = x % 2 ^ 8 := Nat.mod_mod_of_dvd x (Nat.pow_dvd_pow 2 (by decide))
  simp (disch := decide) only [fld, packFields, List.foldl, BitVec.toNat_ofNat, Nat.mul_zero, Nat.add_zero, Nat.shiftRight_zero, low,
    Nat.or_mod_two_pow, Nat.shiftLeft_zero, Nat.zero_or, shiftLeft_mod_byte, Nat.or_zero, Nat.mod_mod]

/-- The cause joins the fault records at their front, and the oldest of 32 makes room. -/
theorem recordCause_records (s : State) (code : Nat) :
    (recordCause s code).lcs.records.tail = s.lcs.records.take 31 ∧ fld ((recordCause s code).lcs.records.headD 0) 0 0 8 = (0x80 + code) % 2 ^ 8 := by
  refine ⟨rfl, ?_⟩
  exact fld_packFields_cause ..

/-- Settles O22: with the rails up the cause is recorded first. -/
theorem porstResetsEveryDomain : Obligations.PorstResetsEveryDomain := by
  intro s c row released
  have run : exec c s = .next (porstAssert s) := by
    have asserts : (if s.sys.porst then s else porstAssert s) = porstAssert s := by simp [released]
    simp only [List.mem_cons, List.not_mem_nil, or_false] at row
    rcases row with rfl | rfl <;> exact congrArg Host.Outcome.next asserts
  refine ⟨_, run, ?_⟩
  cases rails : s.sys.rails with
  | false =>
    simp only [porstAssert, rails, Bool.false_eq_true, if_false]
    exact ⟨rfl, fun _ => ⟨rfl, rfl⟩, False.elim⟩
  | true =>
    obtain ⟨older, cause⟩ := recordCause_records s 1
    simp only [porstAssert, rails, if_true]
    exact ⟨rfl, Bool.noConfusion, fun _ => ⟨rfl, older, cause⟩⟩

/-! ### The release of PORST_N -/

/-- Without a bank that passes its check the boot ROM leaves recovery mode (R461). -/
theorem bootRom_fails {s : State} (a : bankPasses s.lcs.svnMin s.lcs.bankA = false) (b : bankPasses s.lcs.svnMin s.lcs.bankB = false) :
    bootRom s = { s with lcs := { s.lcs with fwUp := false, recovery := true, otherValid := false } } := by
  have fails (x : Bool) : bankPasses s.lcs.svnMin (bankOf s.lcs x) = false := by
    cases x
    · exact a
    · exact b
  simp [bootRom, fails]

/-- With one that passes, the firmware runs. -/
theorem bootRom_passes {s : State} (passes : bankPasses s.lcs.svnMin s.lcs.bankA = true ∨ bankPasses s.lcs.svnMin s.lcs.bankB = true) :
    ∃ r v o, bootRom s = { s with lcs := { s.lcs with running := r, version := v, otherValid := o, fwUp := true, recovery := false } } := by
  have one : (bankPasses s.lcs.svnMin (bankOf s.lcs s.lcs.active) || bankPasses s.lcs.svnMin (bankOf s.lcs (!s.lcs.active))) = true := by
    cases s.lcs.active <;> simpa [bankOf, or_comm] using passes
  exact ⟨_, _, _, if_pos one⟩

/-- The controller as the release of PORST_N leaves it, before it boots. -/
def porstReleased (s : State) (env : BootEnv) : State :=
  freshNonce { s with sys := { s.sys with
    porst := false, mgmtFallback := !env.mgtClk, tapReset := false, halt := s.sys.haltRaw, rampWait := some env,
    stalled := if env.mgtClk then s.sys.stalled.filter fun x => x != .mgmt else s.sys.stalled } }

/-- A release that finds no firmware, or the power die of another set, ends in recovery mode. -/
theorem boot_recovers {s : State} {env : BootEnv} (a : bankPasses s.lcs.svnMin s.lcs.bankA = false) (b : bankPasses s.lcs.svnMin s.lcs.bankB = false) :
    ∃ o, boot (porstReleased s env) = { porstReleased s env with lcs := { (porstReleased s env).lcs with fwUp := false, recovery := true, otherValid := o } } := by
  have rom := bootRom_fails (s := porstReleased s env) a b
  by_cases die : (env.powerSerial == s.lcs.serial.toNat) = true
  · exact ⟨_, (if_pos die).trans rom⟩
  · exact ⟨_, if_neg die⟩

/-- One that finds firmware and its own power die starts the firmware. -/
theorem boot_runs {s : State} {env : BootEnv} (passes : bankPasses s.lcs.svnMin s.lcs.bankA = true ∨ bankPasses s.lcs.svnMin s.lcs.bankB = true)
    (die : env.powerSerial = s.lcs.serial.toNat) :
    ∃ l, boot (porstReleased s env) = { porstReleased s env with lcs := l } ∧ l.fwUp = true ∧ l.recovery = false := by
  obtain ⟨r, v, o, rom⟩ := bootRom_passes (s := porstReleased s env) passes
  exact ⟨_, (if_pos (beq_iff_eq.2 die)).trans rom, rfl, rfl⟩

/-- A wipe without a mismatch leaves its signature alone in the controller. -/
theorem bootWipe_lcs {s : State} {env : BootEnv} (clean : env.wipeMismatch = []) (top : Nat) :
    (bootWipe s env top).lcs = { s.lcs with wipeSig := (bootWipe s env top).lcs.wipeSig } := by
  unfold bootWipe
  rw [clean]
  rfl

/-- What steps 3 to 5 leave of a core, after a wipe without a mismatch. -/
def coreBooted (s : State) (env : BootEnv) (sig : Word) (ports : Vector Port 24) : State :=
  { s with
    lcs := { s.lcs with wipeSig := sig }, ports := ports, parts := s.parts.map fun p => { p with shutter := .open_, reason := .none },
    spares := (bootBasins s env).spares, sys := { s.sys with optUp := true, coreUp := true } }

theorem coreBooted_opens (s : State) (env : BootEnv) (sig : Word) (ports : Vector Port 24) (n : Fin 16) :
    ((coreBooted s env sig ports).part n).shutter = .open_ := by
  simp [coreBooted, State.part]

theorem coreBooted_cfg (s : State) (env : BootEnv) (sig : Word) (ports : Vector Port 24) : (coreBooted s env sig ports).cfg = s.cfg := rfl
theorem coreReady_cfg (s : State) : (coreReady s).cfg = s.cfg := rfl

/-- Step 7 follows once PERST_N is deasserted. -/
theorem coreBoot_inTime {s : State} {env : BootEnv} (clean : env.wipeMismatch = []) (inTime : env.coreReady = true) (top : Nat) :
    ∃ sig ports, coreBoot s env top = if s.sys.perst then coreBooted s env sig ports else coreReady (coreBooted s env sig ports) := by
  unfold coreBoot
  rw [bootEngines_ports, bootWipe_clean clean, bootWipe_lcs clean]
  simp only [bootBasins, inTime, Bool.not_true, Bool.or_false]
  exact ⟨_, _, rfl⟩

/-- The state in which the core boots once FG2-P has ramped the rails (R415). -/
def rampedUp (s : State) : State :=
  { s with
    sys := { s.sys with rails := true, rampWait := none },
    power := { s.power with code := 68, measCode := 68, target := 68, vsram := 88, frames := s.power.frames ++ [(true, 88), (false, 68)] } }

theorem rampedUp_cfg (s : State) : (rampedUp s).cfg = s.cfg := rfl

theorem ramp_boots {s : State} {env : BootEnv} (inRange : env.railsUp = true) : ramp s env = coreBoot (rampedUp s) env 8 :=
  if_neg (by simp [inRange])

theorem exec_porstRelease {s : State} {env : BootEnv} (porst : s.sys.porst = true) :
    exec (.porstRelease env) s = .next (if !(boot (porstReleased s env)).lcs.fwUp || env.hot then boot (porstReleased s env)
      else ramp (boot (porstReleased s env)) env) :=
  congrArg Host.Outcome.next (if_pos porst)

/-- Settles O24: without firmware the release ends with the boot, with it the rails ramp and the core boots. -/
theorem porstReleaseBringsUp : Obligations.PorstReleaseBringsUp := by
  refine ⟨fun s env porst a b => ?_, fun s env porst notReady passes die cool inRange clean inTime => ?_⟩
  · obtain ⟨o, recovers⟩ := boot_recovers (env := env) a b
    refine ⟨_, exec_porstRelease porst, ?_⟩
    rw [recovers]
    exact ⟨rfl, rfl, rfl, rfl, rfl, rfl, rfl, rfl⟩
  · obtain ⟨l, runs, up, known⟩ := boot_runs (env := env) passes die
    obtain ⟨sig, ports, boots⟩ := coreBoot_inTime (s := rampedUp { porstReleased s env with lcs := l }) clean inTime 8
    have opens := coreBooted_opens (rampedUp { porstReleased s env with lcs := l }) env sig ports
    have level : (rampedUp { porstReleased s env with lcs := l }).sys.perst = s.sys.perst := rfl
    have cfg := (coreBooted_cfg (rampedUp { porstReleased s env with lcs := l }) env sig ports).trans (rampedUp_cfg _)
    refine ⟨_, exec_porstRelease porst, ?_⟩
    rw [runs, cool, up, Bool.not_true, Bool.or_false, if_neg Bool.false_ne_true, ramp_boots inRange, boots, level]
    cases perst : s.sys.perst with
    | false =>
      rw [if_neg Bool.false_ne_true]
      exact ⟨rfl, rfl, rfl, up, known, iff_of_true rfl rfl, rfl, rfl, opens, rfl, (coreReady_cfg _).trans cfg⟩
    | true =>
      rw [if_pos rfl]
      have waits : ¬ s.sys.ready = true := by simp [notReady]
      exact ⟨rfl, rfl, rfl, up, known, iff_of_false waits Bool.noConfusion, rfl, rfl, opens, rfl, cfg⟩

/-! ### Machines that meet the hypotheses -/

/-- O22's hypotheses are met by the running core: PORST_N records its cause, and so does a fall of VDDIO18. -/
theorem coreRuns_resetsEveryDomain :
    (∃ t, exec .porstAssert coreRuns = .next t ∧ t.sys.cause = 1) ∧ ∃ t, exec .vddio18Fall coreRuns = .next t ∧ t.sys.porst = true := by
  obtain ⟨t, asserts, -, -, recorded⟩ := porstResetsEveryDomain coreRuns .porstAssert (by simp) rfl
  obtain ⟨cause, -⟩ := recorded rfl
  obtain ⟨u, falls, domains, -⟩ := porstResetsEveryDomain coreRuns .vddio18Fall (by simp) rfl
  exact ⟨⟨t, asserts, cause⟩, u, falls, by rw [domains]; rfl⟩

/-- O24's first hypotheses are met at reset, where both banks are empty. -/
theorem reset_releasesIntoRecovery : ∃ t, exec (.porstRelease cleanBoot) State.reset = .next t ∧ t.lcs.recovery = true := by
  have empty : bankPasses 0 [] = false := by simp [bankPasses, word]
  obtain ⟨t, run, -, -, -, -, recovery, -⟩ := porstReleaseBringsUp.1 State.reset cleanBoot rfl empty empty
  exact ⟨t, run, recovery⟩

/-- And its second ones by a bank whose signature the opaque verification accepts. -/
theorem reset_releasesWithFirmware (image : List Word) (passes : bankPasses 0 image = true) :
    ∃ t, exec (.porstRelease cleanBoot) { State.reset with lcs := { Lcs.reset with bankA := image } } = .next t ∧ t.sys.coreUp = true := by
  obtain ⟨t, run, -, -, up, -⟩ :=
    porstReleaseBringsUp.2 { State.reset with lcs := { Lcs.reset with bankA := image } } cleanBoot rfl rfl (.inl passes) rfl rfl rfl rfl rfl
  exact ⟨t, run, up⟩

end Sys2Proof.Machine
end

section
/-! Faults of the supply (R416, R417, R426): what the current limit does to VCORE, what the fall of the rails leaves, and O32. -/
namespace Sys2Proof.Machine

/-! ### The current limit (R417) -/

/-- The highest code within the limit at or below a code. -/
theorem sagTo_spec (s : State) (c : Nat) : sagTo s c ≤ c ∧ (0 < sagTo s c → withinCurrent s (sagTo s c) = true) := by
  induction c with
  | zero => exact ⟨Nat.le_refl 0, fun positive => absurd positive (Nat.lt_irrefl 0)⟩
  | succ c ih =>
    obtain ⟨below, within⟩ := ih
    rw [sagTo]
    split
    next fits => exact ⟨Nat.le_refl _, fun _ => fits⟩
    next exceeds => exact ⟨Nat.le_succ_of_le below, within⟩

/-- Moving VCORE leaves the measurements on which the limit rests. -/
theorem withinCurrent_setVcore (s : State) (c d : Nat) : withinCurrent (setVcore s c) d = withinCurrent s d := rfl

/-- FG2-P lets VCORE fall to the limit, and leaves everything but the power manager alone. -/
theorem sag_spec (s : State) :
    sag s = { s with power := (sag s).power } ∧ (sag s).power.phases = s.power.phases ∧ (sag s).power.plFault = s.power.plFault ∧
      (sag s).power.code ≤ s.power.code ∧ ((sag s).power.code = s.power.code ∨ (sag s).power.limit = 6) ∧
      (0 < (sag s).power.code → withinCurrent (sag s) (sag s).power.code = true) := by
  unfold sag
  split
  next fits => exact ⟨rfl, rfl, rfl, Nat.le_refl _, .inl rfl, fun _ => fits⟩
  next exceeds =>
    obtain ⟨below, within⟩ := sagTo_spec s s.power.code
    exact ⟨rfl, rfl, rfl, below, .inr rfl, within⟩

theorem exec_phaseFault {s : State} (rails : s.sys.rails = true) (k : Nat) :
    exec (.phaseFault k) s = .next (sag { s with power := { s.power with phases := min 24 k, plFault := true } }) :=
  congrArg Host.Outcome.next (if_neg (by simp [rails]))

/-! ### The fall of the rails -/

/-- No more than the Shutters, the mailbox and the controller have changed. -/
def controllerOnly (s t : State) : Prop := ∃ parts mbx lcs slots, t = { s with parts := parts, mbx := mbx, lcs := lcs, slots := slots }

theorem controllerOnly.refl (s : State) : controllerOnly s s := ⟨s.parts, s.mbx, s.lcs, s.slots, rfl⟩

theorem controllerOnly.trans {s t u : State} (h : controllerOnly s t) (k : controllerOnly t u) : controllerOnly s u := by
  obtain ⟨_, _, _, _, rfl⟩ := h
  obtain ⟨p, m, l, x, rfl⟩ := k
  exact ⟨p, m, l, x, rfl⟩

theorem mbxEnd_controllerOnly (s : State) (st : MbxSt) (result : Nat) : controllerOnly s (mbxEnd s st result) :=
  ⟨s.parts, _, s.lcs, _, mbxEnd_slots s st result⟩

theorem bootRom_controllerOnly (s : State) : controllerOnly s (bootRom s) := by
  unfold bootRom
  dsimp only
  split <;> exact ⟨s.parts, s.mbx, _, s.slots, rfl⟩

theorem boot_controllerOnly (s : State) : controllerOnly s (boot s) := by
  unfold boot
  split
  · split
    · exact bootRom_controllerOnly s
    · exact ⟨s.parts, s.mbx, _, s.slots, rfl⟩
  · exact bootRom_controllerOnly s

theorem restart_controllerOnly (s : State) : controllerOnly s (restart s) := by
  unfold restart
  split
  · exact (mbxEnd_controllerOnly s .error 6).trans (boot_controllerOnly _)
  · exact boot_controllerOnly s

theorem controllerOnly.ite {s t u : State} {p : Prop} [Decidable p] (h : controllerOnly s t) (k : controllerOnly s u) :
    controllerOnly s (if p then t else u) := by
  split
  · exact h
  · exact k

/-- The end of an accepted token (R465). -/
theorem tokenDone_controllerOnly (s : State) : controllerOnly s (tokenDone s) := by
  have shut : controllerOnly s { s with parts := s.parts.map fun p => { p with shutter := .closed, reason := .faultFence } } :=
    ⟨_, s.mbx, s.lcs, s.slots, rfl⟩
  have ended (u : State) (st : MbxSt) (result : Nat) : controllerOnly u (if u.mbx.st == .busy && mbxOp u == 0x40 then mbxEnd u st result else u) :=
    .ite (mbxEnd_controllerOnly ..) (.refl u)
  have fuses (u : State) (l : Lcs) : controllerOnly u { u with lcs := l } := ⟨u.parts, u.mbx, l, u.slots, rfl⟩
  unfold tokenDone
  split
  · exact .refl s
  · exact (((controllerOnly.refl s).ite shut).trans (ended _ .done 0)).trans ((restart_controllerOnly _).trans (fuses _ _))

theorem tokenDone_idle {s : State} (idle : s.lcs.tokenBusy = false) : tokenDone s = s := if_pos (by simp [idle])

theorem wipeBuffers_controllerOnly (s : State) : controllerOnly s (wipeBuffers s) := by
  have emptied (u : State) : controllerOnly u { u with slots := Vector.replicate 16 (Slot.empty, Slot.empty) } :=
    ⟨u.parts, u.mbx, u.lcs, _, rfl⟩
  unfold wipeBuffers
  dsimp only
  split
  · exact (mbxEnd_controllerOnly s .error 6).trans (emptied _)
  · exact emptied s

theorem wipeBuffers_parts (s : State) : (wipeBuffers s).parts = s.parts := by
  unfold wipeBuffers
  split
  · rw [mbxEnd_slots]
  · rfl

/-- The machine as its rails go down, before an accepted token ends. -/
def railsDown (s : State) (code : Nat) : State :=
  { coreReset (recordCause s code) with
    sys := { (coreReset (recordCause s code)).sys with rails := false, rampWait := none },
    power := { (coreReset (recordCause s code)).power with
      code := 0, target := 0, vsram := 0, emergency := false, covered := [], ceiling := [] } }

theorem railsOff_eq (s : State) (code : Nat) : railsOff s code = tokenDone (railsDown s code) := rfl

theorem railsOff_parts {s : State} (idle : s.lcs.tokenBusy = false) (code : Nat) : (railsOff s code).parts = (railsDown s code).parts := by
  rw [railsOff_eq, tokenDone_idle (s := railsDown s code) idle]

/-- What every fault that stops the core leaves (R416, R417, R426, R443). -/
structure CoreStopped (s t : State) (code : Nat) : Prop where
  frame : t = { State.reset with
    pending := s.pending, transom := s.transom, host := s.host, out := s.out, draws := t.draws, ras := s.ras, rasOverflow := s.rasOverflow,
    parts := t.parts, cfg := { Cfg.reset with committed := t.cfg.committed, force := t.cfg.force }, power := t.power, mbx := t.mbx, lcs := t.lcs,
    slots := t.slots, sys := t.sys }
  parts : s.lcs.tokenBusy = false → ∀ n, t.part n = { Part.reset with shutter := .closed }
  pwr : ∀ off, off / 0x10000 = 2 → regGet t.cfg.committed off = regGet s.cfg.committed off ∧ t.force off = regGet s.cfg.committed off
  others : ∀ off, off / 0x10000 ≠ 2 → regGet t.cfg.committed off = resetValue off ∧ t.force off = resetValue off
  rails : t.sys.rails = false
  coreUp : t.sys.coreUp = false
  ready : t.sys.ready = false
  linkUp : t.sys.linkUp = false
  vcore : t.power.code = 0
  vsram : t.power.vsram = 0
  cause : t.sys.cause = code

/-- The rails are down and the controller is done: what pins and flags follow is no matter. -/
theorem coreStopped_of_railsDown {s u : State} {code : Nat} (only : controllerOnly (railsDown s code) u)
    (parts : s.lcs.tokenBusy = false → u.parts = (railsDown s code).parts) (trip plFault : Bool) :
    CoreStopped s { u with sys := { u.sys with rampWait := none, trip := trip }, power := { u.power with plFault := plFault } } code := by
  obtain ⟨p, m, l, x, rfl⟩ := only
  refine { frame := rfl, parts := fun idle n => ?_, pwr := fun off pwr => ?_, others := fun off other => ?_, rails := rfl, coreUp := rfl,
           ready := rfl, linkUp := rfl, vcore := rfl, vsram := rfl, cause := rfl }
  · have closed : p = Vector.replicate 16 { Part.reset with shutter := .closed } := parts idle
    simp [State.part, closed]
  · have stands := (regGet_keepPwr s.cfg.committed off).trans (if_pos pwr)
    exact ⟨stands, stands⟩
  · have returns := (regGet_keepPwr s.cfg.committed off).trans (if_neg other)
    exact ⟨returns, returns⟩

section
variable {s : State} (rails : s.sys.rails = true) (released : s.sys.porst = false)
include rails released

/-- The input fault, and an undervoltage of VCORE (R416, R417). -/
theorem inputFault_stops : CoreStopped s (inputFault s) 4 ∧ (inputFault s).power.plFault = true := by
  have faults : inputFault s = { wipeBuffers (railsOff s 4) with
      sys := { (wipeBuffers (railsOff s 4)).sys with rampWait := none }, power := { (wipeBuffers (railsOff s 4)).power with plFault := true } } := by
    simp [inputFault, rails, released]
  have only : controllerOnly (railsDown s 4) (wipeBuffers (railsOff s 4)) := (tokenDone_controllerOnly _).trans (wipeBuffers_controllerOnly _)
  have parts (idle : s.lcs.tokenBusy = false) : (wipeBuffers (railsOff s 4)).parts = (railsDown s 4).parts :=
    (wipeBuffers_parts _).trans (railsOff_parts idle 4)
  rw [faults]
  exact ⟨coreStopped_of_railsDown only parts (wipeBuffers (railsOff s 4)).sys.trip true, rfl⟩

/-- The thermal trip (R426). -/
theorem exec_thermtrip : ∃ t, exec .thermtrip s = .next t ∧ CoreStopped s t 3 ∧ t.sys.trip = true ∧ t.power.plFault = false := by
  have run : exec .thermtrip s = .next { railsOff s 3 with
      sys := { (railsOff s 3).sys with trip := true, rampWait := none }, power := { (railsOff s 3).power with plFault := false } } := by
    simp [exec, execThermtrip, rails, released]
  exact ⟨_, run, coreStopped_of_railsDown (tokenDone_controllerOnly _) (fun idle => railsOff_parts idle 3) true false, rfl, rfl⟩

end

/-! ### O32 -/

theorem exec_vinLow {s : State} {vin : Nat} (rails : s.sys.rails = true) (least : 1520 ≤ vin) (below : vin < 1600) (busy : idleOwner s = false) :
    exec (.vinLow vin) s = .next { s with power := { s.power with vin := vin } } := by
  have still : idleOwner { s with power := { s.power with vin := vin } } = false := busy
  have takes : vinLow s vin = { s with power := { s.power with vin := vin } } := by
    simp [vinLow, rails, least, below, still]
  exact congrArg Host.Outcome.next takes

/-- Settles O32: a phase fault lets VCORE sag, the faults of the supply and the trip stop the core. -/
theorem supplyFaults : Obligations.SupplyFaults := by
  refine ⟨fun s k rails => ?_, fun s c rails released row => ?_, fun s vin => ⟨exec_vinLow, rfl⟩⟩
  · obtain ⟨frame, phases, plFault, below, limited, within⟩ := sag_spec { s with power := { s.power with phases := min 24 k, plFault := true } }
    exact ⟨_, exec_phaseFault rails k, frame, phases, plFault, below, limited, within⟩
  · by_cases trip : c = .thermtrip
    · subst trip
      obtain ⟨t, run, ⟨frame, parts, pwr, others, down, up, ready, link, vcore, vsram, cause⟩, stands, flag⟩ := exec_thermtrip rails released
      exact ⟨t, run, frame, parts, pwr, others, down, up, ready, link, vcore, vsram, (if_pos rfl).mpr ⟨cause, stands, flag⟩⟩
    · obtain ⟨⟨frame, parts, pwr, others, down, up, ready, link, vcore, vsram, cause⟩, flag⟩ := inputFault_stops rails released
      have run : exec c s = .next (inputFault s) := by
        simp only [List.mem_cons, List.not_mem_nil, or_false, trip] at row
        rcases row with rfl | rfl
        · exact congrArg Host.Outcome.next (if_pos rails)
        · rfl
      exact ⟨_, run, frame, parts, pwr, others, down, up, ready, link, vcore, vsram, (if_neg trip).mpr ⟨cause, flag⟩⟩

/-! ### Cores that meet the hypotheses -/

/-- The running core with a step open on partition 0, the only one that owns basins. -/
def coreWorks : State := coreRuns.modPart 0 fun p => { p with openStep := some 1 }

/-- O32's hypotheses are met by a running core: it loses phases, trips, loses its supply, and sees its input fall. -/
theorem coreRuns_losesItsSupply :
    (∃ t, exec (.phaseFault 20) coreRuns = .next t ∧ t.power.phases = 20 ∧ t.power.plFault = true) ∧
      (∃ t, exec .thermtrip coreRuns = .next t ∧ t.sys.cause = 3) ∧ (∃ t, exec .vcoreUndervoltage coreRuns = .next t ∧ t.sys.cause = 4) ∧
      exec (.vinLow 1550) coreWorks = .next { coreWorks with power := { coreWorks.power with vin := 1550 } } := by
  obtain ⟨phases, stops, inputs⟩ := supplyFaults
  obtain ⟨t, fault, -, twenty, flag, -⟩ := phases coreRuns 20 rfl
  obtain ⟨u, trip, -, -, -, -, -, -, -, -, -, -, tripped⟩ := stops coreRuns .thermtrip rfl rfl (by simp)
  obtain ⟨v, undervoltage, -, -, -, -, -, -, -, -, -, -, supply⟩ := stops coreRuns .vcoreUndervoltage rfl rfl (by simp)
  obtain ⟨low, -⟩ := inputs coreWorks 1550
  obtain ⟨three, -⟩ := Eq.mp (if_pos rfl) tripped
  obtain ⟨four, -⟩ := Eq.mp (if_neg (by simp)) supply
  exact ⟨⟨t, fault, twenty, flag⟩, ⟨u, trip, three⟩, ⟨v, undervoltage, four⟩, low rfl (by decide) (by decide) (by decide +kernel)⟩

end Sys2Proof.Machine
end

section
/-! Thermal emergencies (R425), power samples (R423, R424), sentinels (R428, R429), and O31. -/
namespace Sys2Proof.Machine

/-! ### Emergencies -/

/-- The power manager after an emergency fall from its state: VCORE 16 codes down, to code 20 at the lowest, and VSRAM after it (R415, R425). -/
def fallenPower (p : Power) (tj : Nat) : Power :=
  let c := if p.code ≤ 20 then p.code else max 20 (p.code - 16)
  { p with
    code := c, vsram := vsramOf c, frames := p.frames ++ (if p.code ≤ 20 then [] else [(false, c), (true, vsramOf c)]),
    target := c, limit := 4, tjMax := tj, emergency := true }

theorem emergencyFall_eq (s : State) (tj : Nat) : emergencyFall s tj = { s with power := fallenPower s.power tj } := by
  by_cases low : s.power.code ≤ 20
  · simp [emergencyFall, setVcore, fallenPower, low]
  · have falls : max 20 (s.power.code - 16) < s.power.code := by omega
    simp [emergencyFall, setVcore, fallenPower, low, falls, Nat.lt_asymm falls]

section
variable {s : State} {tj : Nat} (rails : s.sys.rails = true)
include rails

theorem exec_thermalEmergency (calmBefore : s.power.emergency = false) (hot : tempCode (emergC s) ≤ tj) :
    exec (.thermalEmergency tj) s = .next { s with
      power := { fallenPower s.power tj with counters := bump s.power.counters 8 1 }, evtStatus := s.evtStatus ||| 2 ^ 2 } := by
  have falls : thermalEmergency s tj = { bumpPower (emergencyFall s tj) 8 1 with
      evtStatus := (bumpPower (emergencyFall s tj) 8 1).evtStatus ||| 2 ^ evtThermEmerg } :=
    if_neg (by simp [rails, calmBefore, Nat.not_lt.2 hot])
  have run : exec (.thermalEmergency tj) s = .next (thermalEmergency s tj) := rfl
  rw [run, falls, emergencyFall_eq]
  rfl

theorem exec_emergencyStep (during : s.power.emergency = true) (hot : tempCode (emergC s) ≤ tj) :
    exec (.emergencyStep tj) s = .next { s with power := fallenPower s.power tj } := by
  have falls : emergencyStep s tj = emergencyFall s tj := if_pos (by simp [rails, during, hot])
  have run : exec (.emergencyStep tj) s = .next (emergencyStep s tj) := rfl
  rw [run, falls, emergencyFall_eq]

theorem exec_emergencyEnd (during : s.power.emergency = true) (cool : tj < tempCode (emergC s - hystC s)) :
    exec (.emergencyEnd tj) s = .next { s with power := { s.power with emergency := false, limit := 0, tjMax := tj } } :=
  congrArg Host.Outcome.next (if_pos (by simp [rails, during, cool]))

end

/-! ### Counters -/

theorem getV_bump_same {n : Nat} (v : Vector Nat n) {i : Nat} (inside : i < n) (k : Nat) : getV (bump v i k) i = (getV v i + k) % 2 ^ 64 := by
  simp [getV, bump, inside]

theorem getV_setV_same {n : Nat} (v : Vector Nat n) {i : Nat} (inside : i < n) (x : Nat) : getV (setV v i x) i = x := by
  simp [getV, setV, inside]

theorem getV_setV_other {n : Nat} (v : Vector Nat n) {i j : Nat} (other : j ≠ i) (x : Nat) : getV (setV v i x) j = getV v j := by
  unfold getV setV
  split
  · split
    · exact Vector.getElem_set_ne _ _ (Ne.symm other)
    · rfl
  · rfl

/-! ### Samples -/

/-- The machine once the energy and the time of a sample are counted (R424). -/
def sampleCounted (s : State) (m : PowerMeas) : State :=
  { s with power := { s.power with
    microJ := s.power.microJ + m.die,
    counters := setV (bump s.power.counters (1 + s.power.limit) 10) 0 ((s.power.microJ + m.die) / 1000) } }

/-- A sample within the current limit, with no idle owner of basins: its readings come in and VCORE stands. -/
theorem powerSample_stands {s : State} {m : PowerMeas} (released : s.sys.porst = false) (rails : s.sys.rails = true) (busy : idleOwner s = false)
    (limit : s.power.limit < 7) (within : withinCurrent (takeReadings s m) s.power.code = true) :
    powerSample s m = takeReadings (sampleCounted s m) m := by
  have stands : sag (takeReadings (sampleCounted s m) m) = takeReadings (sampleCounted s m) m := if_pos within
  have still : idleOwner (takeReadings (sampleCounted s m) m) = false := busy
  simp only [powerSample, released, rails, Bool.not_true, Bool.false_eq_true, if_false, bumpPower, Nat.mod_eq_of_lt limit]
  simp only [sampleCounted] at stands still ⊢
  rw [stands, still]
  rfl

theorem exec_powerSample {s : State} {m : PowerMeas} (released : s.sys.porst = false) (rails : s.sys.rails = true) (noRamp : s.sys.rampWait = none)
    (busy : idleOwner s = false) (limit : s.power.limit < 7) (within : withinCurrent (takeReadings s m) s.power.code = true) :
    exec (.powerSample m) s = .next (takeReadings (sampleCounted s m) m) := by
  have waits : (takeReadings (sampleCounted s m) m).sys.rampWait = none := noRamp
  have run : exec (.powerSample m) s = execPowerSample m s := rfl
  rw [run, execPowerSample, powerSample_stands released rails busy limit within]
  simp only [waits]

/-- PL_FAULT_N follows the phases, the input and what FG2-P reports (R416, R417). -/
theorem takeReadings_plFault (s : State) (m : PowerMeas) :
    (takeReadings s m).power.plFault = true ↔ m.phases < 24 ∨ m.overcurrent = true ∨ m.stageHot = true ∨ m.vin < 1520 ∨ 2480 < m.vin := by
  have phases : min 24 m.phases < 24 ↔ m.phases < 24 := by omega
  simp only [takeReadings, Bool.or_eq_true, decide_eq_true_eq, phases, or_assoc, or_left_comm (b := m.phases < 24)]

/-! ### Sentinels -/

/-- The machine with one reading in, counted, at an open time (R428). -/
def sentinelTaken (s : State) (i v : Nat) : State :=
  bumpPower { s with draws := s.draws + 1, power := { s.power with
    sentinels := Sparse.put 0 s.power.sentinels (i % 64) (v % 2 ^ 16), sweepTime := Config.freeValue s.draws } } 10 1

theorem sentinelTaken_get {s : State} {i v : Nat} (inside : i < 64) (short : v < 2 ^ 16) (wf : Sparse.wf 0 s.power.sentinels = true) (j : Nat) :
    Sparse.get 0 (sentinelTaken s i v).power.sentinels j = if j = i then v else Sparse.get 0 s.power.sentinels j := by
  have taken : (sentinelTaken s i v).power.sentinels = Sparse.put 0 s.power.sentinels i v := by
    rw [← Nat.mod_eq_of_lt inside, ← Nat.mod_eq_of_lt short]
    simp only [sentinelTaken, bumpPower, Nat.mod_mod]
  rw [taken]
  by_cases same : j = i
  · rw [if_pos same, same]
    exact Sparse.get_put_same i v wf
  · rw [if_neg same]
    exact Sparse.get_put_other 0 s.power.sentinels v same

/-- A reading beside an idle basin, after which no basin has drifted beyond its taps, re-plans nothing. -/
theorem sentinelMeasure_takes {s : State} {i v : Nat} (inside : i < 64) (runs : managerRuns s = true)
    (free : ∀ e ∈ s.drains, e.1 ≠ Config.sentinelBasin i)
    (covered : ∀ b, b < min 128 s.spares.enabled → driftOf (sentinelTaken s i v) b ≤ coveredOf s b + 50) :
    sentinelMeasure s [(i, v)] = sentinelTaken s i v := by
  have idle : [(i, v)].filter (fun x => sentinelFree s x.1) = [(i, v)] :=
    List.filter_cons_of_pos (by simpa [sentinelFree, Nat.mod_eq_of_lt inside] using free)
  have none : (logicalBasins (sentinelTaken s i v)).filter (fun b => decide (coveredOf (sentinelTaken s i v) b + 50 < driftOf (sentinelTaken s i v) b)) = [] := by
    refine List.filter_eq_nil_iff.2 fun b logical => ?_
    have below : driftOf (sentinelTaken s i v) b ≤ coveredOf (sentinelTaken s i v) b + 50 := covered b (List.mem_range.1 logical)
    simpa using below
  unfold sentinelMeasure
  rw [if_neg (by simp [runs]), idle]
  exact if_pos (List.isEmpty_iff.2 none)

/-- Settles O31: emergencies by the fall, a sample by its readings, a sweep by the sentinel that it takes. -/
theorem emergenciesAndSamples : Obligations.EmergenciesAndSamples := by
  refine ⟨fun s tj rails => ⟨fun before hot => ?_, fun during hot => ?_, fun during cool => ?_⟩,
    fun s m released rails noRamp busy limit within => ?_, fun s i v inside short runs wf free covered => ?_⟩
  · exact ⟨_, exec_thermalEmergency rails before hot, rfl, rfl⟩
  · exact exec_emergencyStep rails during hot
  · exact ⟨_, exec_emergencyEnd rails during cool, rfl⟩
  · refine ⟨_, exec_powerSample released rails noRamp busy limit within, rfl, rfl, rfl, rfl, rfl, rfl, takeReadings_plFault _ m, rfl, rfl, rfl, rfl,
      rfl, ?_, ?_⟩
    · exact getV_setV_same _ (by decide) _
    · exact (getV_setV_other _ (by omega) _).trans (getV_bump_same _ (by omega) 10)
  · have get := sentinelTaken_get inside short wf
    have run : exec (.sentinelMeasure [(i, v)]) s = .next (sentinelTaken s i v) := by
      refine congrArg Host.Outcome.next (sentinelMeasure_takes inside runs free fun b logical => ?_)
      rw [driftOf, get, get]
      exact covered b logical
    exact ⟨_, run, rfl, get, rfl, rfl, rfl, rfl, getV_bump_same _ (by decide) 1⟩

/-! ### Cores that meet the hypotheses -/

/-- The core at work with its firmware up and VCORE at 0.72 V. -/
def coreManaged : State := { coreWorks with lcs := { coreWorks.lcs with fwUp := true }, power := { Power.reset with code := 68, measCode := 68 } }

/-- O31's hypotheses are met: at 112 °C VCORE falls to code 52 and then to 36, where a cool die leaves it. -/
theorem coreManaged_falls :
    (∃ t, exec (.thermalEmergency 608) coreManaged = .next t ∧ t.power.code = 52 ∧ t.evtStatus = 4) ∧
      exec (.emergencyStep 608) { coreManaged with power := fallenPower coreManaged.power 608 } =
        .next { coreManaged with power := fallenPower (fallenPower coreManaged.power 608) 608 } ∧
      ∃ t, exec (.emergencyEnd 0) { coreManaged with power := fallenPower coreManaged.power 608 } = .next t ∧ t.power.code = 52 := by
  obtain ⟨falls, -, -⟩ := emergenciesAndSamples.1 coreManaged 608 rfl
  obtain ⟨t, run, only, fallen⟩ := falls rfl (by decide +kernel)
  obtain ⟨-, steps, -⟩ := emergenciesAndSamples.1 { coreManaged with power := fallenPower coreManaged.power 608 } 608 rfl
  obtain ⟨-, -, ends⟩ := emergenciesAndSamples.1 { coreManaged with power := fallenPower coreManaged.power 608 } 0 rfl
  obtain ⟨u, ended, stands⟩ := ends rfl (by decide +kernel)
  exact ⟨⟨t, run, by rw [fallen]; rfl, by rw [only]; rfl⟩, steps rfl (by decide +kernel), u, ended, by rw [stands]; rfl⟩

/-- A sample is taken while the partition works, and so is a sentinel that has grown by 0.4 %. -/
theorem coreManaged_samples :
    (∃ t, exec (.powerSample ⟨5000, 6000, [400], 2000, 30, 0, 24, false, false⟩) coreManaged = .next t ∧ t.power.tjMax = 400 ∧ t.power.code = 68) ∧
      ∃ t, exec (.sentinelMeasure [(3, 40)]) coreManaged = .next t ∧ Sparse.get 0 t.power.sentinels 3 = 40 := by
  obtain ⟨-, samples, sweeps⟩ := emergenciesAndSamples
  obtain ⟨t, run, -, code, -, -, hottest, -⟩ := samples coreManaged ⟨5000, 6000, [400], 2000, 30, 0, 24, false, false⟩ rfl rfl rfl
    (by decide +kernel) (by decide) (by decide +kernel)
  have small (j : Nat) : (if j = 3 then 40 else Sparse.get 0 coreManaged.power.sentinels j) ≤ 40 := by
    split
    · exact Nat.le_refl 40
    · exact Nat.zero_le 40
  obtain ⟨u, sweep, -, sentinels, -⟩ := sweeps coreManaged 3 40 (by decide) (by decide) rfl rfl (fun e drained => nomatch drained)
    fun b _ => Nat.le_trans (Nat.max_le.2 ⟨small _, small _⟩) (by omega)
  exact ⟨⟨t, run, hottest, code⟩, u, sweep, sentinels 3⟩

end Sys2Proof.Machine
end

section
/-! HALT_IN and the TAP (R440, R446), clock crossings (R437, R439, R441), and O29 and O30. -/
namespace Sys2Proof.Machine

/-! ### HALT_IN -/

/-- Whether a machine is calm does not depend on its pins and crossings. -/
theorem calm_sys (s : State) (x : Sys) : calm { s with sys := x } = calm s := rfl

/-- HALT_IN and its counts after an accepted change. -/
def haltTaken (x : Sys) (level : Bool) (k : Nat) : Sys :=
  { x with
    haltRaw := level, halt := level, haltAccepted := min 65535 (x.haltAccepted + if level = x.halt then 0 else 1),
    haltCoalesced := min 65535 (x.haltCoalesced + k) }

/-- Settles O30: a release settles the gates, which a calm machine leaves as it is. -/
theorem haltInAndTapReset : Obligations.HaltInAndTapReset := by
  refine ⟨fun s level k released up still => ?_, fun s => rfl⟩
  have takes : haltInChange s level k = if s.sys.halt && !level then settleGates { s with sys := haltTaken s.sys level k }
      else { s with sys := haltTaken s.sys level k } := by
    simp [haltInChange, released, up, haltTaken]
  have run : exec (.haltInChange level k) s = .next (haltInChange s level k) := rfl
  rw [run, takes]
  split
  next release =>
    obtain ⟨held, low⟩ := Bool.and_eq_true_iff.1 release
    rw [settleGates_calm ((calm_sys s _).trans (still held (by simpa using low)))]
    rfl
  next => rfl

/-! ### Modules -/

/-- An enabled module of a core that is up trains where its crossing is out of reset. -/
theorem moduleTrains_trains {s : State} {m : Fin 16} (up : s.sys.coreUp = true) (enabled : (s.force 0x40000).getLsbD m.val = true)
    (crossing : .transom m ∉ s.sys.stalled) :
    moduleTrains s m = { s with sys := { s.sys with d2dTrained := s.sys.d2dTrained ||| 2 ^ m.val, d2dReady := true } } :=
  if_pos (by simp [up, enabled, crossing])

/-- Clearing a module's bit of the 16 leaves the others. -/
theorem testBit_clear (x : Nat) (m k : Fin 16) : (x &&& (0xFFFF ^^^ 2 ^ m.val)).testBit k.val = (x.testBit k.val && decide (k ≠ m)) := by
  have ones : (0xFFFF : Nat) = 2 ^ 16 - 1 := rfl
  rw [Nat.testBit_and, Nat.testBit_xor, ones, Nat.testBit_two_pow_sub_one, Nat.testBit_two_pow]
  simp [Fin.ext_iff, eq_comm]

/-! ### Stalls -/

theorem quiet_congr {s t : State} {n : Fin 16} (traps : (t.part n).traps = (s.part n).traps)
    (flights : ∀ r, (t.ring n r).flights = (s.ring n r).flights) : quiet t n = quiet s n := by
  simp only [quiet, traps, flights]

theorem flightsWhere_quiet {s : State} {n : Fin 16} (idle : quiet s n = true) (p : Flight → Bool) : flightsWhere s n p = [] := by
  simp [flightsWhere, quiet_flights idle]

/-- With nothing in flight no transfer through the Transom is cut. -/
theorem failTransom_quiet {s : State} (idle : ∀ n, quiet s n = true) : failTransom s = s := by
  refine foldl_same fun n _ => ?_
  rw [flightsWhere_quiet (idle n)]
  exact settle_atRest (quiet_atRest (idle n))

/-- What a stall of a crossing leaves in CDC_STALL_LAST and EVT_STATUS of a core that is up, and the reset in which it holds the crossing (R439). -/
def stallNoted (s : State) (x : Crossing) : State :=
  { s with
    evtStatus := s.evtStatus ||| 2 ^ 3,
    sys := { s.sys with
      stallClass := (crossingCode x).1, stallIndex := (crossingCode x).2, stallCount := min 65535 (s.sys.stallCount + 1),
      stalled := s.sys.stalled ++ [x] } }

/-- A stall of a crossing other than that of PCI Express: it is noted, the host is told, and the result of its class follows. -/
theorem cdcStall_notes {s : State} {x : Crossing} (up : s.sys.coreUp = true) (watched : monitored s x = true) (released : x ∉ s.sys.stalled)
    (notPcie : x ≠ .pcie) :
    ∃ fns host out, cdcStall s x = stallResult { stallNoted s x with fns := fns, host := host, out := out } x ∧
      ∀ n r, (fns[n].rings[r]).flights = (s.ring n r).flights := by
  have stalls : cdcStall s x = stallResult { stallEvent (noteStall s x) x with
      sys := { (stallEvent (noteStall s x) x).sys with stalled := (stallEvent (noteStall s x) x).sys.stalled ++ [x] } } x := by
    simp [cdcStall, watched, released, notPcie]
  have noted : noteStall s x = { s with evtStatus := s.evtStatus ||| 2 ^ 3, sys := { s.sys with
      stallClass := (crossingCode x).1, stallIndex := (crossingCode x).2, stallCount := min 65535 (s.sys.stallCount + 1) } } := if_pos up
  obtain ⟨frame, flights⟩ : Reports (noteStall s x) (stallEvent (noteStall s x) x) := ((Tells.refl (noteStall s x)).event ..).toReports
  generalize stallEvent (noteStall s x) x = u at stalls frame flights
  rw [noted] at frame flights
  refine ⟨u.fns, u.host, u.out, ?_, flights⟩
  rw [stalls, frame]
  rfl

theorem exec_cdcStall_mgmt {s : State} (up : s.sys.coreUp = true) (watched : monitored s .mgmt = true) (released : .mgmt ∉ s.sys.stalled) :
    ∃ fns host out, exec (.cdcStall .mgmt) s = .next { stallNoted s .mgmt with
      fns := fns, host := host, out := out, sys := { (stallNoted s .mgmt).sys with mgmtFallback := true } } := by
  obtain ⟨fns, host, out, stalls, -⟩ := cdcStall_notes up watched released Crossing.noConfusion
  exact ⟨fns, host, out, congrArg Host.Outcome.next stalls⟩

theorem exec_cdcStall_transom {s : State} {m : Fin 16} (up : s.sys.coreUp = true) (idle : ∀ n, quiet s n = true)
    (watched : monitored s (.transom m) = true) (released : .transom m ∉ s.sys.stalled) :
    ∃ fns host out ready, exec (.cdcStall (.transom m)) s = .next { stallNoted s (.transom m) with
      fns := fns, host := host, out := out, sys := { (stallNoted s (.transom m)).sys with
        d2dTrained := s.sys.d2dTrained &&& (0xFFFF ^^^ 2 ^ m.val), d2dReady := ready } } := by
  obtain ⟨fns, host, out, stalls, flights⟩ := cdcStall_notes up watched released Crossing.noConfusion
  have run : exec (.cdcStall (.transom m)) s = .next _ := congrArg Host.Outcome.next stalls
  refine ⟨fns, host, out, _, run.trans (congrArg Host.Outcome.next (failTransom_quiet fun n => ?_))⟩
  refine Eq.trans (quiet_congr (s := s) ?_ ?_) (idle n)
  · rfl
  · exact flights n

/-- Settles O29: a module trains alone, a stall is noted and has its result, and a release and a change of mode filter their lists. -/
theorem crossingsTrainStallAndReturn : Obligations.CrossingsTrainStallAndReturn := by
  refine ⟨fun s m c row up enabled crossing => ?_, fun s up idle => ⟨fun watched released => ?_, fun m watched released => ?_⟩,
    fun s x => ⟨?_, fun pending => ?_⟩⟩
  · have trains : (.next (moduleTrains s m) : Result) = .next _ := congrArg _ (moduleTrains_trains up enabled crossing)
    simp only [List.mem_cons, List.not_mem_nil, or_false] at row
    rcases row with rfl | rfl <;> exact trains
  · obtain ⟨fns, host, out, run⟩ := exec_cdcStall_mgmt up watched released
    exact ⟨_, run, rfl, rfl, rfl, rfl, rfl, rfl, rfl, rfl, rfl⟩
  · obtain ⟨fns, host, out, ready, run⟩ := exec_cdcStall_transom up idle watched released
    refine ⟨_, run, ?_, rfl, fun k other => ?_, rfl, rfl, rfl, rfl, rfl, rfl, rfl⟩
    · exact (testBit_clear _ m m).trans (by simp)
    · exact (testBit_clear _ m k).trans (by simp [other])
  · exact ⟨_, rfl, rfl, fun y => by simp⟩
  · have run : exec (.crossingDrained x) s = .next { s with sys := { s.sys with
        modePending := s.sys.modePending.filter fun y => y != x,
        compat := s.sys.compat.filter (fun y => y != x) ++ if wantsCompat s x then [x] else [] } } :=
      congrArg Host.Outcome.next (if_pos (by simpa using pending))
    refine ⟨_, run, rfl, by simp, ?_, fun y other => ⟨?_, by simp [other]⟩⟩
    · cases wantsCompat s x <;> simp
    · cases wantsCompat s x <;> simp [other]

/-! ### Cores that meet the hypotheses -/

/-- The running core with module 0 trained, and PCI Express about to change its mode. -/
def coreCrosses : State := { coreRuns with sys := { coreRuns.sys with d2dTrained := 1, d2dReady := true, modePending := [.pcie] } }

/-- O29's hypotheses are met: module 2 trains, two clocks stop, and the empty crossing keeps its mode. -/
theorem coreCrosses_moves :
    (∃ t, exec (.transomRetrain 2 true) coreCrosses = .next t ∧ t.sys.d2dTrained = 5) ∧
      (∃ t, exec (.cdcStall .mgmt) coreCrosses = .next t ∧ t.sys.stallCount = 1) ∧
      (∃ t, exec (.cdcStall (.transom 0)) coreCrosses = .next t ∧ t.sys.stallClass = 2) ∧
      ∃ t, exec (.crossingDrained .pcie) coreCrosses = .next t ∧ .pcie ∉ t.sys.modePending := by
  obtain ⟨trains, stalls, crossings⟩ := crossingsTrainStallAndReturn
  obtain ⟨mgmt, transom⟩ := stalls coreCrosses rfl (by decide +kernel)
  obtain ⟨t, port, -, -, -, -, count, -⟩ := mgmt (by decide +kernel) (by decide +kernel)
  obtain ⟨u, module, -, -, -, number, -⟩ := transom 0 (by decide +kernel) (by decide +kernel)
  obtain ⟨-, drains⟩ := crossings coreCrosses .pcie
  obtain ⟨v, drained, -, done, -⟩ := drains (by decide +kernel)
  exact ⟨⟨_, trains coreCrosses 2 _ (by simp) rfl (by decide +kernel) (by decide +kernel), rfl⟩, ⟨t, port, by rw [count]; rfl⟩, ⟨u, module, number⟩, v,
    drained, done⟩

/-- O30's hypotheses are met: HALT_IN rises on the running core, after three changes that the dwell absorbed. -/
theorem coreRuns_halts : ∃ t, exec (.haltInChange true 3) coreRuns = .next t ∧ t.sys.halt = true ∧ t.sys.haltCoalesced = 3 :=
  ⟨_, haltInAndTapReset.1 coreRuns true 3 rfl rfl (fun _ low => Bool.noConfusion low), rfl, rfl⟩

end Sys2Proof.Machine
end

section
/-! What only ends work: operations after which no more waits at a gate than before, so that a calm machine stays calm. -/
namespace Sys2Proof.Machine

/-! ### Work that only ends -/

/-- The flight `g` is the flight `f`, or what `f` is once its work has ended. -/
def Flight.Ends (f g : Flight) : Prop := g.d = f.d ∧ (g.phase = f.phase ∨ g.phase = .done)

theorem Flight.Ends.refl (f : Flight) : f.Ends f := ⟨rfl, .inl rfl⟩

theorem Flight.Ends.trans {f g h : Flight} (first : f.Ends g) (second : g.Ends h) : f.Ends h :=
  ⟨second.1.trans first.1, second.2.elim (fun same => same ▸ first.2) .inr⟩

/-- Every flight of the ring `y` comes from one of the ring `x`. -/
def Ring.Ends (x y : Ring) : Prop := ∀ g ∈ y.flights, ∃ f ∈ x.flights, f.Ends g

theorem Ring.Ends.of_same {x y : Ring} (same : y.flights = x.flights) : x.Ends y := fun g mem => ⟨g, same ▸ mem, .refl g⟩

theorem Ring.Ends.trans {x y z : Ring} (first : x.Ends y) (second : y.Ends z) : x.Ends z := fun h mem =>
  have ⟨g, memG, ends⟩ := second h mem
  have ⟨f, memF, earlier⟩ := first g memG
  ⟨f, memF, earlier.trans ends⟩

/-- The Shutter closes for a function reset. -/
def Part.Resetting (p : Part) : Prop := p.shutter = .closing ∧ p.reason = .functionReset

/-- The fields of a partition that say what waits at its gate, and the state of its Shutter. -/
def Part.atGate (p : Part) : Shutter × Reason × List (Nat × Nat × Nat) × Bool × Bool × List GateReq :=
  (p.shutter, p.reason, p.traps, p.cfgPending, p.snapPending, p.reqs)

/-- From `p` to `q` the Shutter stands or has begun to close for a function reset, and no more waits at the gate. -/
structure Part.Ends (p q : Part) : Prop where
  shutter : (q.shutter = p.shutter ∧ q.reason = p.reason) ∨ q.Resetting
  traps : p.traps = [] → q.traps = []
  config : p.cfgPending = false → q.cfgPending = false
  snapshot : p.snapPending = false → q.snapPending = false
  requests : p.reqs = [] → q.reqs = []

namespace Part.Ends

variable {p q r : Part}

theorem of_same (same : q.atGate = p.atGate) : p.Ends q := by
  simp only [Part.atGate, Prod.mk.injEq] at same
  obtain ⟨shutter, reason, traps, config, snapshot, requests⟩ := same
  exact ⟨.inl ⟨shutter, reason⟩, traps.trans, config.trans, snapshot.trans, requests.trans⟩

theorem refl (p : Part) : p.Ends p := of_same rfl

theorem resetting (h : p.Ends q) (closing : p.Resetting) : q.Resetting :=
  h.shutter.elim (fun ⟨shutter, reason⟩ => ⟨shutter.trans closing.1, reason.trans closing.2⟩) id

theorem trans (h : p.Ends q) (k : q.Ends r) : p.Ends r where
  shutter := k.shutter.elim (fun ⟨shutter, reason⟩ => h.shutter.elim
    (fun ⟨before, why⟩ => .inl ⟨shutter.trans before, reason.trans why⟩)
    fun closing => .inr (k.resetting closing)) .inr
  traps none := k.traps (h.traps none)
  config none := k.config (h.config none)
  snapshot none := k.snapshot (h.snapshot none)
  requests none := k.requests (h.requests none)

end Part.Ends

/-- From `s` to `t` work has only ended: what decides whether a gate has something to do is as it was, or has gone. -/
structure WindsDown (s t : State) : Prop where
  sys : t.sys = s.sys
  cfg : t.cfg = s.cfg
  power : t.power = s.power
  lcs : t.lcs = s.lcs
  part : ∀ m, (s.part m).Ends (t.part m)
  ring : ∀ m k, (s.ring m k).Ends (t.ring m k)

namespace WindsDown

variable {s t u : State}

theorem of_units (sys : t.sys = s.sys) (cfg : t.cfg = s.cfg) (power : t.power = s.power) (lcs : t.lcs = s.lcs) (parts : t.parts = s.parts)
    (flights : ∀ m k, (t.ring m k).flights = (s.ring m k).flights) : WindsDown s t :=
  ⟨sys, cfg, power, lcs, fun m => part_of_parts parts m ▸ .refl _, fun m k => .of_same (flights m k)⟩

theorem refl (s : State) : WindsDown s s := of_units rfl rfl rfl rfl rfl fun _ _ => rfl

theorem trans (h : WindsDown s t) (k : WindsDown t u) : WindsDown s u where
  sys := k.sys.trans h.sys
  cfg := k.cfg.trans h.cfg
  power := k.power.trans h.power
  lcs := k.lcs.trans h.lcs
  part m := (h.part m).trans (k.part m)
  ring m r := (h.ring m r).trans (k.ring m r)

theorem foldl {α : Type} {op : State → α → State} (each : ∀ s a, WindsDown s (op s a)) (l : List α) (s : State) : WindsDown s (l.foldl op s) :=
  List.foldlRecOn l op (.refl s) fun t h a _ => h.trans (each t a)

theorem of_reports (h : Reports s t) : WindsDown s t := by
  rw [h.frame]
  exact of_units rfl rfl rfl rfl rfl h.flights

theorem modPart (s : State) (n : Fin 16) {f : Part → Part} (ends : ∀ p : Part, p.Ends (f p)) : WindsDown s (s.modPart n f) where
  sys := rfl
  cfg := rfl
  power := rfl
  lcs := rfl
  part m := by
    by_cases same : m = n
    · rw [same, State.part_modPart_same]
      exact ends _
    · rw [State.part_modPart_other s f same]
      exact .refl _
  ring _ _ := .of_same rfl

/-- A change of a partition's record that keeps what concerns its gate. -/
theorem modPart_same (s : State) (n : Fin 16) {f : Part → Part} (same : ∀ p, (f p).atGate = p.atGate) : WindsDown s (s.modPart n f) :=
  modPart s n fun p => .of_same (same p)

theorem modFn (s : State) (n : Fin 16) {g : Fn → Fn} (ends : ∀ (f : Fn) (k : Fin 8), f.rings[k].Ends (g f).rings[k]) :
    WindsDown s (s.modFn n g) where
  sys := rfl
  cfg := rfl
  power := rfl
  lcs := rfl
  part m := .refl _
  ring m k := by
    by_cases same : m = n
    · subst same
      simp only [State.ring, State.fn_modFn_same]
      exact ends _ k
    · simp only [State.ring, State.fn_modFn_other s g same]
      exact .of_same rfl

theorem modRing (s : State) (n : Fin 16) (r : Fin 8) {g : Ring → Ring} (ends : ∀ x : Ring, x.Ends (g x)) : WindsDown s (s.modRing n r g) where
  sys := rfl
  cfg := rfl
  power := rfl
  lcs := rfl
  part m := .refl _
  ring m k := by
    by_cases fn : m = n
    · subst fn
      by_cases ring : k = r
      · rw [ring, State.ring_modRing_same]
        exact ends _
      · rw [State.ring_modRing_other s m g ring]
        exact .of_same rfl
    · rw [State.ring_modRing_otherFn s r k g fn]
      exact .of_same rfl

theorem atRest (h : WindsDown s t) {m : Fin 16} (rest : Sys2Proof.atRest s m = true) : Sys2Proof.atRest t m = true := by
  rw [atRest_iff] at rest ⊢
  refine ⟨(h.part m).traps rest.1, fun r g mem => ?_⟩
  obtain ⟨f, memF, desc, phase⟩ := h.ring m r g mem
  obtain ⟨notWaiting, notGate, notFence⟩ := rest.2 r f memF
  rw [desc]
  rcases phase with same | done
  · rw [same]
    exact ⟨notWaiting, notGate, notFence⟩
  · rw [done]
    exact ⟨by decide, by decide, notFence⟩

end WindsDown

/-- Partitions at rest hold nothing at their gates. -/
theorem gateFlights_atRest {s : State} {n : Fin 16} (rest : atRest s n = true) : gateFlights s n = [] := by
  simp only [gateFlights, flightsWhere, List.map_eq_nil_iff, List.flatMap_eq_nil_iff, List.filter_eq_nil_iff]
  intro r _ f mem
  simp [((atRest_iff.1 rest).2 r f mem).2.1]

/-- A gate has nothing to do but for these requests. -/
theorem hasRequests_atRest {s : State} {n : Fin 16} (rest : atRest s n = true) : hasRequests s n = false ↔
    ((s.part n).snapPending && s.lcs.fwUp) = false ∧ (s.part n).cfgPending = false ∧ (s.part n).reqs = [] ∧
      (s.lcs.fwUp && s.power.replan.any fun x => ownsBasin s n.val x.1) = false := by
  simp only [hasRequests, gateFlights_atRest rest, Bool.or_eq_false_iff, List.isEmpty_nil, Bool.not_true, Bool.not_eq_false',
    List.isEmpty_iff, and_assoc, and_true]

/-- Where work has only ended, a calm machine stays calm. -/
theorem WindsDown.calm {s t : State} (h : WindsDown s t) (still : calm s = true) : calm t = true := by
  simp only [Sys2Proof.calm, Bool.and_eq_true, List.all_eq_true, Bool.not_eq_true'] at still ⊢
  obtain ⟨⟨parts, inForce⟩, noTag⟩ := still
  rw [h.cfg]
  refine ⟨⟨fun m mem => ?_, inForce⟩, noTag⟩
  obtain ⟨rest, none⟩ := parts m mem
  have stays := h.atRest rest
  refine ⟨stays, (hasRequests_atRest stays).2 ?_⟩
  obtain ⟨snap, config, requests, taps⟩ := (hasRequests_atRest rest).1 none
  have range : partRange t m.val = partRange s m.val := by simp only [partRange, State.force, h.cfg]
  have owns (b : Nat) : ownsBasin t m.val b = ownsBasin s m.val b := by
    unfold ownsBasin
    rw [range]
  refine ⟨?_, (h.part m).config config, (h.part m).requests requests, by simpa only [h.lcs, h.power, owns] using taps⟩
  rw [h.lcs]
  cases fw : s.lcs.fwUp with
  | false => rw [Bool.and_false]
  | true => rw [(h.part m).snapshot (by simpa [fw] using snap), Bool.false_and]

end Sys2Proof.Machine
end

section
/-! A function reset and the loss of the host link only end work (R26, R390, R393): each of their operations winds the machine down. -/
namespace Sys2Proof.Machine

/-! ### Memories and ports -/

theorem writeByte_windsDown (s : State) (a : Nat) (b : Byte) : WindsDown s (writeByte s a b) := by
  unfold writeByte
  split
  · split <;> exact .of_units rfl rfl rfl rfl rfl fun _ _ => rfl
  all_goals exact .of_units rfl rfl rfl rfl rfl fun _ _ => rfl

theorem memWrite_windsDown (s : State) (a : Nat) (bs : List Byte) : WindsDown s (memWrite s a bs) := by
  induction bs generalizing s a with
  | nil => exact .refl s
  | cons b bs ih => exact (writeByte_windsDown s a b).trans (ih (writeByte s a b) (a + 1))

theorem stepWrite_windsDown (s : State) (n : Fin 16) (st : Option Nat) (a : Nat) (bs : List Byte) : WindsDown s (stepWrite s n st a bs) := by
  have posted : WindsDown s (if spaceOf a == 8 && !bs.isEmpty then
      (memWrite s a bs).post n (s.fn n).devctl.relaxed .data (a % 2 ^ 44) bs else memWrite s a bs) := by
    split
    · exact (memWrite_windsDown s a bs).trans (.of_units rfl rfl rfl rfl rfl fun _ _ => rfl)
    · exact memWrite_windsDown s a bs
  unfold stepWrite
  dsimp only
  split
  · exact posted
  · split
    · exact posted.trans (.modPart_same _ n fun _ => rfl)
    · exact posted

theorem draw_windsDown (s : State) : WindsDown s s.draw.2 := .of_units rfl rfl rfl rfl rfl fun _ _ => rfl

theorem scramble_windsDown (s : State) (n : Fin 16) (st : Option Nat) (rs : List (Nat × Nat)) : WindsDown s (scramble s n st rs) := by
  refine WindsDown.foldl (fun t r => ?_) rs s
  refine WindsDown.foldl (fun u i => ?_) _ t
  exact (draw_windsDown u).trans (stepWrite_windsDown u.draw.2 n st (r.1 + i) _)

theorem scrambleWords_windsDown (s : State) (ws : List Nat) : WindsDown s (scrambleWords s ws) := by
  refine WindsDown.foldl (fun _ _ => ?_) ws s
  exact .of_units rfl rfl rfl rfl rfl fun _ _ => rfl

theorem modPort_windsDown (s : State) (q : Fin 24) (f : Port → Port) : WindsDown s (s.modPort q f) :=
  .of_units rfl rfl rfl rfl rfl fun _ _ => rfl

theorem sendParcel_windsDown (s : State) (q : Fin 24) (n : Fin 16) (step vl : Nat) (fields : List (Nat × Nat × Nat × Nat)) (payload : List Byte) :
    WindsDown s (sendParcel s q n step vl fields payload) := by
  unfold sendParcel
  dsimp only
  split
  · exact .refl s
  · exact (modPort_windsDown ..).trans (modPort_windsDown ..)

/-! ### Steps and ports that fail -/

theorem modStep_windsDown (s : State) (n : Fin 16) (k : Nat) (f : StepRec → StepRec) : WindsDown s (modStep s n k f) :=
  .modPart_same s n fun _ => rfl

theorem abortStep_windsDown (s : State) (n : Fin 16) (k : Nat) : WindsDown s (abortStep s n k) := by
  unfold abortStep
  split
  · split
    · exact (modStep_windsDown ..).trans (.of_reports (completeSeals_reports ..))
    · exact .refl s
  · exact .refl s

theorem abortSteps_windsDown (s : State) (n : Fin 16) (sel : Nat → Bool) : WindsDown s (abortSteps s n sel) := by
  refine WindsDown.foldl (fun t r => ?_) _ s
  exact abortStep_windsDown t n r.n

theorem holdPlace_windsDown (s : State) (n : Fin 16) (r : Fin 8) : WindsDown s (holdPlace s n r) := by
  unfold holdPlace
  split
  · exact .modRing s n r fun _ => .of_same rfl
  · exact .refl s

/-- A STEP_OPEN that a gate held ends ABORTED. -/
theorem abortHeld_windsDown (s : State) (n : Fin 16) : WindsDown s (abortHeld s n) := by
  refine WindsDown.foldl (fun t r => (holdPlace_windsDown t n r).trans (.modRing _ n r fun x g mem => ?_)) allRings s
  obtain ⟨f, memF, rfl⟩ := List.mem_map.1 mem
  refine ⟨f, memF, ?_⟩
  split
  · exact ⟨rfl, .inr rfl⟩
  · exact .refl f

theorem failStep_windsDown (s : State) (n : Fin 16) (k bits : Nat) : WindsDown s (failStep s n k bits) := by
  have held : ∀ t, WindsDown t (if (s.part n).openStep.isNone then abortHeld t n else t) := by
    intro t
    split
    · exact abortHeld_windsDown ..
    · exact .refl t
  unfold failStep
  split
  · split
    · refine WindsDown.trans ?_ (held _)
      refine WindsDown.trans ?_ (.modPart_same _ n fun _ => rfl)
      refine WindsDown.trans ?_ (abortSteps_windsDown ..)
      exact (modStep_windsDown ..).trans (.of_reports (completeSeals_reports ..))
    · exact modStep_windsDown ..
    · exact .refl s
  · exact .refl s

theorem loseUnverified_windsDown (s : State) (q : Fin 24) : WindsDown s (loseUnverified s q) := by
  refine (modPort_windsDown ..).trans (WindsDown.foldl (fun t x => ?_) _ _)
  split
  · exact .refl t
  · exact failStep_windsDown ..

theorem leavePort_windsDown (s : State) (q : Fin 24) (flag : Bool) : WindsDown s (leavePort s q flag) :=
  (loseUnverified_windsDown s q).trans (modPort_windsDown ..)

theorem leaveSluices_windsDown (s : State) (n : Fin 16) : WindsDown s (leaveSluices s n) := by
  refine WindsDown.foldl (fun t q => ?_) allPorts s
  dsimp only
  split
  · exact leavePort_windsDown ..
  · exact .refl t

/-! ### Collectives -/

theorem spoilColl_windsDown (s : State) (n : Fin 16) (r : Fin 8) (f : Flight) : WindsDown s (spoilColl s n r f) := by
  refine WindsDown.trans ?_ (scrambleWords_windsDown ..)
  refine WindsDown.trans ?_ (scramble_windsDown ..)
  exact .of_units rfl rfl rfl rfl rfl fun _ _ => rfl

theorem sendControl_windsDown (s : State) (n : Fin 16) (f : Flight) (c : Coll) (kind plane port : Nat) :
    WindsDown s (sendControl s n f c kind plane port) := by
  unfold sendControl
  dsimp only
  split
  · exact .refl s
  · exact sendParcel_windsDown ..

theorem sendAborts_windsDown (s : State) (n : Fin 16) (f : Flight) (skip : Option Nat) (kind : Nat) : WindsDown s (sendAborts s n f skip kind) := by
  unfold sendAborts
  split
  · refine WindsDown.foldl (fun _ _ => ?_) _ s
    exact sendControl_windsDown ..
  · exact .refl s

theorem closePlanes_windsDown (s : State) (n : Fin 16) (f : Flight) (c : Coll) : WindsDown s (closePlanes s n f c) := by
  refine WindsDown.foldl (fun t _ => ?_) _ s
  exact .modPart_same t n fun _ => rfl

/-! ### Closures -/

theorem dropLaneOps_windsDown (s : State) (n : Fin 16) : WindsDown s (dropLaneOps s n) := by
  refine WindsDown.trans ?_ (scrambleWords_windsDown ..)
  exact .of_units rfl rfl rfl rfl rfl fun _ _ => rfl

theorem endSnapRequest_windsDown (s : State) (n : Fin 16) (ok : Bool) : WindsDown s (endSnapRequest s n ok) := by
  unfold endSnapRequest
  split
  · exact .of_units rfl rfl rfl rfl rfl fun _ _ => rfl
  · exact .refl s

theorem drains_windsDown (s : State) (keep : Nat × Drain → Bool) : WindsDown s { s with drains := s.drains.filter keep } :=
  .of_units rfl rfl rfl rfl rfl fun _ _ => rfl

/-- Steps 1 to 3 of R26: the requests at the gate are discarded, and no request is made. -/
theorem stopWork_windsDown (s : State) (n : Fin 16) : WindsDown s (stopWork s n) := by
  have collectives : ∀ (t : State) (x : Fin 8 × Flight), WindsDown t
      (match x.2.coll with | some c => closePlanes (sendAborts t n x.2 none 2) n x.2 c | none => sendAborts t n x.2 none 2) := by
    intro t x
    split
    · exact (sendAborts_windsDown ..).trans (closePlanes_windsDown ..)
    · exact sendAborts_windsDown ..
  have snapshot : ∀ t, WindsDown t (if (s.part n).snapPending then endSnapRequest t n false else t) := by
    intro t
    split
    · exact endSnapRequest_windsDown ..
    · exact .refl t
  have discarded : ∀ t : State, WindsDown t (t.modPart n fun p => { p with
      handles := (p.handles.filter fun h => h.carry).map fun h => { h with closing := false }, tiles := [], reqs := [], snapPending := false }) :=
    fun t => .modPart t n fun _ => ⟨.inl ⟨rfl, rfl⟩, id, id, fun _ => rfl, fun _ => rfl⟩
  unfold stopWork
  refine WindsDown.trans ?_ (discarded _)
  refine WindsDown.trans ?_ (drains_windsDown _ fun e => e.2.tag.fn != n.val)
  refine WindsDown.trans ?_ (snapshot _)
  refine WindsDown.trans ?_ (dropLaneOps_windsDown ..)
  refine WindsDown.trans ?_ (WindsDown.foldl (fun _ _ => spoilColl_windsDown ..) _ _)
  exact WindsDown.foldl collectives _ s


theorem resetWork_windsDown (s : State) (n : Fin 16) : WindsDown s (resetWork s n) := by
  unfold resetWork
  refine WindsDown.trans ?_ (.modPart_same _ n fun _ => rfl)
  refine (leaveSluices_windsDown s n).trans (.modFn _ n fun f k g mem => ?_)
  simp only [Fin.getElem_fin, Vector.getElem_map, List.not_mem_nil] at mem

/-! ### Function resets -/

/-- A closure for a function reset, of a Shutter that is OPEN (R26). -/
theorem requestClosure_open {s : State} {n : Fin 16} (opened : (s.part n).shutter = .open_) : requestClosure s n .functionReset none 0 0 0 =
    resetWork ((stopWork s n).modPart n fun p => { p with shutter := .closing, reason := .functionReset }) n := by
  unfold requestClosure
  dsimp only
  rw [opened]

/-- A closure for a function reset that is under way already is not asked for again. -/
theorem requestClosure_resetting {s : State} {n : Fin 16} (closing : (s.part n).Resetting) : requestClosure s n .functionReset none 0 0 0 = s := by
  unfold requestClosure
  dsimp only
  rw [closing.1, closing.2]

/-- A function reset of a partition that is OPEN, or that closes for one: work ends, and the Shutter closes for it (R26, R390). -/
theorem functionReset_windsDown {s : State} {n : Fin 16} (may : (s.part n).shutter = .open_ ∨ (s.part n).Resetting) :
    WindsDown s (functionReset s n) ∧ ((functionReset s n).part n).Resetting := by
  unfold functionReset
  dsimp only
  rcases may with opened | closing
  · rw [if_neg (by simp [opened])]
    have wiped : WindsDown s (s.modPart n fun p => { p with wipeRange := [partRange s n.val] }) := .modPart_same s n fun _ => rfl
    have still : ((s.modPart n fun p => { p with wipeRange := [partRange s n.val] }).part n).shutter = .open_ := by
      rw [State.part_modPart_same]
      exact opened
    rw [requestClosure_open still]
    have closes (t : State) : WindsDown t (t.modPart n fun p => { p with shutter := .closing, reason := .functionReset }) :=
      .modPart t n fun _ => ⟨.inr ⟨rfl, rfl⟩, id, id, id, id⟩
    refine ⟨(wiped.trans (stopWork_windsDown _ n)).trans ((closes _).trans (resetWork_windsDown _ n)), ?_⟩
    refine ((resetWork_windsDown _ n).part n).resetting ?_
    rw [State.part_modPart_same]
    exact ⟨rfl, rfl⟩
  · rw [if_pos (by simp [closing.1, closing.2]), requestClosure_resetting closing]
    exact ⟨.refl s, closing⟩

/-- Resets of a list of functions whose Shutters are OPEN or close for one: each of them closes its own. -/
theorem foldl_functionReset_windsDown (l : List (Fin 16)) {s : State} (may : ∀ n, (s.part n).shutter = .open_ ∨ (s.part n).Resetting) :
    WindsDown s (l.foldl functionReset s) ∧ ∀ n ∈ l, ((l.foldl functionReset s).part n).Resetting := by
  induction l generalizing s with
  | nil => exact ⟨.refl s, fun n mem => absurd mem List.not_mem_nil⟩
  | cons m l ih =>
    obtain ⟨down, reset⟩ := functionReset_windsDown (may m)
    have stillMay : ∀ n, ((functionReset s m).part n).shutter = .open_ ∨ ((functionReset s m).part n).Resetting := fun n =>
      (may n).elim (fun opened => (down.part n).shutter.imp_left fun same => same.1.trans opened)
        fun closing => .inr ((down.part n).resetting closing)
    obtain ⟨rest, each⟩ := ih stillMay
    refine ⟨down.trans rest, fun n mem => ?_⟩
    rcases List.mem_cons.1 mem with rfl | later
    · exact (rest.part n).resetting reset
    · exact each n later

/-! ### The host link goes down (R393) -/

theorem spoilOutside_windsDown (s : State) (n : Fin 16) : WindsDown s (spoilOutside s n) := by
  refine WindsDown.foldl (fun _ _ => ?_) _ s
  exact scramble_windsDown ..

theorem resetConfig_windsDown (s : State) (n : Fin 16) : WindsDown s (resetConfig s n) := .modFn s n fun _ _ => .of_same rfl

/-- The configuration space of the functions of a list is reset, and no other function's enters D3hot. -/
theorem foldl_resetConfig_d3hot (l : List (Fin 16)) (s : State) (n : Fin 16) (may : n ∈ l ∨ (s.fn n).d3hot = false) :
    ((l.foldl resetConfig s).fn n).d3hot = false := by
  induction l generalizing s with
  | nil => exact may.resolve_left List.not_mem_nil
  | cons m l ih =>
    refine ih (resetConfig s m) ?_
    by_cases same : n = m
    · subst same
      exact .inr (congrArg Fn.d3hot (State.fn_modFn_same s n _))
    · refine may.imp (fun mem => (List.mem_cons.1 mem).resolve_left same) fun already => ?_
      rw [resetConfig, State.fn_modFn_other s _ same]
      exact already

/-- What is left of a machine at its gates once the link is lost: no function is in D3hot, every function that existed resets, and nothing more waits. -/
theorem linkLost_spec {s : State} (up : s.sys.linkUp = true) (opened : ∀ n, (s.part n).shutter = .open_) :
    (linkLost s).sys = { s.sys with linkUp := false, vfEnable := false } ∧ (∀ n, ((linkLost s).fn n).d3hot = false) ∧
      (∀ n, fnExists s n = true → ((linkLost s).part n).Resetting) ∧ (calm s = true → calm (linkLost s) = true) := by
  unfold linkLost
  rw [if_pos up]
  dsimp only
  have spoiled := WindsDown.foldl spoilOutside_windsDown allParts { s with sys := { s.sys with linkUp := false } }
  generalize allParts.foldl spoilOutside { s with sys := { s.sys with linkUp := false } } = t at spoiled
  obtain ⟨reset, each⟩ := foldl_functionReset_windsDown (allParts.filter (fnExists s)) (s := t) fun n =>
    (spoiled.part n).shutter.imp_left fun same => same.1.trans (opened n)
  have down := spoiled.trans reset
  generalize (allParts.filter (fnExists s)).foldl functionReset t = u at each down
  have cleared := WindsDown.foldl resetConfig_windsDown allParts { u with sys := { u.sys with vfEnable := false } }
  refine ⟨?_, fun n => foldl_resetConfig_d3hot allParts _ n (.inl (mem_allParts n)), fun n exist => ?_, fun still => ?_⟩
  · rw [cleared.sys]
    exact congrArg (fun x : Sys => { x with vfEnable := false }) down.sys
  · exact (cleared.part n).resetting (each n (List.mem_filter.2 ⟨mem_allParts n, exist⟩))
  · refine cleared.calm ((calm_sys u _).trans (down.calm ?_))
    exact (calm_sys s _).trans still

end Sys2Proof.Machine
end

section
/-! The host link (R393, R441) and configuration requests (R356, R357, R445), and O25. -/
namespace Sys2Proof.Machine

/-! ### Configuration requests -/

/-- A core that is ready, its link up, is left as it is. -/
theorem coreReady_ready {s : State} (ready : s.sys.ready = true) (up : s.sys.linkUp = true) : coreReady s = s := by
  have same (x : Sys) (r : x.ready = true) (l : x.linkUp = true) : { x with ready := true, linkUp := true } = x := by
    cases x
    simp_all
  unfold coreReady
  rw [up, Bool.true_or, same s.sys ready up]

/-- A configuration request reaches a core that is up, out of both resets and beside a running PCIe clock, over a link that a ready core has up (R444, R445). -/
def configArrives (s : State) : Bool :=
  !(s.sys.porst || s.sys.perst || !s.sys.coreUp || s.sys.stalled.contains .pcie || (s.sys.ready && !s.sys.linkUp))

theorem configArrives_of {s : State} (porst : s.sys.porst = false) (perst : s.sys.perst = false) (coreUp : s.sys.coreUp = true)
    (running : .pcie ∉ s.sys.stalled) (link : s.sys.ready = true → s.sys.linkUp = true) : configArrives s = true := by
  have noStall : s.sys.stalled.contains .pcie = false := by simpa using running
  simp only [configArrives, porst, perst, coreUp, noStall]
  cases ready : s.sys.ready with
  | false => rfl
  | true => rw [link ready]; rfl

/-- A ready core serves it. -/
theorem configRequest_ready {s : State} (arrives : configArrives s = true) (ready : s.sys.ready = true) (up : s.sys.linkUp = true)
    (serve : State → State) : configRequest s serve = { serve s with out := { (serve s).out with answer := 2 } } := by
  simp only [configArrives, Bool.not_eq_true'] at arrives
  unfold configRequest
  rw [if_neg (by rw [arrives]; exact Bool.false_ne_true)]
  simp only [ready, if_true, coreReady_ready ready up, Nat.one_mod, Nat.one_ne_zero, if_false]

/-- Before, it is answered Request Retry Status, or it finds the core ready. -/
theorem configRequest_notReady {s : State} (arrives : configArrives s = true) (notReady : s.sys.ready = false) (running : .pcie ∉ s.sys.stalled)
    {serve : State → State} (keeps : ∀ t, (serve t).sys = t.sys) :
    configRequest s serve = { s with draws := s.draws + 1, out := { s.out with answer := 1 } } ∨
      (configRequest s serve).sys.ready = true ∧ (configRequest s serve).sys.linkUp = true ∧ (configRequest s serve).out.answer = 2 := by
  simp only [configArrives, Bool.not_eq_true'] at arrives
  have ready (t : State) (sys : t.sys = s.sys) : (serve (coreReady t)).sys.ready = true ∧ (serve (coreReady t)).sys.linkUp = true := by
    have noStall : s.sys.stalled.contains .pcie = false := by simpa using running
    rw [keeps]
    simp only [coreReady, sys, notReady, noStall, Bool.not_false, Bool.and_self, Bool.or_true, and_self]
  unfold configRequest
  rw [if_neg (by rw [arrives]; exact Bool.false_ne_true)]
  simp only [notReady, Bool.false_eq_true, if_false]
  split
  · exact .inl rfl
  · exact .inr ⟨(ready s.draw.2 rfl).1, (ready s.draw.2 rfl).2, rfl⟩

/-! ### Registers of configuration space -/

theorem devctlWord_lt (c : DevCtl) : devctlWord c < 2 ^ 64 := by
  unfold devctlWord
  split <;> omega

/-- Device Control takes what its register shows (R356). -/
theorem devctlWrite_devctlWord (before c : DevCtl) : devctlWrite before (devctlWord c) = c := by
  obtain ⟨relaxed, payload, request⟩ := c
  have bit : (devctlWord ⟨relaxed, payload, request⟩).testBit 4 = relaxed := by
    rw [Nat.testBit_eq_decide_div_mod_eq]
    cases relaxed <;> simp only [devctlWord, if_true, Bool.false_eq_true, if_false, decide_eq_true_eq, decide_eq_false_iff_not] <;> omega
  have size : devctlWord ⟨relaxed, payload, request⟩ / 32 % 8 = payload.val := by
    cases relaxed <;> simp only [devctlWord, if_true, Bool.false_eq_true, if_false] <;> omega
  have read : devctlWord ⟨relaxed, payload, request⟩ / 4096 % 8 = request.val := by
    cases relaxed <;> simp only [devctlWord, if_true, Bool.false_eq_true, if_false] <;> omega
  simp only [devctlWrite, bit, size, read, payload.isLt, request.isLt, dite_true, Fin.eta]

/-- What a read of a function's configuration space does once it is served. -/
def configServed (n : Fin 16) (reg : ConfigReg) (s : State) : State :=
  if fnExists s n then { s with out := { s.out with readData := BitVec.ofNat 64 (configValue s n reg) } } else s

/-- What a write does. -/
def configTaken (n : Fin 16) (reg : ConfigReg) (v : BitVec 64) (s : State) : State :=
  if fnExists s n && reg == .deviceControl then s.modFn n fun f => { f with devctl := devctlWrite f.devctl v.toNat } else s

theorem exec_configRead (s : State) (n : Fin 16) (reg : ConfigReg) (off size : Nat) :
    exec (.registerRead .host (.config n reg) off size) s = .next (configRequest s (configServed n reg)) := rfl

theorem exec_configWrite (s : State) (n : Fin 16) (reg : ConfigReg) (off size : Nat) (v : BitVec 64) :
    exec (.registerWrite .host (.config n reg) off size v) s = .next (configRequest s (configTaken n reg v)) := rfl

theorem configServed_sys (n : Fin 16) (reg : ConfigReg) (s : State) : (configServed n reg s).sys = s.sys := by
  unfold configServed
  split <;> rfl

theorem configTaken_sys (n : Fin 16) (reg : ConfigReg) (v : BitVec 64) (s : State) : (configTaken n reg v s).sys = s.sys := by
  unfold configTaken
  split <;> rfl

/-- The identity is the device ID above the vendor ID (R356). -/
theorem identity_deviceId (s : State) (n : Fin 16) :
    (BitVec.ofNat 64 (configValue s n .identity)).toNat / 2 ^ 16 = if n = 0 then 0x0F22 else 0x0F23 := by
  have vendor := Config.vendorId.isLt
  simp only [configValue, BitVec.toNat_ofNat, Fin.val_eq_zero_iff]
  split <;> omega

/-- A write of Device Control to a ready core. -/
theorem exec_writeDeviceControl {s : State} (arrives : configArrives s = true) (ready : s.sys.ready = true) (up : s.sys.linkUp = true)
    {n : Fin 16} (exist : fnExists s n = true) (off size : Nat) (c : DevCtl) :
    ∃ t, exec (.registerWrite .host (.config n .deviceControl) off size (BitVec.ofNat 64 (devctlWord c))) s = .next t ∧
      onlyFn n { s with out := { s.out with answer := 2 } } t ∧ t.fn n = { s.fn n with devctl := c } := by
  have taken : configTaken n .deviceControl (BitVec.ofNat 64 (devctlWord c)) s = s.modFn n fun f => { f with devctl := c } := by
    simp only [configTaken, exist, beq_self_eq_true, Bool.and_self, if_true, BitVec.toNat_ofNat, Nat.mod_eq_of_lt (devctlWord_lt c),
      devctlWrite_devctlWord]
  rw [exec_configWrite, configRequest_ready arrives ready up, taken]
  have only := modFn_only s n fun f => { f with devctl := c }
  exact ⟨_, rfl, ⟨rfl, only.2⟩, State.fn_modFn_same s n fun f => { f with devctl := c }⟩

/-- A read of a function's configuration space from a ready core. -/
theorem exec_readConfig {s : State} (arrives : configArrives s = true) (ready : s.sys.ready = true) (up : s.sys.linkUp = true)
    {n : Fin 16} (exist : fnExists s n = true) (reg : ConfigReg) (off size : Nat) :
    exec (.registerRead .host (.config n reg) off size) s =
      .next { s with out := { s.out with answer := 2, readData := BitVec.ofNat 64 (configValue s n reg) } } := by
  rw [exec_configRead, configRequest_ready arrives ready up, configServed, if_pos exist]

/-! ### The link up and down -/

/-- The link returns, and its crossing is monitored again (R393, R441). -/
theorem exec_hostLinkUp {s : State} (ready : s.sys.ready = true) (perst : s.sys.perst = false) :
    exec .hostLinkUp s =
      .next { s with sys := { s.sys with linkUp := true, stalled := s.sys.stalled.filter fun x => x != .pcie } } :=
  congrArg Host.Outcome.next (if_pos (by simp [ready, perst]))

/-- The link of a calm machine leaves DL_Active (R393). -/
theorem exec_hostLinkDown {s : State} (up : s.sys.linkUp = true) (still : calm s = true) (opened : ∀ n, (s.part n).shutter = .open_) :
    exec .hostLinkDown s = .next (linkLost s) :=
  congrArg Host.Outcome.next (settleGates_calm ((linkLost_spec up opened).2.2.2 still))

/-- Settles O25: a request is served by a ready core, and the loss of the link only ends work, so that a calm machine stays calm. -/
theorem theHostLinkComesAndGoes : Obligations.TheHostLinkComesAndGoes := by
  unfold Obligations.TheHostLinkComesAndGoes
  refine ⟨fun s n reg off size c porst perst coreUp running => ⟨fun ready up => ?_, fun notReady r row => ?_⟩, fun s ready perst => ?_,
    fun s up still opened => ?_⟩
  · have arrives := configArrives_of porst perst coreUp running fun _ => up
    refine ⟨congrArg Host.Outcome.next (configRequest_ready arrives ready up id), fun exist => ⟨?_, ?_⟩⟩
    · exact exec_writeDeviceControl arrives ready up exist off size c
    · refine ⟨_, exec_readConfig arrives ready up exist reg off size, rfl, ?_, ?_, ?_⟩
      · rintro rfl
        exact identity_deviceId s n
      · rintro rfl
        rfl
      · rintro rfl
        rfl
  · have arrives := configArrives_of porst perst coreUp running fun ready => absurd (notReady.symm.trans ready) Bool.false_ne_true
    simp only [List.mem_cons, List.not_mem_nil, or_false] at row
    rcases row with rfl | rfl | rfl
    · exact ⟨_, rfl, configRequest_notReady arrives notReady running fun _ => rfl⟩
    · exact ⟨_, exec_configRead s n reg off size, configRequest_notReady arrives notReady running (configServed_sys n reg)⟩
    · exact ⟨_, exec_configWrite s n .deviceControl off size _, configRequest_notReady arrives notReady running (configTaken_sys n _ _)⟩
  · refine ⟨_, exec_hostLinkUp ready perst, rfl, fun x => ?_⟩
    simp only [List.mem_filter, bne_iff_ne]
  · obtain ⟨sys, d0, resetting, -⟩ := linkLost_spec up opened
    exact ⟨_, exec_hostLinkDown up still opened, congrArg Sys.linkUp sys, congrArg Sys.vfEnable sys, d0, resetting⟩

/-! ### Machines that meet the hypotheses -/

/-- A running core with VF Enable set whose committed configuration is in force. -/
def coreLinked : State := { coreRuns with sys := { coreRuns.sys with vfEnable := true }, cfg := Cfg.reset }

/-- Device Control with relaxed ordering and the largest sizes. -/
def widestControl : DevCtl := ⟨true, 2, 5⟩

/-- The first part of O25 has its hypotheses met by function 3 of a running core, and by one that is not ready yet. -/
theorem coreLinked_serves :
    (∃ t, exec (.registerWrite .host (.config 3 .deviceControl) 0 4 (BitVec.ofNat 64 (devctlWord widestControl))) coreLinked = .next t ∧
        (t.fn 3).devctl = widestControl) ∧
      (∃ t, exec (.registerRead .host (.config 3 .identity) 0 4) coreLinked = .next t ∧ t.out.readData.toNat / 2 ^ 16 = 0x0F23) ∧
      ∃ t, exec .hostConfigRequest { coreLinked with sys := { coreLinked.sys with ready := false } } = .next t := by
  obtain ⟨requests, -⟩ := theHostLinkComesAndGoes
  obtain ⟨serves, -⟩ := requests coreLinked 3 .identity 0 4 widestControl rfl rfl rfl (by decide)
  obtain ⟨-, register⟩ := serves rfl rfl
  obtain ⟨⟨t, write, -, control⟩, u, read, -, identity, -⟩ := register rfl
  obtain ⟨-, waits⟩ := requests { coreLinked with sys := { coreLinked.sys with ready := false } } 3 .identity 0 4 widestControl rfl rfl rfl (by decide)
  obtain ⟨v, request, -⟩ := waits rfl .hostConfigRequest (by simp)
  exact ⟨⟨t, write, congrArg Fn.devctl control⟩, ⟨u, read, identity rfl⟩, v, request⟩

/-- The other two: its link returns after a stall of the PCIe clock, and it leaves DL_Active, which resets function 3. -/
theorem coreLinked_losesItsLink :
    (∃ t, exec .hostLinkUp { coreLinked with sys := { coreLinked.sys with linkUp := false, stalled := [.pcie, .mgmt] } } = .next t ∧
        .pcie ∉ t.sys.stalled ∧ .mgmt ∈ t.sys.stalled) ∧
      ∃ t, exec .hostLinkDown coreLinked = .next t ∧ (t.part 3).shutter = .closing := by
  obtain ⟨-, returns, leaves⟩ := theHostLinkComesAndGoes
  obtain ⟨t, up, -, stalled⟩ := returns { coreLinked with sys := { coreLinked.sys with linkUp := false, stalled := [.pcie, .mgmt] } } rfl rfl
  obtain ⟨u, down, -, -, -, closes⟩ := leaves coreLinked rfl (by decide +kernel) (by decide +kernel)
  exact ⟨⟨t, up, fun gone => ((stalled .pcie).1 gone).2 rfl, (stalled .mgmt).2 ⟨by simp, by decide⟩⟩, u, down, (closes 3 rfl).1⟩

end Sys2Proof.Machine
end
